-- ==== Sys2Proof/Word.lean ====
section
/-! DEFINITION. The word types of the Phizar P8: 32-bit registers, 64-bit pairs, bytes and 32-lane masks. -/

namespace Sys2Proof

/-- A 32-bit register value (R31). -/
abbrev Word := BitVec 32

/-- A 64-bit value, held in an even and odd register pair (R33), and the width of an address (R25). -/
abbrev DWord := BitVec 64

/-- One byte of memory. -/
abbrev Byte := BitVec 8

/-- One bit for each lane of a warp: bit `l` stands for lane `l` (R20). -/
abbrev LaneMask := BitVec 32

end Sys2Proof
end

