-- ==== Sys2Proof/Config.lean ====
section
/-! DEFINITION. What an implementation of the P8 fixes and the manual does not state (free values, with no
body, so that nothing can be proved about them), and the figures the manual does state. Log entries 1 and 8. -/

namespace Sys2Proof.Config

/-- What the device adds to an operation's number to make its token: the device chooses the value (R242).
DESIGN CHOICE: log 1. -/
opaque tokenBase : Word

/-- What the peer packages of a collective contribute: the n-th member's element, which their memories hold (R383). -/
opaque peerMember : Nat → Nat → DWord

/-- A scalar that NLDS reads beyond the run's sixteen arguments (R372). -/
opaque nbScalar : Nat → Word

/-- Ordinary requests wait for a stall's channel at the n-th step of the machine: traffic is not modelled (R377). -/
opaque channelBusy : Nat → Bool

/-- Byte `n` of the BODY of a hardware entry of the Assize Roll, from its type and the data it records: the layout is not
given (R331). -/
opaque rollBody : Nat → List Byte → Nat → Byte

/-- A word of a mailbox request whose contents the manual does not lay out: the step at which the request came, and the offset
(R316); and what a read of a notify page gives, which the manual does not say (R271, R391). -/
opaque mailboxWord : Nat → Nat → DWord

/-- Cycles that pass in the n-th step of the machine (R39: free-mode `clock`); timing is not modelled. -/
opaque cyclesOf : Nat → Nat

/-- The bank group, and so the stall, that holds the 2 KiB row at a physical address: fixed and not published (R372). -/
opaque bankGroup : Nat → Nat

/-- The identity key's ECDSA P-384 signature of a message (R329, R330): the key is fused and not published. -/
opaque signature : List Byte → List Byte

/-- Device-chosen bytes of the n-th attestation exchange: nonces, ephemeral keys and certificate bytes (R329). -/
opaque attestBytes : Nat → List Byte

/-- The answer to a configuration or CDAT request whose contents the manual does not give (R389, R391). -/
opaque configWord : Nat → Word

/-- The device-internal bytes that a save block holds outside the parts whose layout R170 and R280 give (R295). -/
opaque saveByte : Nat → Byte

/-- Which of the slices that the partition owns on a line's tier is the line's home: fixed and not published (R24). -/
opaque homeSlice : Nat → Nat

/-- The peer refuses, at the n-th step, an access to one of its pages: its entries are its own (R325, R397). -/
opaque peerRefuses : Nat → Nat → Nat → Bool

/-- By the n-th step, a peer has arrived in a phase of a package barrier that includes it: step, phase, peer (R266). -/
opaque peerArrives : Nat → Nat → Nat → Bool

/-- By the n-th step, L2 has evicted a line, which is then filled again when it is next needed (R112): replacement is not
modelled. -/
opaque evicted : Nat → Nat → Bool

/-- At the n-th step, a chunk that a recall has cut has waited 256 cycles for its grant (R356): timing is not modelled. -/
opaque grantLate : Nat → Bool

/-- Byte `n` of the report of a scrub: its layout is not given (R331). -/
opaque scrubReport : Nat → Nat → Byte

/-- Whether the link event of the n-th step concerns the direction out of the device (R390). A free value: logs 1 and 26. -/
opaque linkSide : Nat → Bool

/-- The lanes that a training state finds present or passing at the n-th step (R390). A free value: logs 1 and 26. -/
opaque linkLanes : Nat → BitVec 32

/-- Pages in one partition's region table, context count and similar limits (R30, R214). -/
def regionTableSize : Nat := 1024

/-- Hardware launch-queue slots of the package (R272). -/
def queueSlots : Nat := 256

/-- Bytes of device DRAM: 384 GiB (R28). -/
def dramBytes : Nat := 384 * 2 ^ 30

/-- Pages of device DRAM, and pages of the reverse ownership table: 24 MiB (R324). -/
def dramPages : Nat := 6291456
def rotPages : Nat := 384

/-- Bytes of a translation page (R25). -/
def pageBytes : Nat := 65536

/-- Entries that the Assize Roll holds (R330). -/
def rollEntries : Nat := 262144

/-- Operation records of one launch (R241). -/
def opRecords : Nat := 16384

/-- Released COPYs of one group that have not published (R240). -/
def groupCopies : Nat := 64

/-- Entries of one matrix engine's queue (R148), and of one stall's run queue (R374). -/
def engineQueue : Nat := 16

/-- Undo log, speculative lines and read lines of a reproducible chunk (R193). -/
def undoBudget : Nat := 2048
def lineBudget : Nat := 16
def setBudget : Nat := 256

/-- The undo buffer of one core in free mode: 64 KiB, shared by its warps (R16, R414). -/
def undoBuffer : Nat := 65536

/-- Cycles of the no-commit watchdog (R298). -/
def watchdogCycles : Nat := 2 ^ 30

/-- Figures of one tier (R13). -/
def coresPerTier : Nat := 192
def quadsPerTier : Nat := 48
def channelsPerTier : Nat := 96
def stallsPerTier : Nat := 1536

end Sys2Proof.Config
end

