-- ==== Sys2Proof/Syntax.lean ====
section
/-! DEFINITION. The instructions, operand forms and device events of the P8: one constructor of `Instr` for each
row of spec/opcode_table.json. Core words are R41 to R62, near-bank microinstructions R368, and the remaining rows are
the indivisible steps of the device's other agents, with the values that come from outside as arguments. -/

namespace Sys2Proof

/-! ### Operand fields -/

/-- A register field of 8 bits (R32): `v0` to `v223`, then `s0` to `s31`. -/
inductive Reg where
  | v (n : Fin 224)
  | s (n : Fin 32)
  deriving DecidableEq, Repr

/-- Predicate guard of a word (R48). -/
structure Guard where
  p : Fin 8
  neg : Bool
  deriving DecidableEq, Repr

/-- A predicate source field: number and negation (R36). -/
structure PSrc where
  p : Fin 8
  neg : Bool
  deriving DecidableEq, Repr

/-- Operand types of the lane classes (R51). -/
inductive Ty where
  | u32 | i32 | u64 | i64 | f32 | f64 | f16x2 | bf16x2 | f8e4x4 | f8e5x4 | u16x2 | i16x2 | u8x4 | i8x4
  deriving DecidableEq, Repr

/-- Rounding modes (R50, R93). -/
inductive Rm where
  | rne | rtz | rup | rdn
  deriving DecidableEq, Repr

/-- Conditions of SUB (R53). -/
inductive Cond where
  | eq | ne | lt | le | gt | ge | num | nan | equ | neu | ltu | leu | gtu | geu
  deriving DecidableEq, Repr

/-- The modifier field M of the lane classes (R50); `sub` stays a number that the instruction reads. -/
structure Mods where
  ty : Ty
  rm : Rm
  sat : Bool
  apx : Bool
  na : Bool
  nb : Bool
  aa : Bool
  ab : Bool
  sub : Fin 16
  deriving DecidableEq, Repr

/-- Operands of a format-W lane instruction with register fields (R45, R50). -/
structure LaneArgs where
  g : Guard
  d : Reg
  a : Reg
  b : Reg
  c : Reg
  m : Mods
  deriving DecidableEq, Repr

/-- Operands of ISETP, ISETP64 and FSETP: a predicate destination and an ANDed predicate (R119, R128). -/
structure SetpArgs where
  g : Guard
  pd : Fin 8
  a : Reg
  b : Reg
  pc : PSrc
  m : Mods
  deriving DecidableEq, Repr

/-- Operands of SEL (R119). -/
structure SelArgs where
  g : Guard
  d : Reg
  a : Reg
  b : Reg
  pc : PSrc
  m : Mods
  deriving DecidableEq, Repr

/-- Operands of TLOG: three registers and a truth table (R123). -/
structure TlogArgs where
  g : Guard
  d : Reg
  a : Reg
  b : Reg
  c : Reg
  tt : BitVec 8
  deriving DecidableEq, Repr

/-- Operands of PLOG: three predicates and a truth table (R123). -/
structure PlogArgs where
  g : Guard
  pd : Fin 8
  pa : PSrc
  pb : PSrc
  pc : PSrc
  tt : BitVec 8
  deriving DecidableEq, Repr

/-- Operands of the format-WI integer instructions (R125). -/
structure ImmArgs where
  g : Guard
  d : Reg
  a : Reg
  imm : Word
  deriving DecidableEq, Repr

/-- Operands of ISETPI (R125). -/
structure SetpiArgs where
  g : Guard
  pd : Fin 8
  a : Reg
  cond : Fin 16
  signed : Bool
  imm : BitVec 27
  deriving DecidableEq, Repr

/-- Operands of MOVW (R61, R126). -/
structure MovwArgs where
  g : Guard
  d : Reg
  imm : DWord
  deriving DecidableEq, Repr

/-- Operands of SREAD: destination and selector (R39, R127). -/
structure SreadArgs where
  g : Guard
  d : Reg
  sel : BitVec 8
  deriving DecidableEq, Repr

/-- A guard and one register (FLAGRD, FLAGCLR, PGRESET, REGSWEEP, JMP, CALLR, …). -/
structure RegArgs where
  g : Guard
  r : Reg
  deriving DecidableEq, Repr

/-- Types of EXPR (R62). -/
inductive ExprTy where
  | f32 | f16x2 | bf16x2 | i32
  deriving DecidableEq, Repr

/-- Operands of EXPR (R62, R138); `toks` holds the twelve token slots. -/
structure ExprArgs where
  g : Guard
  d : Reg
  a : Reg
  b : Reg
  c : Reg
  e : Reg
  ty : ExprTy
  rm : Rm
  nt : Fin 16
  toks : List (Fin 32)
  deriving DecidableEq, Repr

/-- Operands of CVT (R134). -/
structure CvtArgs where
  g : Guard
  d : Reg
  a : Reg
  k : Fin 4
  dst : Ty
  src : Ty
  rm : Rm
  sat : Bool
  deriving DecidableEq, Repr

/-- Operands of POLL; `d` is a predicate for modes 0 to 2 and a v register for modes 3 and 4 (R143). -/
structure PollArgs where
  g : Guard
  d : Reg
  pa : PSrc
  mode : Fin 16
  deriving DecidableEq, Repr

/-- Operands of the plain memory accesses (R54, R206, R210, R211). -/
structure MemArgs where
  g : Guard
  data : Reg
  addr : Reg
  off : BitVec 16
  sz : Fin 8
  sx : Bool
  hint : Fin 4
  col : Bool
  deriving DecidableEq, Repr

/-- Atomic operations (R55). -/
inductive Aop where
  | add | min | max | and | or | xor | exch
  deriving DecidableEq, Repr

/-- Atomic types (R55). -/
inductive Aty where
  | u32 | i32 | u64 | i64 | f32 | f64 | bf16x2 | f16x2
  deriving DecidableEq, Repr

/-- Operands of ATOM, ATOMS and RED (R55, R222). -/
structure AtomArgs where
  g : Guard
  d : Reg
  a : Reg
  b : Reg
  off : BitVec 8
  hint : Fin 4
  col : Bool
  op : Aop
  ty : Aty
  deriving DecidableEq, Repr

/-- Operands of CAS (R223). -/
structure CasArgs where
  g : Guard
  d : Reg
  a : Reg
  b : Reg
  c : Reg
  sz : Fin 8
  hint : Fin 4
  deriving DecidableEq, Repr

/-- Operands of ENQ and DEQ: predicate, block address, entry register, size (R226). -/
structure RingArgs where
  g : Guard
  pd : Fin 8
  a : Reg
  data : Reg
  sz : Fin 8
  deriving DecidableEq, Repr

/-- A predicate destination, an address pair and a further register (PGSTAT, STEPOPEN, STEPEND). -/
structure PAddrArgs where
  g : Guard
  pd : Fin 8
  a : Reg
  b : Reg
  deriving DecidableEq, Repr

/-- Two registers (PGENUM, LAUNCH, CTLRD, SCRUB: destination and source; AWINIT, ARRIVE, AWAIT, NBLOAD: a and b). -/
structure TwoRegArgs where
  g : Guard
  d : Reg
  a : Reg
  deriving DecidableEq, Repr

/-- Three registers (AUDIT). -/
structure ThreeRegArgs where
  g : Guard
  d : Reg
  a : Reg
  b : Reg
  deriving DecidableEq, Repr

/-- A guard and a 32-bit immediate (BRA, CALL, TXBEGIN, SLEEP, TRAP, BRK). -/
structure OffArgs where
  g : Guard
  imm : Word
  deriving DecidableEq, Repr

/-- Operands of TXABORT (R228). -/
structure TxAbortArgs where
  g : Guard
  code : BitVec 8
  deriving DecidableEq, Repr

/-- Operands of COPY (R233). -/
structure CopyArgs where
  g : Guard
  h : Fin 16
  xf : Fin 16
  sa : Reg
  da : Reg
  gr : Reg
  pr : Reg
  ssp : Bool
  dsp : Bool
  col : Bool
  ra : Reg
  aw : Reg
  hint : Fin 4
  deriving DecidableEq, Repr

/-- Operands of HWAIT (R242). -/
structure HwaitArgs where
  g : Guard
  h : Fin 16
  pw : Bool
  pd : PSrc
  deriving DecidableEq, Repr

/-- Operands of HTEST (R242). -/
structure HtestArgs where
  g : Guard
  pd : Fin 8
  h : Fin 16
  deriving DecidableEq, Repr

/-- A handle and one register (HCANCEL, HTOK, HADOPT, NBRUN, COLL). -/
structure HandleArgs where
  g : Guard
  h : Fin 16
  r : Reg
  deriving DecidableEq, Repr

/-- A guard and a 32-bit mask (GANG, R153). -/
structure GangArgs where
  g : Guard
  mask : Word
  deriving DecidableEq, Repr

/-- Matrix operand formats (R149). -/
inductive MFmt where
  | fp64 | fp32 | bf16 | fp16 | f8e4 | f8e5 | oq4
  deriving DecidableEq, Repr

/-- Operands of MMA (R159): `ks` is the K-steps minus 1, `pa` and `pb` the pitches divided by 16. -/
structure MmaArgs where
  g : Guard
  dt : Fin 16
  h : Fin 16
  ar : Reg
  br : Reg
  sa : Reg
  sb : Reg
  ovw : Bool
  asrc : Bool
  ks : Fin 64
  fa : MFmt
  fb : MFmt
  asat : Bool
  pa : BitVec 12
  pb : BitVec 12
  deriving DecidableEq, Repr

/-- Operands of ACCZ: the tile mask (R162). -/
structure AcczArgs where
  g : Guard
  mask : BitVec 16
  deriving DecidableEq, Repr

/-- Memory formats of ACCLD and ACCST (R163). -/
inductive AccFmt where
  | f32 | f64 | acc96 | bf16 | fp16
  deriving DecidableEq, Repr

/-- Operands of ACCLD and ACCST (R163). -/
structure AccArgs where
  g : Guard
  h : Fin 16
  a : Reg
  tile : Fin 16
  fmt : AccFmt
  rm : Rm
  sat : Bool
  pitch : BitVec 9
  deriving DecidableEq, Repr

/-- Operands of ACCRD (R165); `f64` is TY 5. -/
structure AccrdArgs where
  g : Guard
  d : Reg
  tile : Fin 16
  b : Reg
  f64 : Bool
  rm : Rm
  sat : Bool
  deriving DecidableEq, Repr

/-- Operands of BRX (R259). -/
structure BrxArgs where
  g : Guard
  a : Reg
  b : Reg
  n : BitVec 8
  deriving DecidableEq, Repr

/-- Operands of RET and WSYNC: a register and the bit 0 of M (R259). -/
structure RegBitArgs where
  g : Guard
  r : Reg
  bit : Bool
  deriving DecidableEq, Repr

/-- Barrier levels (R266). -/
inductive Level where
  | core | quad | tier | pkg
  deriving DecidableEq, Repr

/-- Operands of BAR, BARA and BARW (R266). -/
structure BarArgs where
  g : Guard
  a : Reg
  lv : Level
  cnt : Bool
  id : Fin 32
  deriving DecidableEq, Repr

/-- Operands of YIELD (R268). -/
structure YieldArgs where
  g : Guard
  rot : Bool
  deriving DecidableEq, Repr

/-- Operands of CTLWR (R336). -/
structure CtlwrArgs where
  g : Guard
  pw : Bool
  pd : Fin 8
  a : Reg
  b : Reg
  deriving DecidableEq, Repr

/-! ### Pair words -/

/-- Pair operations (R72). -/
inductive PairOp where
  | iadd | isub | imul | iminS | imaxS | iminU | imaxU | and | or | xor | shl | shrU | shrS
  | iaddi | andi | ori | xori | shli | shriU | shriS | movi8
  | faddF32 | fsubF32 | fmulF32 | fminF32 | fmaxF32 | faddF16x2 | fmulF16x2 | faddBf16x2 | fmulBf16x2
  | mov | cvtF32I32 | cvtI32F32 | cvtF32F16 | cvtF32Bf16
  deriving DecidableEq, Repr

/-- One non-empty half of a pair word (R57). -/
structure PairHalf where
  op : PairOp
  d : Reg
  a : Reg
  x : BitVec 8
  deriving DecidableEq, Repr

/-- A pair word seen from the half that names the constructor: H0, or H1 when H0 is empty (`inH1`).
`mate` is H1 beside a non-empty H0 (R57, R58). -/
structure PairArgs where
  inH1 : Bool
  d : Reg
  a : Reg
  x : BitVec 8
  mate : Option PairHalf
  deriving DecidableEq, Repr

/-! ### Names of the device's agents and objects -/

/-- A warp: its launch (by the model's launch number), linear group index and warp number. -/
structure WarpId where
  launch : Nat
  group : Nat
  warp : Nat
  deriving DecidableEq, Repr

/-- A matrix engine: physical core and engine 0 or 1 (R16). -/
structure EngineId where
  core : Nat
  eng : Nat
  deriving DecidableEq, Repr

/-- A context identifier (R315). -/
structure CtxKey where
  part : Nat
  ctx : Nat
  fw : Bool
  deriving DecidableEq, Repr

/-- A user queue: partition and queue index (R270). -/
structure QueueKey where
  part : Nat
  idx : Nat
  deriving DecidableEq, Repr

/-- Address spaces. A translation reaches the first four (R322, R214): a region's pages are named by the partition and
the virtual address, whether backed or not. The last is the scratchpad portion of a group (R23). -/
inductive Space where
  | dev
  | region (part : Nat)
  | host
  | peer (n : Nat)
  | spad (launch group : Nat)
  deriving DecidableEq, Repr

/-- A byte location. -/
structure Loc where
  space : Space
  addr : Nat
  deriving DecidableEq, Repr

/-- Agents of R358. -/
inductive AgentId where
  | core (n : Nat)
  | stall (n : Nat)
  | engine (e : EngineId)
  | copyEngine (core : Nat)
  | peer (n : Nat)
  | hostBridge
  deriving DecidableEq, Repr

/-- Reasons of a directory recall (R355). -/
inductive RecallReason where
  | replacement | nearBankRun | roleFlush | hostAccess | windowDisable
  deriving DecidableEq, Repr

/-- State that a soft error can strike (R351). `lane` is none for state of the whole warp. -/
inductive SoftTarget where
  | vreg (w : WarpId) (r : Nat) (lane : Nat)
  | sreg (w : WarpId) (r : Nat)
  | pred (w : WarpId) (r : Nat)
  | flags (w : WarpId)
  | gang (w : WarpId)
  | handle (w : WarpId) (h : Nat)
  | undo (w : WarpId) (bothBad : Bool)
  | spad (w : WarpId) (word : Nat)
  | l1Spec (w : WarpId)
  | l1Clean (line : Loc)
  | l1Dirty (line : Loc)
  | memory (half : Loc)
  | tile (launch : Nat) (group : Nat) (tile : Nat)
  deriving DecidableEq, Repr

/-- What waits for backing (R217). -/
inductive PoolWaiter where
  | chunk (w : WarpId)
  | op (n : Nat)
  | stall (run : Nat) (stall : Nat)
  deriving DecidableEq, Repr

/-- Host intent of a CXL.mem read: plain, or caching the half Shared or Owned (R187, R394). -/
inductive HostRead where
  | plain | shared | owned
  deriving DecidableEq, Repr

/-- A host's read of a function: a word of its configuration space, or of its BAR (R391, R399). -/
inductive ConfigRead where
  | config (off : Nat)
  | bar (n off : Nat)
  deriving DecidableEq, Repr

/-- A peer package's access (R396). -/
inductive PeerAccess where
  | load (bytes : Nat)
  | store (data : List Byte)
  deriving DecidableEq, Repr

/-- A placed group on resume: launch, group, core (R296). -/
structure Placement where
  launch : Nat
  group : Nat
  core : Nat
  deriving DecidableEq, Repr

/-- What bring-up meets: the step that fails, if any, and the trained link, ports and calibrated role table (R398). -/
structure BringUp where
  failStep : Option (Fin 8)
  lwidth : Fin 16
  lrate : Bool
  fports : BitVec 24
  forbidden : List (BitVec 8)
  digests : List (List Byte)
  /-- The measured firmware: its class-3 pages, the image placed from the first of them, and the firmware context's table
  root and queue header (R315, R398). -/
  fwBase : Nat
  fwPages : Nat
  fwImage : List Byte
  fwRoot : Nat
  fwHeader : Nat
  deriving DecidableEq, Repr

/-- A mailbox request's mailbox and tag: partition mailbox 0 to 15, or the administrative one (R316), which is written by the
host or over the management port (R393). -/
structure Req where
  admin : Bool
  part : Nat
  tag : Word
  mgmt : Bool := false
  deriving DecidableEq, Repr

/-- A region descriptor with the physical addresses that follow it (R214, R381). -/
structure RegionArgs where
  w0 : DWord
  w1 : DWord
  w2 : DWord
  w3 : DWord
  fpa : Nat
  voff : Nat
  deriving DecidableEq, Repr

/-- The ownership images of PART_CREATE (R311, R393). -/
structure PartImage where
  quads : BitVec 384
  slices : BitVec 1536
  chans : BitVec 768
  meng : BitVec 3072
  ceng : BitVec 1536
  stalls : BitVec 8
  fwins : BitVec 16
  hosts : List (Nat × Nat)
  deriving DecidableEq, Repr

/-- One SPDM request's message bytes, as far as the manual gives it a use (R329). -/
structure SpdmArgs where
  session : Option Nat
  param : Nat
  payload : List Byte
  deriving DecidableEq, Repr

/-! ### Instructions -/

/-- Why a word is an illegal encoding (R49, R79); the fault records the word's address. -/
inductive IllegalReason where
  | strayContinuation | unassigned | notTwoWord | needsLead | noContinuation | field | pairRule | expression
  | launchLimit
  deriving DecidableEq, Repr

/-- One constructor for each row of the opcode table. -/
inductive Instr where
  | iadd (a : LaneArgs)  -- IADD, R119
  | isub (a : LaneArgs)  -- ISUB, R119
  | imul (a : LaneArgs)  -- IMUL, R119
  | imulh (a : LaneArgs)  -- IMULH, R119
  | imad (a : LaneArgs)  -- IMAD, R119
  | idiv (a : LaneArgs)  -- IDIV, R121
  | irem (a : LaneArgs)  -- IREM, R121
  | imin (a : LaneArgs)  -- IMIN, R119
  | imax (a : LaneArgs)  -- IMAX, R119
  | iabs (a : LaneArgs)  -- IABS, R119
  | iadd64 (a : LaneArgs)  -- IADD64, R119
  | isub64 (a : LaneArgs)  -- ISUB64, R119
  | lea (a : LaneArgs)  -- LEA, R119
  | isetp (a : SetpArgs)  -- ISETP, R124
  | isetp64 (a : SetpArgs)  -- ISETP64, R124
  | and (a : LaneArgs)  -- AND, R119
  | or (a : LaneArgs)  -- OR, R119
  | xor (a : LaneArgs)  -- XOR, R119
  | tlog (a : TlogArgs)  -- TLOG, R123
  | shl (a : LaneArgs)  -- SHL, R119
  | shr (a : LaneArgs)  -- SHR, R119
  | shw (a : LaneArgs)  -- SHW, R122
  | popc (a : LaneArgs)  -- POPC, R119
  | clz (a : LaneArgs)  -- CLZ, R119
  | brev (a : LaneArgs)  -- BREV, R119
  | bfe (a : LaneArgs)  -- BFE, R122
  | bfi (a : LaneArgs)  -- BFI, R122
  | bpick (a : LaneArgs)  -- BPICK, R122
  | sel (a : SelArgs)  -- SEL, R119
  | mov (a : LaneArgs)  -- MOV, R119
  | plog (a : PlogArgs)  -- PLOG, R123
  | movi (a : ImmArgs)  -- MOVI, R125
  | iaddi (a : ImmArgs)  -- IADDI, R125
  | andi (a : ImmArgs)  -- ANDI, R125
  | ori (a : ImmArgs)  -- ORI, R125
  | xori (a : ImmArgs)  -- XORI, R125
  | isetpi (a : SetpiArgs)  -- ISETPI, R125
  | movw (a : MovwArgs)  -- MOVW, R126
  | sread (a : SreadArgs)  -- SREAD, R127
  | fadd (a : LaneArgs)  -- FADD, R128
  | fsub (a : LaneArgs)  -- FSUB, R128
  | fmul (a : LaneArgs)  -- FMUL, R128
  | ffma (a : LaneArgs)  -- FFMA, R128
  | fmin (a : LaneArgs)  -- FMIN, R130
  | fmax (a : LaneArgs)  -- FMAX, R130
  | fsetp (a : SetpArgs)  -- FSETP, R128
  | fclass (a : LaneArgs)  -- FCLASS, R131
  | fdiv (a : LaneArgs)  -- FDIV, R132
  | fsqrt (a : LaneArgs)  -- FSQRT, R132
  | frcp (a : LaneArgs)  -- FRCP, R132
  | frsq (a : LaneArgs)  -- FRSQ, R132
  | fex2 (a : LaneArgs)  -- FEX2, R132
  | flg2 (a : LaneArgs)  -- FLG2, R132
  | fsin (a : LaneArgs)  -- FSIN, R132
  | fcos (a : LaneArgs)  -- FCOS, R132
  | expr (a : ExprArgs)  -- EXPR, R140
  | flagrd (a : RegArgs)  -- FLAGRD, R133
  | flagclr (a : RegArgs)  -- FLAGCLR, R133
  | cvt (a : CvtArgs)  -- CVT, R134
  | frnd (a : LaneArgs)  -- FRND, R135
  | pack (a : LaneArgs)  -- PACK, R136
  | unpk (a : LaneArgs)  -- UNPK, R136
  | rgtr (a : LaneArgs)  -- RGTR, R137
  | xlane (a : LaneArgs)  -- XLANE, R142
  | poll (a : PollArgs)  -- POLL, R143
  | wred (a : LaneArgs)  -- WRED, R144
  | wscan (a : LaneArgs)  -- WSCAN, R144
  | eqm (a : LaneArgs)  -- EQM, R145
  | rdlane (a : LaneArgs)  -- RDLANE, R145
  | ld (a : MemArgs)  -- LD, R206
  | st (a : MemArgs)  -- ST, R206
  | lds (a : MemArgs)  -- LDS, R206
  | sts (a : MemArgs)  -- STS, R206
  | atom (a : AtomArgs)  -- ATOM, R222
  | atoms (a : AtomArgs)  -- ATOMS, R222
  | red (a : AtomArgs)  -- RED, R222
  | cas (a : CasArgs)  -- CAS, R223
  | enq (a : RingArgs)  -- ENQ, R226
  | deq (a : RingArgs)  -- DEQ, R226
  | pgenum (a : TwoRegArgs)  -- PGENUM, R219
  | pgstat (a : PAddrArgs)  -- PGSTAT, R219
  | pgreset (a : RegArgs)  -- PGRESET, R220
  | regsweep (a : RegArgs)  -- REGSWEEP, R221
  | prefetch (a : MemArgs)  -- PREFETCH, R210
  | lnflush (a : MemArgs)  -- LNFLUSH, R211
  | chunk (g : Guard)  -- CHUNK, R227
  | txbegin (a : OffArgs)  -- TXBEGIN, R229
  | txend (g : Guard)  -- TXEND, R229
  | txabort (a : TxAbortArgs)  -- TXABORT, R230
  | settle (g : Guard)  -- SETTLE, R190
  | beat (g : Guard)  -- BEAT, R190
  | copy (a : CopyArgs)  -- COPY, R233
  | hwait (a : HwaitArgs)  -- HWAIT, R242
  | htest (a : HtestArgs)  -- HTEST, R242
  | hcancel (a : HandleArgs)  -- HCANCEL, R243
  | htok (a : HandleArgs)  -- HTOK, R242
  | hadopt (a : HandleArgs)  -- HADOPT, R242
  | awinit (a : TwoRegArgs)  -- AWINIT, R245
  | arrive (a : TwoRegArgs)  -- ARRIVE, R245
  | await (a : TwoRegArgs)  -- AWAIT, R245
  | nbrun (a : HandleArgs)  -- NBRUN, R373
  | nbload (a : TwoRegArgs)  -- NBLOAD, R371
  | stepopen (a : PAddrArgs)  -- STEPOPEN, R382
  | stepend (a : PAddrArgs)  -- STEPEND, R382
  | coll (a : HandleArgs)  -- COLL, R383
  | gang (a : GangArgs)  -- GANG, R153
  | mma (a : MmaArgs)  -- MMA, R161
  | accz (a : AcczArgs)  -- ACCZ, R162
  | accld (a : AccArgs)  -- ACCLD, R164
  | accst (a : AccArgs)  -- ACCST, R164
  | accrd (a : AccrdArgs)  -- ACCRD, R165
  | nop (g : Guard)  -- NOP, R260
  | bra (a : OffArgs)  -- BRA, R260
  | brx (a : BrxArgs)  -- BRX, R261
  | jmp (a : RegArgs)  -- JMP, R260
  | call (a : OffArgs)  -- CALL, R262
  | callr (a : RegArgs)  -- CALLR, R262
  | ret (a : RegBitArgs)  -- RET, R257
  | exit (g : Guard)  -- EXIT, R255
  | wsync (a : RegBitArgs)  -- WSYNC, R264
  | bar (a : BarArgs)  -- BAR, R266
  | bara (a : BarArgs)  -- BARA, R266
  | barw (a : BarArgs)  -- BARW, R266
  | yield (a : YieldArgs)  -- YIELD, R268
  | sleep (a : OffArgs)  -- SLEEP, R269
  | launch (a : TwoRegArgs)  -- LAUNCH, R301
  | depdone (g : Guard)  -- DEPDONE, R302
  | ydone (g : Guard)  -- YDONE, R303
  | yret (g : Guard)  -- YRET, R303
  | trap (a : OffArgs)  -- TRAP, R347
  | brk (a : OffArgs)  -- BRK, R348
  | ctlrd (a : TwoRegArgs)  -- CTLRD, R337
  | ctlwr (a : CtlwrArgs)  -- CTLWR, R337
  | audit (a : ThreeRegArgs)  -- AUDIT, R339
  | scrub (a : TwoRegArgs)  -- SCRUB, R340
  | illegalEncodingIssue (why : IllegalReason)  -- ILLEGAL_ENCODING_ISSUE, R77
  | pairIadd (p : PairArgs)  -- PAIR_IADD, R72
  | pairIsub (p : PairArgs)  -- PAIR_ISUB, R72
  | pairImul (p : PairArgs)  -- PAIR_IMUL, R72
  | pairIminS (p : PairArgs)  -- PAIR_IMIN_S, R72
  | pairImaxS (p : PairArgs)  -- PAIR_IMAX_S, R72
  | pairIminU (p : PairArgs)  -- PAIR_IMIN_U, R72
  | pairImaxU (p : PairArgs)  -- PAIR_IMAX_U, R72
  | pairAnd (p : PairArgs)  -- PAIR_AND, R72
  | pairOr (p : PairArgs)  -- PAIR_OR, R72
  | pairXor (p : PairArgs)  -- PAIR_XOR, R72
  | pairShl (p : PairArgs)  -- PAIR_SHL, R72
  | pairShrU (p : PairArgs)  -- PAIR_SHR_U, R72
  | pairShrS (p : PairArgs)  -- PAIR_SHR_S, R72
  | pairIaddi (p : PairArgs)  -- PAIR_IADDI, R72
  | pairAndi (p : PairArgs)  -- PAIR_ANDI, R72
  | pairOri (p : PairArgs)  -- PAIR_ORI, R72
  | pairXori (p : PairArgs)  -- PAIR_XORI, R72
  | pairShli (p : PairArgs)  -- PAIR_SHLI, R72
  | pairShriU (p : PairArgs)  -- PAIR_SHRI_U, R72
  | pairShriS (p : PairArgs)  -- PAIR_SHRI_S, R72
  | pairMovi8 (p : PairArgs)  -- PAIR_MOVI8, R72
  | pairFaddF32 (p : PairArgs)  -- PAIR_FADD_F32, R72
  | pairFsubF32 (p : PairArgs)  -- PAIR_FSUB_F32, R72
  | pairFmulF32 (p : PairArgs)  -- PAIR_FMUL_F32, R72
  | pairFminF32 (p : PairArgs)  -- PAIR_FMIN_F32, R72
  | pairFmaxF32 (p : PairArgs)  -- PAIR_FMAX_F32, R72
  | pairFaddF16x2 (p : PairArgs)  -- PAIR_FADD_F16X2, R72
  | pairFmulF16x2 (p : PairArgs)  -- PAIR_FMUL_F16X2, R72
  | pairFaddBf16x2 (p : PairArgs)  -- PAIR_FADD_BF16X2, R72
  | pairFmulBf16x2 (p : PairArgs)  -- PAIR_FMUL_BF16X2, R72
  | pairMov (p : PairArgs)  -- PAIR_MOV, R72
  | pairCvtF32I32 (p : PairArgs)  -- PAIR_CVT_F32_I32, R72
  | pairCvtI32F32 (p : PairArgs)  -- PAIR_CVT_I32_F32, R72
  | pairCvtF32F16 (p : PairArgs)  -- PAIR_CVT_F32_F16, R72
  | pairCvtF32Bf16 (p : PairArgs)  -- PAIR_CVT_F32_BF16, R72
  | nnop  -- NNOP, R369
  | nopen (st : Fin 4)  -- NOPEN, R369
  | nopens (st : Fin 4)  -- NOPENS, R369
  | nclose  -- NCLOSE, R376
  | nrd (bd : Fin 8)  -- NRD, R369
  | nwr (ba : Fin 8)  -- NWR, R369
  | nadd (bd ba bb : Fin 8)  -- NADD, R369
  | nsub (bd ba bb : Fin 8)  -- NSUB, R369
  | nmul (bd ba bb : Fin 8)  -- NMUL, R369
  | nfma (bd ba bb : Fin 8)  -- NFMA, R369
  | naxpy (bd ba : Fin 8) (ns : Fin 16)  -- NAXPY, R369
  | nscale (bd ba : Fin 8) (ns : Fin 16)  -- NSCALE, R369
  | nmax (bd ba bb : Fin 8)  -- NMAX, R369
  | nmin (bd ba bb : Fin 8)  -- NMIN, R369
  | nrsq (bd ba : Fin 8)  -- NRSQ, R369
  | nchk (ba : Fin 8)  -- NCHK, R369
  | nmovb (bd ba : Fin 8)  -- NMOVB, R369
  | nset (nd : Fin 16) (imm : BitVec 16)  -- NSET, R369
  | nseth (nd : Fin 16) (imm : BitVec 16)  -- NSETH, R369
  | naddi (nd : Fin 16) (imm : BitVec 16)  -- NADDI, R369
  | nlds (nd : Fin 16) (k : BitVec 16)  -- NLDS, R369
  | nloop (nd : Fin 16) (tgt : BitVec 8)  -- NLOOP, R369
  | nbra (tgt : BitVec 8)  -- NBRA, R369
  | nbrz (nd : Fin 16) (tgt : BitVec 8)  -- NBRZ, R369
  | npoint  -- NPOINT, R377
  | ndone  -- NDONE, R374
  | chunkCommit (w : WarpId)  -- CHUNK_COMMIT, R177
  | preGrant (w : WarpId)  -- PRE_GRANT, R178
  | redApplication (op : Nat)  -- RED_APPLICATION, R182
  | commitRound (c : CtxKey)  -- COMMIT_ROUND, R191
  | heartbeatTick  -- HEARTBEAT_TICK, R189
  | tileOpStart (e : EngineId)  -- TILE_OP_START, R148
  | mmaKstep (e : EngineId) (mismatch : Bool)  -- MMA_KSTEP, R161
  | tileOpComplete (e : EngineId)  -- TILE_OP_COMPLETE, R164
  | engineWatchdogExpiry (e : EngineId)  -- ENGINE_WATCHDOG_EXPIRY, R168
  | engineReturnToService (e : EngineId)  -- ENGINE_RETURN_TO_SERVICE, R359
  | copyEngineStart (op : Nat)  -- COPY_ENGINE_START, R236
  | copyPublish (op : Nat)  -- COPY_PUBLISH, R236
  | barrowFillPublish (l g : Nat)  -- BARROW_FILL_PUBLISH, R287
  | sleepExpiry (w : WarpId)  -- SLEEP_EXPIRY, R269
  | directoryRecall (line : Loc) (reason : RecallReason) (granted : Bool)  -- DIRECTORY_RECALL, R356
  | notify (q : QueueKey) (off n : Nat)  -- NOTIFY, R271
  | launchAdmission (q : QueueKey)  -- LAUNCH_ADMISSION, R275
  | queueMap (q : QueueKey) (slot : Nat)  -- QUEUE_MAP, R272
  | queueUnmap (q : QueueKey)  -- QUEUE_UNMAP, R272
  | groupDispatch (l core : Nat)  -- GROUP_DISPATCH, R277
  | groupComplete (l g : Nat)  -- GROUP_COMPLETE, R279
  | launchFaultEnd (l : Nat)  -- LAUNCH_FAULT_END, R342
  | timeSliceExpiry (c : CtxKey)  -- TIME_SLICE_EXPIRY, R291
  | priorityPreemption (c : CtxKey)  -- PRIORITY_PREEMPTION, R291
  | roleChangeReEnumeration  -- ROLE_CHANGE_RE_ENUMERATION, R319
  | yieldHandlerEntry (w : WarpId)  -- YIELD_HANDLER_ENTRY, R292
  | forcedSaveDeadline (c : CtxKey)  -- FORCED_SAVE_DEADLINE, R293
  | contextResume (c : CtxKey) (places : List Placement)  -- CONTEXT_RESUME, R296
  | noCommitWatchdogExpiry (c : CtxKey)  -- NO_COMMIT_WATCHDOG_EXPIRY, R298
  | externalWaitLimit (c : CtxKey)  -- EXTERNAL_WAIT_LIMIT, R299
  | poolWaitExpiry (w : PoolWaiter)  -- POOL_WAIT_EXPIRY, R217
  | pageRelease (part va : Nat)  -- PAGE_RELEASE, R218
  | pageScrubComplete (page : Nat)  -- PAGE_SCRUB_COMPLETE, R334
  | stallRunStart (run stall : Nat)  -- STALL_RUN_START, R374
  | stallResume (run stall : Nat)  -- STALL_RESUME, R377
  | collectivePublish (op : Nat)  -- COLLECTIVE_PUBLISH, R384
  | collectiveFail (op : Nat)  -- COLLECTIVE_FAIL, R385
  | softError (t : SoftTarget) (correctable : Bool)  -- SOFT_ERROR, R351
  | agentDeadlineExpiry (a : AgentId)  -- AGENT_DEADLINE_EXPIRY, R360
  | staleIncarnationMessage (a : AgentId) (inc : BitVec 16)  -- STALE_INCARNATION_MESSAGE, R361
  | hostMemRead (pa : Nat) (how : HostRead)  -- HOST_MEM_READ, R394
  | hostMemWrite (pa : Nat) (data : List Byte)  -- HOST_MEM_WRITE, R394
  | hostSnoop (pa : Nat) (data : Option (List Byte))  -- HOST_SNOOP, R394
  | configRequest (fn : Nat) (what : ConfigRead)  -- CONFIG_REQUEST, R391
  | peerAccessRequest (peer pa : Nat) (acc : PeerAccess)  -- PEER_ACCESS_REQUEST, R396
  | flowXoff (port cls : Nat)  -- FLOW_XOFF, R397
  | flowXon (port cls : Nat)  -- FLOW_XON, R397
  | trainingStateTimeout  -- TRAINING_STATE_TIMEOUT, R390
  | linkRetrain  -- LINK_RETRAIN, R390
  | bringUp (o : BringUp)  -- BRING_UP, R398
  | thermalGating (tier : Option (Fin 8))  -- THERMAL_GATING, R401
  | thermalTrip (tier : Fin 8)  -- THERMAL_TRIP, R401
  | ctxCreate (rq : Req) (ctx : Nat) (repro exact : Bool) (root : Nat)  -- CTX_CREATE, R316
  | ctxRelease (rq : Req) (ctx : Nat)  -- CTX_RELEASE, R316
  | queueReg (rq : Req) (ctx idx : Nat) (header : DWord) (page : Nat)  -- QUEUE_REG, R316
  | queueUnreg (rq : Req) (ctx idx : Nat)  -- QUEUE_UNREG, R316
  | regionCreate (rq : Req) (ctx : Nat) (r : RegionArgs)  -- REGION_CREATE, R214
  | regionDestroy (rq : Req) (idx : Nat)  -- REGION_DESTROY, R316
  | poolGrant (rq : Req) (page n : Nat)  -- POOL_GRANT, R316
  | pageAssign (rq : Req) (page n cls ctx : Nat) (hx px : Bool)  -- PAGE_ASSIGN, R316
  | pageFree (rq : Req) (page n : Nat)  -- PAGE_FREE, R334
  | tlbInv (rq : Req) (ctx : Nat) (all : Bool) (va n : Nat)  -- TLB_INV, R326
  | setLimits (rq : Req) (pool slice ext : Nat)  -- SET_LIMITS, R316
  | debugCtl (rq : Req) (ctx op : Nat)  -- DEBUG_CTL, R349
  | schedSet (rq : Req) (ctx : Nat) (addr : DWord) (n : Nat)  -- SCHED_SET, R365
  | mailboxUnknownCode (rq : Req) (code : Byte)  -- MAILBOX_UNKNOWN_CODE, R349
  | partCreate (rq : Req) (p : Nat) (img : PartImage)  -- PART_CREATE, R313
  | partDestroy (rq : Req) (p : Nat)  -- PART_DESTROY, R313
  | rolesSet (rq : Req) (roles : BitVec 8)  -- ROLES_SET, R393
  | shareSet (rq : Req) (p : Nat) (share : DWord)  -- SHARE_SET, R393
  | routeSet (rq : Req) (pkg : Nat) (masks : List (BitVec 24))  -- ROUTE_SET, R396
  | rolesWrite (v : DWord)  -- ROLES_WRITE, R319
  | rtinvWrite (v : DWord)  -- RTINV_WRITE, R326
  | fwinCtlWrite (n : Fin 16) (v : DWord)  -- FWIN_CTL_WRITE, R111
  | ownershipWrite (p : Fin 16) (off : Nat) (v : DWord)  -- OWNERSHIP_WRITE, R312
  | controlRegisterWrite (off : Nat) (v : DWord)  -- CONTROL_REGISTER_WRITE, R337
  | getVersion (a : SpdmArgs)  -- GET_VERSION, R329
  | getCapabilities (a : SpdmArgs)  -- GET_CAPABILITIES, R329
  | negotiateAlgorithms (a : SpdmArgs)  -- NEGOTIATE_ALGORITHMS, R329
  | getDigests (a : SpdmArgs)  -- GET_DIGESTS, R329
  | getCertificate (a : SpdmArgs)  -- GET_CERTIFICATE, R329
  | challenge (a : SpdmArgs)  -- CHALLENGE, R329
  | getMeasurements (a : SpdmArgs)  -- GET_MEASUREMENTS, R329
  | keyExchange (a : SpdmArgs)  -- KEY_EXCHANGE, R329
  | finish (a : SpdmArgs)  -- FINISH, R329
  | endSession (a : SpdmArgs)  -- END_SESSION, R329
  | agentReinstatement (a : AgentId) (passed : Bool)  -- AGENT_REINSTATEMENT, R360
  | thermalGatingRelease (tier : Option (Fin 8))  -- THERMAL_GATING_RELEASE, R401
  | linkLevelRetry (fabric : Bool) (port : Nat)  -- LINK_LEVEL_RETRY, R389
  | firmwareLoad (pa : Nat) (image : List Byte) (verified : Bool)  -- FIRMWARE_LOAD, R328
  | cdatRequest (entry : Nat)  -- CDAT_REQUEST, R389
  | modulePowerLoss  -- MODULE_POWER_LOSS, R12
  deriving DecidableEq, Repr

end Sys2Proof
end

