-- ==== Sys2Proof/Machine/Legal.lean ====
section
/-! DEFINITION. Which operand values an encoding may hold, whatever launch issues it: the checks of R32, R33, R35,
R36, R48 to R62 and of each class's tables. The checks that depend on the issuing launch (R21, R34, R147, R153) are
made at the issue (Machine/Issue.lean). -/

namespace Sys2Proof

/-! ### Registers, guards and predicates -/

/-- The register field value of R32. -/
def Reg.code : Reg → Nat
  | .v n => n.val
  | .s n => 224 + n.val

/-- Number of the register within its file. -/
def Reg.num : Reg → Nat
  | .v n => n.val
  | .s n => n.val

def Reg.isV : Reg → Bool
  | .v _ => true
  | .s _ => false

def Reg.isS : Reg → Bool
  | .v _ => false
  | .s _ => true

/-- The field value 0x00 of a field that an instruction does not use (R32). -/
def Reg.isZero (r : Reg) : Bool := r.code == 0

/-- The register holds an operand of `w` 32-bit registers (R33): `w` = 0 stands for an unused field. -/
def Reg.fits (r : Reg) (w : Nat) : Bool :=
  match w with
  | 0 => r.isZero
  | 1 => true
  | 2 => r.num % 2 == 0
  | _ => r.isV && r.num % 4 == 0

/-- An even s pair (R33). -/
def Reg.isSPair (r : Reg) : Bool := r.isS && r.num % 2 == 0

/-- R48: `?!p7` is illegal. -/
def Guard.ok (g : Guard) : Bool := !(g.p.val == 7 && g.neg)

/-- R36: p7 is no destination. -/
def predDestOk (p : Fin 8) : Bool := p.val != 7

/-- R35: predicate sources that are uniform. -/
def PSrc.uniform (p : PSrc) : Bool := p.p.val == 7

/-- An unused predicate field holds 0x00. -/
def PSrc.isZero (p : PSrc) : Bool := p.p.val == 0 && !p.neg

/-! ### Types and modifiers -/

/-- 32-bit registers that one operand of the type occupies (R51). -/
def Ty.regs : Ty → Nat
  | .u64 | .i64 | .f64 => 2
  | _ => 1

def Ty.isFloat : Ty → Bool
  | .f32 | .f64 | .f16x2 | .bf16x2 | .f8e4x4 | .f8e5x4 => true
  | _ => false

def Ty.isSigned : Ty → Bool
  | .i32 | .i64 | .i16x2 | .i8x4 => true
  | _ => false

/-- Sub-elements in one 32-bit register: 1 for the types that are not packed (R51). -/
def Ty.count : Ty → Nat
  | .f16x2 | .bf16x2 | .u16x2 | .i16x2 => 2
  | .f8e4x4 | .f8e5x4 | .u8x4 | .i8x4 => 4
  | _ => 1

/-- Bits of one element. -/
def Ty.bits (t : Ty) : Nat :=
  match t.count with
  | 1 => 32 * t.regs
  | 2 => 16
  | _ => 8

/-- The modifier fields that an instruction's table allows, and its largest SUB (R50, R116). -/
structure ModSet where
  rm : Bool := false
  sat : Bool := false
  apx : Bool := false
  na : Bool := false
  nb : Bool := false
  aa : Bool := false
  ab : Bool := false
  subMax : Nat := 0
  deriving DecidableEq, Repr

/-- Rounding mode zero (RNE). -/
def Rm.isZero : Rm → Bool
  | .rne => true
  | _ => false

/-- A modifier that is not allowed must be zero (R50), and an absolute value needs a signed or floating type (R52). -/
def Mods.ok (m : Mods) (s : ModSet) : Bool :=
  (s.rm || m.rm.isZero) && (s.sat || !m.sat) && (s.apx || !m.apx) && (s.na || !m.na) && (s.nb || !m.nb)
    && (s.aa || !m.aa) && (s.ab || !m.ab) && m.sub.val ≤ s.subMax
    && (!(m.aa || m.ab) || m.ty.isSigned || m.ty.isFloat)

/-- Modifiers NA, NB, AA and AB. -/
def modsAB : ModSet := { na := true, nb := true, aa := true, ab := true }

/-- No modifier but SUB up to `n`. -/
def modsSub (n : Nat) : ModSet := { subMax := n }

/-! ### The lane classes -/

/-- R35: an s destination needs s sources in every field used. -/
def uniformOk (d : Reg) (srcs : List (Reg × Nat)) : Bool :=
  d.isV || srcs.all fun p => p.2 == 0 || p.1.isS

/-- Legality of a format-W lane instruction with the given types, modifiers and operand widths (R116). -/
def LaneArgs.ok (a : LaneArgs) (tys : List Ty) (ms : ModSet) (wd wa wb wc : Nat) : Bool :=
  a.g.ok && tys.contains a.m.ty && a.m.ok ms && a.d.fits wd && a.a.fits wa && a.b.fits wb && a.c.fits wc
    && uniformOk a.d [(a.a, wa), (a.b, wb), (a.c, wc)]

def tysInt32 : List Ty := [.u32, .i32]
def tysU : List Ty := [.u32, .u64]
def tysU32 : List Ty := [.u32]
def tysInt64 : List Ty := [.u64, .i64]
def tysInt : List Ty := [.u32, .i32, .u64, .i64]
def tysAdd : List Ty := [.u32, .i32, .u16x2, .i16x2, .u8x4, .i8x4]
def tysAllInt : List Ty := [.u32, .i32, .u64, .i64, .u16x2, .i16x2, .u8x4, .i8x4]
def tysFloat : List Ty := [.f32, .f64, .f16x2, .bf16x2, .f8e4x4, .f8e5x4]
def tysFloat4 : List Ty := [.f32, .f64, .f16x2, .bf16x2]
def tysAbs : List Ty := [.i32, .i64, .i16x2, .i8x4]
def tys16 : List Ty := [.f16x2, .bf16x2, .u16x2, .i16x2]
def tys8 : List Ty := [.f8e4x4, .f8e5x4, .u8x4, .i8x4]

/-- The function instructions of R128 with one source: FSQRT to FCOS. -/
def LaneArgs.okFn (a : LaneArgs) : Bool :=
  a.ok tysFloat4 { rm := true, sat := true, apx := true, na := true, aa := true } a.m.ty.regs a.m.ty.regs 0 0

/-- FADD, FSUB, FMUL and FFMA (R128). -/
def LaneArgs.okArith (a : LaneArgs) (wc : Nat) : Bool :=
  a.ok tysFloat { modsAB with rm := true, sat := true } a.m.ty.regs a.m.ty.regs a.m.ty.regs wc

/-- ISETP, ISETP64 and FSETP (R119, R128). -/
def SetpArgs.ok (a : SetpArgs) (tys : List Ty) (condMax : Nat) : Bool :=
  a.g.ok && predDestOk a.pd && tys.contains a.m.ty && a.m.ok { modsAB with subMax := condMax }
    && a.a.fits a.m.ty.regs && a.b.fits a.m.ty.regs

def SelArgs.ok (a : SelArgs) : Bool :=
  a.g.ok && tysU.contains a.m.ty && a.m.ok {} && a.d.fits a.m.ty.regs && a.a.fits a.m.ty.regs
    && a.b.fits a.m.ty.regs && (a.d.isV || (a.a.isS && a.b.isS && a.pc.uniform))

def TlogArgs.ok (a : TlogArgs) : Bool := a.g.ok && uniformOk a.d [(a.a, 1), (a.b, 1), (a.c, 1)]

def PlogArgs.ok (a : PlogArgs) : Bool := a.g.ok && predDestOk a.pd

/-- Format-WI integer instructions; MOVI has no source (R125). -/
def ImmArgs.ok (a : ImmArgs) (wa : Nat) : Bool := a.g.ok && a.a.fits wa && uniformOk a.d [(a.a, wa)]

def SetpiArgs.ok (a : SetpiArgs) : Bool := a.g.ok && predDestOk a.pd && a.cond.val ≤ 5

def MovwArgs.ok (a : MovwArgs) : Bool := a.g.ok && a.d.fits 2

/-- SREAD: selectors, widths and the per-lane register lane.id (R39). -/
def SreadArgs.ok (a : SreadArgs) : Bool :=
  a.g.ok && a.sel.toNat ≤ 0x13 && (!(0x0D ≤ a.sel.toNat && a.sel.toNat ≤ 0x0F) || a.d.fits 2)
    && (a.sel.toNat != 0 || a.d.isV)

/-- PACK: two forms by the size of the sub-elements (R136). -/
def packOk (a : LaneArgs) : Bool :=
  (tys16.contains a.m.ty && a.ok tys16 {} 1 1 1 0) || (tys8.contains a.m.ty && a.ok tys8 (modsSub 3) 1 1 0 0)

def unpkOk (a : LaneArgs) : Bool := a.ok (tys16 ++ tys8) (modsSub (a.m.ty.count - 1)) 1 1 0 0

/-- RGTR: every 32-bit element type, a v destination, no other field (R137). -/
def rgtrOk (a : LaneArgs) : Bool :=
  a.d.isV && a.m.ty.regs == 1 && a.ok [a.m.ty] {} 1 0 0 0

/-- CVT: the index must be below the count of every packed type named (R134; log 11). -/
def CvtArgs.ok (a : CvtArgs) : Bool :=
  a.g.ok && a.d.fits a.dst.regs && a.a.fits a.src.regs && (a.dst.count == 1 || a.k.val < a.dst.count)
    && (a.src.count == 1 || a.k.val < a.src.count) && uniformOk a.d [(a.a, 1)]

/-- WRED and WSCAN (R144). -/
def redOk (a : LaneArgs) : Bool :=
  a.d.isV && a.m.sub.val ≤ 5
    && (match a.m.sub.val with
      | 0 => a.ok [.u32, .i32, .u64, .i64, .f32, .f64] { rm := a.m.ty.isFloat, subMax := 5 }
          a.m.ty.regs a.m.ty.regs 0 0
      | 1 | 2 => a.ok [.u32, .i32, .u64, .i64, .f32, .f64] (modsSub 5) a.m.ty.regs a.m.ty.regs 0 0
      | _ => a.ok tysU (modsSub 5) a.m.ty.regs a.m.ty.regs 0 0)

/-- POLL: a predicate destination in modes 0 to 2, a v register in modes 3 and 4 (R143). -/
def PollArgs.ok (a : PollArgs) : Bool :=
  a.g.ok && a.d.isV && (if a.mode.val ≤ 2 then decide (a.d.num < 7) else decide (a.mode.val ≤ 4))

/-! ### Expressions -/

/-- Entries that a token pops and pushes, or none for a code that is no token of a list (R139). -/
def tokenArity (t : Nat) : Option (Nat × Nat) :=
  if t ≤ 5 then some (0, 1)
  else if t = 6 then some (1, 2)
  else if t = 7 then some (2, 2)
  else if t ≤ 10 then some (2, 1)
  else if t = 11 then some (3, 1)
  else if t ≤ 13 then some (2, 1)
  else if t ≤ 22 then some (1, 1)
  else if t = 23 then some (3, 1)
  else if t ≤ 25 then some (1, 1)
  else none

/-- The stack walk of R140 from a depth over tokens; answers the final depth. -/
def tokenWalk : Nat → List Nat → Option Nat
  | depth, [] => some depth
  | depth, t :: ts =>
    match tokenArity t with
    | none => none
    | some (pop, push) =>
      if depth < pop then none
      else if depth - pop + push > 4 then none
      else tokenWalk (depth - pop + push) ts

/-- Index of the first END token. -/
def firstEnd : List Nat → Nat
  | [] => 0
  | t :: ts => if t = 31 then 0 else 1 + firstEnd ts

def ExprArgs.tokens (a : ExprArgs) : List Nat := a.toks.map (·.val)

/-- Number of tokens executed (R62). -/
def ExprArgs.count (a : ExprArgs) : Nat := if a.nt.val = 0 then firstEnd a.tokens else a.nt.val

/-- The executed tokens. -/
def ExprArgs.run (a : ExprArgs) : List Nat := a.tokens.take a.count

/-- Approximate variant: NT = 0 (R62). -/
def ExprArgs.apx (a : ExprArgs) : Bool := a.nt.val == 0

/-- Fields an executed token pushes, with their field numbers (R138). -/
def ExprArgs.pushes (a : ExprArgs) (k : Nat) : Bool := a.run.contains k

/-- An EXPR register field: unused and zero, or a source of the destination's kind (R35, R138). -/
def ExprArgs.fieldOk (a : ExprArgs) (k : Nat) (r : Reg) : Bool :=
  if a.pushes k then a.d.isV || r.isS else r.isZero

/-- The checks of R62, R138, R139 and R140. A nonzero RM is accepted with I32, which no I32 token uses. DESIGN CHOICE: log 58. -/
def ExprArgs.ok (a : ExprArgs) : Bool :=
  a.g.ok && a.toks.length == 12 && a.nt.val ≤ 12 && 1 ≤ a.count
    && (a.tokens.drop a.count).all (· == 31)
    && !(a.apx && a.ty == .i32)
    && (a.ty != .i32 || a.run.all fun t => t < 16 || 22 < t)
    && tokenWalk 0 a.run == some 1
    && decide ((a.run.filter (8 ≤ ·)).length ≤ 7)
    && a.fieldOk 0 a.a && a.fieldOk 1 a.b && a.fieldOk 2 a.c && a.fieldOk 3 a.e

/-! ### The memory classes -/

/-- Registers of an access size code (R54). -/
def szRegs (sz : Nat) : Nat := if sz = 4 then 4 else if sz = 3 then 2 else 1

/-- LD and LDS: `wa` is the address width in registers; scratchpad takes no hint and no column bit (R206). -/
def MemArgs.okLoad (a : MemArgs) (wa : Nat) : Bool :=
  a.g.ok && a.sz.val ≤ 4 && (!a.sx || a.sz.val ≤ 1) && a.data.fits (szRegs a.sz.val) && a.addr.fits wa
    && (a.data.isV || a.addr.isS) && (wa == 2 || (a.hint.val == 0 && !a.col))

def MemArgs.okStore (a : MemArgs) (wa : Nat) : Bool :=
  a.g.ok && a.sz.val ≤ 4 && !a.sx && a.data.fits (szRegs a.sz.val) && a.addr.fits wa
    && (wa == 2 || (a.hint.val == 0 && !a.col))

/-- PREFETCH: no data field and no size (R210); COL stays as R54 gives it. -/
def MemArgs.okPrefetch (a : MemArgs) : Bool :=
  a.g.ok && a.sz.val == 0 && !a.sx && a.data.isZero && a.addr.fits 2

/-- LNFLUSH (R211). -/
def MemArgs.okFlush (a : MemArgs) : Bool := a.okPrefetch && a.hint.val == 0 && !a.col

def Aty.regs : Aty → Nat
  | .u64 | .i64 | .f64 => 2
  | _ => 1

def Aty.isFloat : Aty → Bool
  | .f32 | .f64 | .bf16x2 | .f16x2 => true
  | _ => false

def Aop.isBitwise : Aop → Bool
  | .and | .or | .xor => true
  | _ => false

/-- Address field of an atomic; scratchpad takes no hint and no column bit (R222). -/
def AtomArgs.addrOk (a : AtomArgs) (wa : Nat) : Bool := a.a.fits wa && (wa == 2 || (a.hint.val == 0 && !a.col))

/-- ATOM, ATOMS and RED (R55, R222). -/
def AtomArgs.ok (a : AtomArgs) (wa : Nat) (red : Bool) : Bool :=
  a.g.ok && !(a.op.isBitwise && a.ty.isFloat) && a.addrOk wa && a.b.fits a.ty.regs
    && (if red then a.d.isZero && a.op != .exch
        else a.d.fits a.ty.regs && uniformOk a.d [(a.a, 1), (a.b, 1)])

def CasArgs.ok (a : CasArgs) : Bool :=
  a.g.ok && (a.sz.val == 2 || a.sz.val == 3) && a.d.fits (szRegs a.sz.val) && a.a.fits 2
    && a.b.fits (szRegs a.sz.val) && a.c.fits (szRegs a.sz.val) && uniformOk a.d [(a.a, 1), (a.b, 1), (a.c, 1)]

/-- ENQ, and DEQ with its entry destination (R226). -/
def RingArgs.ok (a : RingArgs) (deq : Bool) : Bool :=
  a.g.ok && predDestOk a.pd && 2 ≤ a.sz.val && a.sz.val ≤ 4 && a.a.fits 2 && a.data.fits (szRegs a.sz.val)
    && (!deq || uniformOk a.data [(a.a, 1)])

/-! ### Handles, engines, matrix -/

/-- HWAIT: with PW a predicate destination, else field C zero (R242). -/
def HwaitArgs.ok (a : HwaitArgs) : Bool :=
  a.g.ok && (if a.pw then predDestOk a.pd.p && !a.pd.neg else a.pd.isZero)

/-- COPY's word checks: operand classes, and the field rules that R235 makes illegal encodings. -/
def CopyArgs.ok (a : CopyArgs) : Bool :=
  a.g.ok && a.xf.val ≤ 6
    && (if a.ssp then a.sa.isS else a.sa.isSPair) && (if a.dsp then a.da.isS else a.da.isSPair)
    && a.gr.isSPair && (a.pr.isZero || a.pr.isSPair) && (a.ra.isZero || a.ra.isSPair)
    && (a.aw.isZero || a.aw.isS)
    && !(a.col && (a.ssp || a.xf.val != 0)) && !(a.xf.val == 1 && !a.dsp) && !(a.xf.val == 6 && !a.pr.isZero)

/-- Set bits of a number, by `n` halvings. -/
def bitCount : Nat → Nat → Nat
  | 0, _ => 0
  | n + 1, x => x % 2 + bitCount n (x / 2)

/-- GANG: a mask of one to six warps (R153). -/
def GangArgs.ok (a : GangArgs) : Bool :=
  a.g.ok && a.mask != 0 && decide (bitCount 32 a.mask.toNat ≤ 6)

/-- K-step length of a format pair, none where the pair is illegal (R149). -/
def kstepOf : MFmt → MFmt → Option Nat
  | .fp64, .fp64 => some 1
  | .fp32, .fp32 => some 2
  | .bf16, .bf16 | .fp16, .fp16 | .oq4, .bf16 | .bf16, .oq4 => some 8
  | .f8e4, .f8e4 | .f8e4, .f8e5 | .f8e5, .f8e4 | .f8e5, .f8e5 => some 16
  | .oq4, .oq4 => some 32
  | _, _ => none

/-- A scale register: required for OQ4, optional for F8, none otherwise (R149). -/
def scaleOk (f : MFmt) (r : Reg) : Bool :=
  match f with
  | .oq4 => r.isS
  | .f8e4 | .f8e5 => r.isS || r.isZero
  | _ => r.isZero

/-- The checks of R160 (B and its scale name s registers whatever ASRC holds: log 11). -/
def MmaArgs.ok (a : MmaArgs) : Bool :=
  a.g.ok && a.br.isS && scaleOk a.fb a.sb
    && (match kstepOf a.fa a.fb with
      | none => false
      | some k =>
        if a.asrc then
          a.ar.isV && a.ar.num < 16 && a.fa != .oq4 && a.sa.isZero && a.pa.toNat == 0 && (a.ks.val + 1) * k == 16
        else a.ar.isS && scaleOk a.fa a.sa && !a.asat)

def AcczArgs.ok (a : AcczArgs) : Bool := a.g.ok && a.mask != 0

/-- ACCLD and ACCST: which rounding and saturation fields may be set (R163). -/
def AccArgs.ok (a : AccArgs) (store : Bool) : Bool :=
  a.g.ok && a.a.isS && ((store && a.fmt != .acc96) || (a.rm.isZero && !a.sat))

/-- ACCRD (R165); the register count is checked at the issue. -/
def AccrdArgs.ok (a : AccrdArgs) : Bool :=
  a.g.ok && a.d.isV && a.b.isS && (!a.f64 || a.d.fits 2)

/-! ### Control, launch and system -/

def BrxArgs.ok (a : BrxArgs) : Bool := a.g.ok && a.b.isSPair && a.n != 0

/-- JMP and CALLR: an even pair. -/
def RegArgs.okPair (a : RegArgs) : Bool := a.g.ok && a.r.fits 2

/-- RET: `bit` is REG (R259). -/
def RegBitArgs.okRet (a : RegBitArgs) : Bool := a.g.ok && (if a.bit then a.r.fits 2 else a.r.isZero)

/-- WSYNC: `bit` is ALL (R259). -/
def RegBitArgs.okWsync (a : RegBitArgs) : Bool := a.g.ok && (if a.bit then a.r.isZero else a.r.isS)

/-- Barrier words (R266); the core level's range and the span are checked at the issue. -/
def BarArgs.ok (a : BarArgs) : Bool :=
  a.g.ok && (if a.cnt then a.lv == .core && a.a.isS else a.a.isZero)
    && (match a.lv with
      | .core => true
      | .quad => a.id.val ≤ 7
      | .tier => a.id.val ≤ 3
      | .pkg => a.id.val ≤ 1)

def CtlwrArgs.ok (a : CtlwrArgs) : Bool :=
  a.g.ok && a.a.isS && a.b.isSPair && (if a.pw then predDestOk a.pd else a.pd.val == 0)

/-! ### Pair words -/

/-- The pair opcode of R72. -/
def PairOp.code : PairOp → Nat
  | .iadd => 0x01 | .isub => 0x02 | .imul => 0x03 | .iminS => 0x04 | .imaxS => 0x05 | .iminU => 0x06
  | .imaxU => 0x07 | .and => 0x08 | .or => 0x09 | .xor => 0x0A | .shl => 0x0B | .shrU => 0x0C | .shrS => 0x0D
  | .iaddi => 0x20 | .andi => 0x21 | .ori => 0x22 | .xori => 0x23 | .shli => 0x24 | .shriU => 0x25
  | .shriS => 0x26 | .movi8 => 0x27
  | .faddF32 => 0x40 | .fsubF32 => 0x41 | .fmulF32 => 0x42 | .fminF32 => 0x43 | .fmaxF32 => 0x44
  | .faddF16x2 => 0x48 | .fmulF16x2 => 0x49 | .faddBf16x2 => 0x4A | .fmulBf16x2 => 0x4B
  | .mov => 0x60 | .cvtF32I32 => 0x61 | .cvtI32F32 => 0x62 | .cvtF32F16 => 0x63 | .cvtF32Bf16 => 0x64

/-- Forms of R58. -/
def PairOp.isRegForm (o : PairOp) : Bool := o.code ≤ 0x0D || (0x40 ≤ o.code && o.code ≤ 0x4B)
def PairOp.isImmForm (o : PairOp) : Bool := 0x20 ≤ o.code && o.code ≤ 0x27
def PairOp.isClassF (o : PairOp) : Bool := 0x40 ≤ o.code && o.code ≤ 0x5F

/-- Registers a half reads (R58). -/
def PairHalf.reads (h : PairHalf) : List Reg :=
  if h.op.isRegForm then [h.d, h.a] else if h.op == .movi8 then [] else [h.a]

/-- A half by itself: v destination, X and A as its form has them (R58, R59). -/
def PairHalf.ok (h : PairHalf) : Bool :=
  h.d.isV && (h.op.isImmForm || h.x == 0) && (h.op != .movi8 || h.a.isZero)

/-- The registers of a list, each once. -/
def distinctRegs : List Reg → List Reg
  | [] => []
  | r :: rs => if rs.contains r then distinctRegs rs else r :: distinctRegs rs

/-- Condition 2 of R59. -/
def readsOk (rs : List Reg) : Bool :=
  let ds := distinctRegs rs
  decide (ds.length ≤ 3)
    && [0, 1, 2, 3].all fun b => decide ((ds.filter fun r => r.isV && r.num % 4 == b).length ≤ 2)

/-- The rules of R59 for two halves. -/
def pairOk : Option PairHalf → Option PairHalf → Bool
  | none, none => false
  | some h, none => h.ok && readsOk h.reads
  | none, some h => h.ok && readsOk h.reads
  | some h, some k =>
    h.ok && k.ok && h.d.num % 4 != k.d.num % 4 && readsOk (h.reads ++ k.reads) && !k.reads.contains h.d
      && !(h.op.isClassF && k.op.isClassF)

/-- The half that names the constructor. -/
def PairArgs.self (p : PairArgs) (op : PairOp) : PairHalf := { op := op, d := p.d, a := p.a, x := p.x }

/-- Half H0 of a pair word. -/
def PairArgs.h0 (p : PairArgs) (op : PairOp) : Option PairHalf := if p.inH1 then none else some (p.self op)

/-- Half H1 of a pair word. -/
def PairArgs.h1 (p : PairArgs) (op : PairOp) : Option PairHalf := if p.inH1 then some (p.self op) else p.mate

def PairArgs.ok (p : PairArgs) (op : PairOp) : Bool :=
  pairOk (p.h0 op) (p.h1 op) && !(p.inH1 && p.mate.isSome)

end Sys2Proof

namespace Sys2Proof.Machine

/-- The operand values an instruction's encoding may hold: every check of an encoding that does not depend on the
launch that issues it. An event is no encoding and is always well formed. DEDUCED: log 11. -/
def legal : Instr → Bool
  | .iadd a | .isub a => a.ok tysAdd { modsAB with sat := true } 1 1 1 0
  | .imul a => a.ok tysAdd modsAB 1 1 1 0
  | .imulh a => a.ok tysInt32 modsAB 1 1 1 0
  | .imad a => a.ok tysInt32 { modsAB with subMax := 1 } (1 + a.m.sub.val) 1 1 (1 + a.m.sub.val)
  | .idiv a | .irem a => a.ok tysInt {} a.m.ty.regs a.m.ty.regs a.m.ty.regs 0
  | .imin a | .imax a => a.ok tysAllInt modsAB a.m.ty.regs a.m.ty.regs a.m.ty.regs 0
  | .iabs a => a.ok tysAbs { sat := true } a.m.ty.regs a.m.ty.regs 0 0
  | .iadd64 a | .isub64 a => a.ok tysInt64 { modsAB with sat := true } 2 2 2 0
  | .lea a => a.ok tysInt32 (modsSub 7) 2 2 1 0
  | .isetp a => a.ok tysInt32 5
  | .isetp64 a => a.ok tysInt64 5
  | .and a | .or a | .xor a => a.ok tysU {} a.m.ty.regs a.m.ty.regs a.m.ty.regs 0
  | .tlog a => a.ok
  | .shl a | .shr a => a.ok tysInt {} a.m.ty.regs a.m.ty.regs 1 0
  | .shw a => a.ok tysU32 (modsSub 1) 1 1 1 1
  | .popc a | .clz a => a.ok tysU {} 1 a.m.ty.regs 0 0
  | .brev a => a.ok tysU {} a.m.ty.regs a.m.ty.regs 0 0
  | .bfe a => a.ok tysInt32 {} 1 1 1 0
  | .bfi a | .bpick a => a.ok tysU32 {} 1 1 1 1
  | .sel a => a.ok
  | .mov a => a.ok tysU {} a.m.ty.regs a.m.ty.regs 0 0
  | .plog a => a.ok
  | .movi a => a.ok 0
  | .iaddi a | .andi a | .ori a | .xori a => a.ok 1
  | .isetpi a => a.ok
  | .movw a => a.ok
  | .sread a => a.ok
  | .fadd a | .fsub a | .fmul a => a.okArith 0
  | .ffma a => a.okArith a.m.ty.regs
  | .fmin a | .fmax a => a.ok tysFloat modsAB a.m.ty.regs a.m.ty.regs a.m.ty.regs 0
  | .fsetp a => a.ok [.f32, .f64] 13
  | .fclass a => a.ok tysFloat4 {} 1 a.m.ty.regs 0 0
  | .fdiv a => a.ok tysFloat4 { modsAB with rm := true, sat := true, apx := true } a.m.ty.regs a.m.ty.regs a.m.ty.regs 0
  | .fsqrt a | .frcp a | .frsq a | .fex2 a | .flg2 a | .fsin a | .fcos a => a.okFn
  | .expr a => a.ok
  | .flagrd a => a.g.ok
  | .flagclr a => a.g.ok && a.r.isS
  | .cvt a => a.ok
  | .frnd a => a.ok tysFloat4 { rm := true } a.m.ty.regs a.m.ty.regs 0 0
  | .pack a => packOk a
  | .unpk a => unpkOk a
  | .rgtr a => rgtrOk a
  | .xlane a => a.d.isV && a.ok tysU (modsSub 3) a.m.ty.regs a.m.ty.regs 1 0
  | .poll a => a.ok
  | .wred a | .wscan a => redOk a
  | .eqm a => a.d.isV && a.ok tysU {} 1 a.m.ty.regs 0 0
  | .rdlane a => a.d.isV && a.b.isS && a.ok tysU {} a.m.ty.regs a.m.ty.regs 1 0
  | .ld a => a.okLoad 2
  | .st a => a.okStore 2
  | .lds a => a.okLoad 1
  | .sts a => a.okStore 1
  | .atom a => a.ok 2 false
  | .atoms a => a.ok 1 false
  | .red a => a.ok 2 true
  | .cas a => a.ok
  | .enq a => a.ok false
  | .deq a => a.ok true
  | .pgenum a => a.g.ok && a.d.fits 2 && a.a.fits 2 && uniformOk a.d [(a.a, 1)]
  | .pgstat a => a.g.ok && predDestOk a.pd && a.a.fits 2 && a.b.isZero
  | .pgreset a => a.okPair
  | .regsweep a => a.g.ok && a.r.isSPair
  | .prefetch a => a.okPrefetch
  | .lnflush a => a.okFlush
  | .chunk g | .txend g | .settle g | .beat g | .nop g | .exit g | .depdone g | .ydone g | .yret g => g.ok
  | .txbegin a | .bra a | .call a | .sleep a | .trap a | .brk a => a.g.ok
  | .txabort a => a.g.ok
  | .copy a => a.ok
  | .hwait a => a.ok
  | .htest a => a.g.ok && predDestOk a.pd
  | .hcancel a => a.g.ok && a.r.isZero
  | .htok a => a.g.ok
  | .hadopt a => a.g.ok && a.r.isS
  | .awinit a | .arrive a | .await a => a.g.ok && a.d.isS && a.a.isS
  | .nbrun a | .coll a => a.g.ok && a.r.isSPair
  | .nbload a => a.g.ok && a.d.isSPair && a.a.isS
  | .stepopen a => a.g.ok && predDestOk a.pd && a.a.isSPair && a.b.isZero
  | .stepend a => a.g.ok && predDestOk a.pd && a.a.isSPair && a.b.isS
  | .gang a => a.ok
  | .mma a => a.ok
  | .accz a => a.ok
  | .accld a => a.ok false
  | .accst a => a.ok true
  | .accrd a => a.ok
  | .brx a => a.ok
  | .jmp a | .callr a => a.okPair
  | .ret a => a.okRet
  | .wsync a => a.okWsync
  | .bar a | .bara a | .barw a => a.ok
  | .yield a => a.g.ok
  | .launch a => a.g.ok && a.d.isS && a.a.isSPair
  | .ctlrd a => a.g.ok && a.d.isSPair && a.a.isS
  | .ctlwr a => a.ok
  | .audit a => a.g.ok && a.d.isSPair && a.a.isSPair && a.b.isS
  | .scrub a => a.g.ok && a.d.isS && a.a.isS
  | .pairIadd p => p.ok .iadd
  | .pairIsub p => p.ok .isub
  | .pairImul p => p.ok .imul
  | .pairIminS p => p.ok .iminS
  | .pairImaxS p => p.ok .imaxS
  | .pairIminU p => p.ok .iminU
  | .pairImaxU p => p.ok .imaxU
  | .pairAnd p => p.ok .and
  | .pairOr p => p.ok .or
  | .pairXor p => p.ok .xor
  | .pairShl p => p.ok .shl
  | .pairShrU p => p.ok .shrU
  | .pairShrS p => p.ok .shrS
  | .pairIaddi p => p.ok .iaddi
  | .pairAndi p => p.ok .andi
  | .pairOri p => p.ok .ori
  | .pairXori p => p.ok .xori
  | .pairShli p => p.ok .shli
  | .pairShriU p => p.ok .shriU
  | .pairShriS p => p.ok .shriS
  | .pairMovi8 p => p.ok .movi8
  | .pairFaddF32 p => p.ok .faddF32
  | .pairFsubF32 p => p.ok .fsubF32
  | .pairFmulF32 p => p.ok .fmulF32
  | .pairFminF32 p => p.ok .fminF32
  | .pairFmaxF32 p => p.ok .fmaxF32
  | .pairFaddF16x2 p => p.ok .faddF16x2
  | .pairFmulF16x2 p => p.ok .fmulF16x2
  | .pairFaddBf16x2 p => p.ok .faddBf16x2
  | .pairFmulBf16x2 p => p.ok .fmulBf16x2
  | .pairMov p => p.ok .mov
  | .pairCvtF32I32 p => p.ok .cvtF32I32
  | .pairCvtI32F32 p => p.ok .cvtI32F32
  | .pairCvtF32F16 p => p.ok .cvtF32F16
  | .pairCvtF32Bf16 p => p.ok .cvtF32Bf16
  | .illegalEncodingIssue .. | .nnop .. | .nopen .. | .nopens .. | .nclose .. | .nrd .. | .nwr .. | .nadd .. | .nsub ..
  | .nmul .. | .nfma .. | .naxpy .. | .nscale .. | .nmax .. | .nmin .. | .nrsq .. | .nchk .. | .nmovb .. | .nset .. | .nseth ..
  | .naddi .. | .nlds .. | .nloop .. | .nbra .. | .nbrz .. | .npoint .. | .ndone .. | .chunkCommit .. | .preGrant ..
  | .redApplication .. | .commitRound .. | .heartbeatTick .. | .tileOpStart .. | .mmaKstep .. | .tileOpComplete ..
  | .engineWatchdogExpiry .. | .copyEngineStart .. | .copyPublish .. | .barrowFillPublish .. | .sleepExpiry ..
  | .directoryRecall .. | .notify .. | .launchAdmission .. | .queueMap .. | .queueUnmap .. | .groupDispatch ..
  | .groupComplete .. | .launchFaultEnd .. | .timeSliceExpiry .. | .priorityPreemption .. | .yieldHandlerEntry ..
  | .forcedSaveDeadline .. | .contextResume .. | .noCommitWatchdogExpiry .. | .externalWaitLimit .. | .poolWaitExpiry ..
  | .pageRelease .. | .pageScrubComplete .. | .stallRunStart .. | .stallResume .. | .collectivePublish .. | .collectiveFail ..
  | .softError .. | .agentDeadlineExpiry .. | .staleIncarnationMessage .. | .hostMemRead .. | .hostMemWrite .. | .hostSnoop ..
  | .configRequest .. | .peerAccessRequest .. | .flowXoff .. | .flowXon .. | .trainingStateTimeout .. | .linkRetrain ..
  | .bringUp .. | .thermalGating .. | .thermalTrip .. | .ctxCreate .. | .ctxRelease .. | .queueReg .. | .queueUnreg ..
  | .regionCreate .. | .regionDestroy .. | .poolGrant .. | .pageAssign .. | .pageFree .. | .tlbInv .. | .setLimits ..
  | .debugCtl .. | .schedSet .. | .mailboxUnknownCode .. | .partCreate .. | .partDestroy .. | .rolesSet .. | .shareSet ..
  | .routeSet .. | .rolesWrite .. | .rtinvWrite .. | .fwinCtlWrite .. | .ownershipWrite .. | .controlRegisterWrite ..
  | .getVersion .. | .getCapabilities .. | .negotiateAlgorithms .. | .getDigests .. | .getCertificate .. | .challenge ..
  | .getMeasurements .. | .keyExchange .. | .finish .. | .endSession .. | .engineReturnToService .. | .agentReinstatement ..
  | .roleChangeReEnumeration .. | .thermalGatingRelease .. | .linkLevelRetry .. | .firmwareLoad .. | .cdatRequest ..
  | .modulePowerLoss .. => true

end Sys2Proof.Machine
end

