-- ==== Sys2Proof/WellFormed.lean ====
section
/-! DEFINITION. Well-formed instructions: the operand values that some encoding holds. The checks themselves stand in
Machine/Legal.lean. -/

namespace Sys2Proof

/-- An instruction that the word of an encoding can stand for (R49). -/
def Instr.wellFormed (i : Instr) : Bool := Sys2Proof.Machine.legal i

end Sys2Proof
end

