-- ==== Sys2Proof/Decode.lean ====
section
/-! DEFINITION. The decoder: total on any bytes, rejecting an illegal encoding by its reason (R49, R71, R79), and the
encoder, written from the same tables (R45, R46, R50, R54, R55, R57, R60 to R62, R72, R159, R163, R165, R233, R368).
A parsed instruction is accepted only if it is well formed and its encoding is the very word read, so a nonzero
reserved or unused field is refused (R32, R49). -/

namespace Sys2Proof

/-! ### Fields and codes -/

/-- Bits `lo` to `lo + n - 1` of a number. -/
def bits (w lo n : Nat) : Nat := w / 2 ^ lo % 2 ^ n

def flag (w lo : Nat) : Bool := bits w lo 1 == 1

def fin4 (n : Nat) : Fin 4 := ⟨n % 4, Nat.mod_lt _ (by decide)⟩
def fin8 (n : Nat) : Fin 8 := ⟨n % 8, Nat.mod_lt _ (by decide)⟩
def fin16 (n : Nat) : Fin 16 := ⟨n % 16, Nat.mod_lt _ (by decide)⟩
def fin32 (n : Nat) : Fin 32 := ⟨n % 32, Nat.mod_lt _ (by decide)⟩
def fin64 (n : Nat) : Fin 64 := ⟨n % 64, Nat.mod_lt _ (by decide)⟩

/-- One bit as a number. -/
def bitN (b : Bool) : Nat := if b then 1 else 0

/-- The register that a field value names (R32). -/
def regOf (n : Nat) : Reg :=
  if h : n < 224 then .v ⟨n, h⟩ else .s (fin32 (n - 224))

/-- The predicate field of R36: bit 3 negates. -/
def psrcOf (n : Nat) : PSrc := { p := fin8 n, neg := flag n 3 }
def psrcCode (p : PSrc) : Nat := p.p.val + 8 * bitN p.neg

def tyCode : Ty → Nat
  | .u32 => 0 | .i32 => 1 | .u64 => 2 | .i64 => 3 | .f32 => 4 | .f64 => 5 | .f16x2 => 6 | .bf16x2 => 7
  | .f8e4x4 => 8 | .f8e5x4 => 9 | .u16x2 => 10 | .i16x2 => 11 | .u8x4 => 12 | .i8x4 => 13

/-- R51: codes 0xE and 0xF name no type. -/
def tyOf : Nat → Option Ty
  | 0 => some .u32 | 1 => some .i32 | 2 => some .u64 | 3 => some .i64 | 4 => some .f32 | 5 => some .f64
  | 6 => some .f16x2 | 7 => some .bf16x2 | 8 => some .f8e4x4 | 9 => some .f8e5x4 | 10 => some .u16x2
  | 11 => some .i16x2 | 12 => some .u8x4 | 13 => some .i8x4 | _ => none

def rmCode : Rm → Nat
  | .rne => 0 | .rtz => 1 | .rup => 2 | .rdn => 3

def rmOf (n : Nat) : Rm :=
  match n with
  | 0 => .rne | 1 => .rtz | 2 => .rup | _ => .rdn

def exprTyCode : ExprTy → Nat
  | .f32 => 0 | .f16x2 => 1 | .bf16x2 => 2 | .i32 => 3

def exprTyOf (n : Nat) : ExprTy :=
  match n with
  | 0 => .f32 | 1 => .f16x2 | 2 => .bf16x2 | _ => .i32

def aopCode : Aop → Nat
  | .add => 0 | .min => 1 | .max => 2 | .and => 3 | .or => 4 | .xor => 5 | .exch => 6

def aopOf : Nat → Option Aop
  | 0 => some .add | 1 => some .min | 2 => some .max | 3 => some .and | 4 => some .or | 5 => some .xor
  | 6 => some .exch | _ => none

def atyCode : Aty → Nat
  | .u32 => 0 | .i32 => 1 | .u64 => 2 | .i64 => 3 | .f32 => 4 | .f64 => 5 | .bf16x2 => 6 | .f16x2 => 7

def atyOf : Nat → Option Aty
  | 0 => some .u32 | 1 => some .i32 | 2 => some .u64 | 3 => some .i64 | 4 => some .f32 | 5 => some .f64
  | 6 => some .bf16x2 | 7 => some .f16x2 | _ => none

def mfmtCode : MFmt → Nat
  | .fp64 => 0 | .fp32 => 1 | .bf16 => 2 | .fp16 => 3 | .f8e4 => 4 | .f8e5 => 5 | .oq4 => 6

def mfmtOf : Nat → Option MFmt
  | 0 => some .fp64 | 1 => some .fp32 | 2 => some .bf16 | 3 => some .fp16 | 4 => some .f8e4 | 5 => some .f8e5
  | 6 => some .oq4 | _ => none

def accFmtCode : AccFmt → Nat
  | .f32 => 0 | .f64 => 1 | .acc96 => 2 | .bf16 => 3 | .fp16 => 4

def accFmtOf : Nat → Option AccFmt
  | 0 => some .f32 | 1 => some .f64 | 2 => some .acc96 | 3 => some .bf16 | 4 => some .fp16 | _ => none

def levelCode : Level → Nat
  | .core => 0 | .quad => 1 | .tier => 2 | .pkg => 3

def levelOf (n : Nat) : Level :=
  match n with
  | 0 => .core | 1 => .quad | 2 => .tier | _ => .pkg

def pairOpOf : Nat → Option PairOp
  | 0x01 => some .iadd | 0x02 => some .isub | 0x03 => some .imul | 0x04 => some .iminS | 0x05 => some .imaxS
  | 0x06 => some .iminU | 0x07 => some .imaxU | 0x08 => some .and | 0x09 => some .or | 0x0A => some .xor
  | 0x0B => some .shl | 0x0C => some .shrU | 0x0D => some .shrS | 0x20 => some .iaddi | 0x21 => some .andi
  | 0x22 => some .ori | 0x23 => some .xori | 0x24 => some .shli | 0x25 => some .shriU | 0x26 => some .shriS
  | 0x27 => some .movi8 | 0x40 => some .faddF32 | 0x41 => some .fsubF32 | 0x42 => some .fmulF32
  | 0x43 => some .fminF32 | 0x44 => some .fmaxF32 | 0x48 => some .faddF16x2 | 0x49 => some .fmulF16x2
  | 0x4A => some .faddBf16x2 | 0x4B => some .fmulBf16x2 | 0x60 => some .mov | 0x61 => some .cvtF32I32
  | 0x62 => some .cvtI32F32 | 0x63 => some .cvtF32F16 | 0x64 => some .cvtF32Bf16 | _ => none

/-! ### Word layouts -/

/-- Format W (R45). -/
def packW (op d a b c : Nat) (g : Guard) (m : Nat) : Nat :=
  op * 2 ^ 52 + d * 2 ^ 44 + a * 2 ^ 36 + b * 2 ^ 28 + c * 2 ^ 20 + bitN g.neg * 2 ^ 19 + g.p.val * 2 ^ 16 + m

/-- Format WI (R46). -/
def packWI (op d a : Nat) (g : Guard) (imm : Nat) : Nat :=
  op * 2 ^ 52 + d * 2 ^ 44 + a * 2 ^ 36 + bitN g.neg * 2 ^ 35 + g.p.val * 2 ^ 32 + imm

/-- The lead word of EXPR, MMA and COPY (R62, R159, R233). -/
def packLead (op d a b c e : Nat) (g : Guard) (low : Nat) : Nat :=
  2 * 2 ^ 62 + op * 2 ^ 52 + d * 2 ^ 44 + a * 2 ^ 36 + b * 2 ^ 28 + c * 2 ^ 20 + e * 2 ^ 12 + bitN g.neg * 2 ^ 11
    + g.p.val * 2 ^ 8 + low

def fD (w : Nat) : Nat := bits w 44 8
def fA (w : Nat) : Nat := bits w 36 8
def fB (w : Nat) : Nat := bits w 28 8
def fC (w : Nat) : Nat := bits w 20 8
def fE (w : Nat) : Nat := bits w 12 8
def gW (w : Nat) : Guard := { p := fin8 (bits w 16 3), neg := flag w 19 }
def gWI (w : Nat) : Guard := { p := fin8 (bits w 32 3), neg := flag w 35 }
def gLead (w : Nat) : Guard := { p := fin8 (bits w 8 3), neg := flag w 11 }

/-- Modifiers of the lane classes (R50). -/
def packMods (m : Mods) : Nat :=
  tyCode m.ty * 2 ^ 12 + rmCode m.rm * 2 ^ 10 + bitN m.sat * 2 ^ 9 + bitN m.apx * 2 ^ 8 + bitN m.na * 2 ^ 7
    + bitN m.nb * 2 ^ 6 + bitN m.aa * 2 ^ 5 + bitN m.ab * 2 ^ 4 + m.sub.val

def parseMods (w : Nat) : Option Mods :=
  (tyOf (bits w 12 4)).map fun ty =>
    { ty := ty, rm := rmOf (bits w 10 2), sat := flag w 9, apx := flag w 8, na := flag w 7, nb := flag w 6,
      aa := flag w 5, ab := flag w 4, sub := fin16 w }

/-! ### One parser and one packer for each operand shape -/

def packLane (op : Nat) (a : LaneArgs) : Nat := packW op a.d.code a.a.code a.b.code a.c.code a.g (packMods a.m)
def parseLane (w : Nat) : Option LaneArgs :=
  (parseMods w).map fun m =>
    { g := gW w, d := regOf (fD w), a := regOf (fA w), b := regOf (fB w), c := regOf (fC w), m := m }

def packSetp (op : Nat) (a : SetpArgs) : Nat :=
  packW op a.pd.val a.a.code a.b.code (psrcCode a.pc) a.g (packMods a.m)
def parseSetp (w : Nat) : Option SetpArgs :=
  (parseMods w).map fun m =>
    { g := gW w, pd := fin8 (fD w), a := regOf (fA w), b := regOf (fB w), pc := psrcOf (fC w), m := m }

def packSel (op : Nat) (a : SelArgs) : Nat :=
  packW op a.d.code a.a.code a.b.code (psrcCode a.pc) a.g (packMods a.m)
def parseSel (w : Nat) : Option SelArgs :=
  (parseMods w).map fun m =>
    { g := gW w, d := regOf (fD w), a := regOf (fA w), b := regOf (fB w), pc := psrcOf (fC w), m := m }

def packTlog (op : Nat) (a : TlogArgs) : Nat := packW op a.d.code a.a.code a.b.code a.c.code a.g a.tt.toNat
def parseTlog (w : Nat) : Option TlogArgs :=
  some { g := gW w, d := regOf (fD w), a := regOf (fA w), b := regOf (fB w), c := regOf (fC w)
         tt := BitVec.ofNat 8 w }

def packPlog (op : Nat) (a : PlogArgs) : Nat :=
  packW op a.pd.val (psrcCode a.pa) (psrcCode a.pb) (psrcCode a.pc) a.g a.tt.toNat
def parsePlog (w : Nat) : Option PlogArgs :=
  some { g := gW w, pd := fin8 (fD w), pa := psrcOf (fA w), pb := psrcOf (fB w), pc := psrcOf (fC w)
         tt := BitVec.ofNat 8 w }

def packImm (op : Nat) (a : ImmArgs) : Nat := packWI op a.d.code a.a.code a.g a.imm.toNat
def parseImm (w : Nat) : Option ImmArgs :=
  some { g := gWI w, d := regOf (fD w), a := regOf (fA w), imm := BitVec.ofNat 32 w }

def packSetpi (op : Nat) (a : SetpiArgs) : Nat :=
  packWI op a.pd.val a.a.code a.g (a.cond.val * 2 ^ 28 + bitN a.signed * 2 ^ 27 + a.imm.toNat)
def parseSetpi (w : Nat) : Option SetpiArgs :=
  some { g := gWI w, pd := fin8 (fD w), a := regOf (fA w), cond := fin16 (bits w 28 4), signed := flag w 27
         imm := BitVec.ofNat 27 w }

def packOff (op : Nat) (a : OffArgs) : Nat := packWI op 0 0 a.g a.imm.toNat
def parseOff (w : Nat) : Option OffArgs := some { g := gWI w, imm := BitVec.ofNat 32 w }

def packSread (op : Nat) (a : SreadArgs) : Nat := packW op a.d.code 0 a.sel.toNat 0 a.g 0
def parseSread (w : Nat) : Option SreadArgs :=
  some { g := gW w, d := regOf (fD w), sel := BitVec.ofNat 8 (fB w) }

def packRegD (op : Nat) (a : RegArgs) : Nat := packW op a.r.code 0 0 0 a.g 0
def parseRegD (w : Nat) : Option RegArgs := some { g := gW w, r := regOf (fD w) }

def packRegA (op : Nat) (a : RegArgs) : Nat := packW op 0 a.r.code 0 0 a.g 0
def parseRegA (w : Nat) : Option RegArgs := some { g := gW w, r := regOf (fA w) }

def packCvt (op : Nat) (a : CvtArgs) : Nat :=
  packW op a.d.code a.a.code 0 a.k.val a.g
    (tyCode a.dst * 2 ^ 12 + rmCode a.rm * 2 ^ 10 + bitN a.sat * 2 ^ 9 + tyCode a.src)
def parseCvt (w : Nat) : Option CvtArgs :=
  match tyOf (bits w 12 4), tyOf (bits w 0 4) with
  | some dst, some src =>
    some { g := gW w, d := regOf (fD w), a := regOf (fA w), k := fin4 (fC w), dst := dst, src := src
           rm := rmOf (bits w 10 2), sat := flag w 9 }
  | _, _ => none

def packPoll (op : Nat) (a : PollArgs) : Nat := packW op a.d.code (psrcCode a.pa) 0 0 a.g a.mode.val
def parsePoll (w : Nat) : Option PollArgs :=
  some { g := gW w, d := regOf (fD w), pa := psrcOf (fA w), mode := fin16 w }

/-- The M field of the plain accesses with the low offset byte (R54). -/
def packMem (a : MemArgs) : Nat :=
  a.sz.val * 2 ^ 13 + bitN a.sx * 2 ^ 12 + a.hint.val * 2 ^ 10 + bitN a.col * 2 ^ 9 + a.off.toNat % 256
def packLoad (op : Nat) (a : MemArgs) : Nat :=
  packW op a.data.code a.addr.code 0 (a.off.toNat / 256) a.g (packMem a)
def packStore (op : Nat) (a : MemArgs) : Nat :=
  packW op 0 a.addr.code a.data.code (a.off.toNat / 256) a.g (packMem a)
def parseMem (w : Nat) (data : Reg) : MemArgs :=
  { g := gW w, data := data, addr := regOf (fA w), off := BitVec.ofNat 16 (fC w * 256 + bits w 0 8)
    sz := fin8 (bits w 13 3), sx := flag w 12, hint := fin4 (bits w 10 2), col := flag w 9 }
def parseLoad (w : Nat) : Option MemArgs := some (parseMem w (regOf (fD w)))
def parseStore (w : Nat) : Option MemArgs := some (parseMem w (regOf (fB w)))

def packAtom (op : Nat) (a : AtomArgs) : Nat :=
  packW op a.d.code a.a.code a.b.code a.off.toNat a.g
    (a.hint.val * 2 ^ 10 + bitN a.col * 2 ^ 9 + aopCode a.op * 2 ^ 4 + atyCode a.ty)
def parseAtom (w : Nat) : Option AtomArgs :=
  match aopOf (bits w 4 4), atyOf (bits w 0 4) with
  | some op, some ty =>
    some { g := gW w, d := regOf (fD w), a := regOf (fA w), b := regOf (fB w), off := BitVec.ofNat 8 (fC w)
           hint := fin4 (bits w 10 2), col := flag w 9, op := op, ty := ty }
  | _, _ => none

def packCas (op : Nat) (a : CasArgs) : Nat :=
  packW op a.d.code a.a.code a.b.code a.c.code a.g (a.sz.val * 2 ^ 13 + a.hint.val * 2 ^ 10)
def parseCas (w : Nat) : Option CasArgs :=
  some { g := gW w, d := regOf (fD w), a := regOf (fA w), b := regOf (fB w), c := regOf (fC w)
         sz := fin8 (bits w 13 3), hint := fin4 (bits w 10 2) }

def packEnq (op : Nat) (a : RingArgs) : Nat :=
  packW op a.pd.val a.a.code a.data.code 0 a.g (a.sz.val * 2 ^ 13)
def parseEnq (w : Nat) : Option RingArgs :=
  some { g := gW w, pd := fin8 (fD w), a := regOf (fA w), data := regOf (fB w), sz := fin8 (bits w 13 3) }

def packDeq (op : Nat) (a : RingArgs) : Nat :=
  packW op a.data.code a.a.code 0 a.pd.val a.g (a.sz.val * 2 ^ 13)
def parseDeq (w : Nat) : Option RingArgs :=
  some { g := gW w, pd := fin8 (fC w), a := regOf (fA w), data := regOf (fD w), sz := fin8 (bits w 13 3) }

def packTwoDA (op : Nat) (a : TwoRegArgs) : Nat := packW op a.d.code a.a.code 0 0 a.g 0
def parseTwoDA (w : Nat) : Option TwoRegArgs := some { g := gW w, d := regOf (fD w), a := regOf (fA w) }

def packTwoAB (op : Nat) (a : TwoRegArgs) : Nat := packW op 0 a.d.code a.a.code 0 a.g 0
def parseTwoAB (w : Nat) : Option TwoRegArgs := some { g := gW w, d := regOf (fA w), a := regOf (fB w) }

def packThree (op : Nat) (a : ThreeRegArgs) : Nat := packW op a.d.code a.a.code a.b.code 0 a.g 0
def parseThree (w : Nat) : Option ThreeRegArgs :=
  some { g := gW w, d := regOf (fD w), a := regOf (fA w), b := regOf (fB w) }

def packPAddr (op : Nat) (a : PAddrArgs) : Nat := packW op a.pd.val a.a.code a.b.code 0 a.g 0
def parsePAddr (w : Nat) : Option PAddrArgs :=
  some { g := gW w, pd := fin8 (fD w), a := regOf (fA w), b := regOf (fB w) }

def packGuard (op : Nat) (g : Guard) : Nat := packW op 0 0 0 0 g 0
def parseGuard (w : Nat) : Option Guard := some (gW w)

def packTxAbort (op : Nat) (a : TxAbortArgs) : Nat := packW op 0 0 0 0 a.g a.code.toNat
def parseTxAbort (w : Nat) : Option TxAbortArgs := some { g := gW w, code := BitVec.ofNat 8 w }

def packHwait (op : Nat) (a : HwaitArgs) : Nat := packW op 0 a.h.val 0 (psrcCode a.pd) a.g (bitN a.pw)
def parseHwait (w : Nat) : Option HwaitArgs :=
  some { g := gW w, h := fin16 (fA w), pw := flag w 0, pd := psrcOf (fC w) }

def packHtest (op : Nat) (a : HtestArgs) : Nat := packW op a.pd.val a.h.val 0 0 a.g 0
def parseHtest (w : Nat) : Option HtestArgs := some { g := gW w, pd := fin8 (fD w), h := fin16 (fA w) }

/-- HCANCEL: handle in A; the model's register field is unused. -/
def packHandleA (op : Nat) (a : HandleArgs) : Nat := packW op 0 a.h.val a.r.code 0 a.g 0
def parseHandleA (w : Nat) : Option HandleArgs := some { g := gW w, h := fin16 (fA w), r := regOf (fB w) }

def packHtok (op : Nat) (a : HandleArgs) : Nat := packW op a.r.code a.h.val 0 0 a.g 0
def parseHtok (w : Nat) : Option HandleArgs := some { g := gW w, h := fin16 (fA w), r := regOf (fD w) }

def packHadopt (op : Nat) (a : HandleArgs) : Nat := packW op a.h.val 0 a.r.code 0 a.g 0
def parseHadopt (w : Nat) : Option HandleArgs := some { g := gW w, h := fin16 (fD w), r := regOf (fB w) }

def packHandleD (op : Nat) (a : HandleArgs) : Nat := packW op a.h.val a.r.code 0 0 a.g 0
def parseHandleD (w : Nat) : Option HandleArgs := some { g := gW w, h := fin16 (fD w), r := regOf (fA w) }

def packGang (op : Nat) (a : GangArgs) : Nat :=
  packW op 0 0 (bits a.mask.toNat 16 8) (bits a.mask.toNat 24 8) a.g (bits a.mask.toNat 0 16)
def parseGang (w : Nat) : Option GangArgs :=
  some { g := gW w, mask := BitVec.ofNat 32 (fC w * 2 ^ 24 + fB w * 2 ^ 16 + bits w 0 16) }

def packAccz (op : Nat) (a : AcczArgs) : Nat := packW op 0 0 0 0 a.g a.mask.toNat
def parseAccz (w : Nat) : Option AcczArgs := some { g := gW w, mask := BitVec.ofNat 16 w }

def packAcc (op : Nat) (a : AccArgs) : Nat :=
  packW op a.h.val a.a.code a.tile.val 0 a.g
    (accFmtCode a.fmt * 2 ^ 12 + rmCode a.rm * 2 ^ 10 + bitN a.sat * 2 ^ 9 + a.pitch.toNat)
def parseAcc (w : Nat) : Option AccArgs :=
  (accFmtOf (bits w 12 4)).map fun fmt =>
    { g := gW w, h := fin16 (fD w), a := regOf (fA w), tile := fin16 (fB w), fmt := fmt, rm := rmOf (bits w 10 2)
      sat := flag w 9, pitch := BitVec.ofNat 9 w }

def packAccrd (op : Nat) (a : AccrdArgs) : Nat :=
  packW op a.d.code a.tile.val a.b.code 0 a.g ((4 + bitN a.f64) * 2 ^ 12 + rmCode a.rm * 2 ^ 10 + bitN a.sat * 2 ^ 9)
def parseAccrd (w : Nat) : Option AccrdArgs :=
  some { g := gW w, d := regOf (fD w), tile := fin16 (fA w), b := regOf (fB w), f64 := flag w 12
         rm := rmOf (bits w 10 2), sat := flag w 9 }

def packBrx (op : Nat) (a : BrxArgs) : Nat := packW op 0 a.a.code a.b.code a.n.toNat a.g 0
def parseBrx (w : Nat) : Option BrxArgs :=
  some { g := gW w, a := regOf (fA w), b := regOf (fB w), n := BitVec.ofNat 8 (fC w) }

def packRegBit (op : Nat) (a : RegBitArgs) : Nat := packW op 0 a.r.code 0 0 a.g (bitN a.bit)
def parseRegBit (w : Nat) : Option RegBitArgs := some { g := gW w, r := regOf (fA w), bit := flag w 0 }

def packBar (op : Nat) (a : BarArgs) : Nat :=
  packW op 0 a.a.code 0 0 a.g (levelCode a.lv * 2 ^ 14 + bitN a.cnt * 2 ^ 5 + a.id.val)
def parseBar (w : Nat) : Option BarArgs :=
  some { g := gW w, a := regOf (fA w), lv := levelOf (bits w 14 2), cnt := flag w 5, id := fin32 (bits w 0 5) }

def packYield (op : Nat) (a : YieldArgs) : Nat := packW op 0 0 0 0 a.g (bitN a.rot)
def parseYield (w : Nat) : Option YieldArgs := some { g := gW w, rot := flag w 0 }

def packCtlwr (op : Nat) (a : CtlwrArgs) : Nat := packW op a.pd.val a.a.code a.b.code 0 a.g (bitN a.pw)
def parseCtlwr (w : Nat) : Option CtlwrArgs :=
  some { g := gW w, pw := flag w 0, pd := fin8 (fD w), a := regOf (fA w), b := regOf (fB w) }

/-! ### Encodings -/

/-- What an instruction's encoding is: one core word, two core words, a near-bank word, or nothing (an event). -/
inductive Enc where
  | one (w : Nat)
  | two (w w2 : Nat)
  | nb (w : Nat)
  | event
  deriving DecidableEq, Repr

/-- MOVW (R61). -/
def packMovw (op : Nat) (a : MovwArgs) : Enc :=
  .two (2 * 2 ^ 62 + packWI op a.d.code 0 a.g (a.imm.toNat % 2 ^ 32)) (3 * 2 ^ 62 + a.imm.toNat / 2 ^ 32)
def parseMovw (w w2 : Nat) : Option MovwArgs :=
  some { g := gWI w, d := regOf (fD w), imm := BitVec.ofNat 64 (bits w 0 32 + bits w2 0 32 * 2 ^ 32) }

/-- Token slots 0 to 11 of an EXPR continuation: the slot numbered `i` stands at bit 57 - 5i (R62). -/
def packTokens : Nat → List (Fin 32) → Nat
  | _, [] => 0
  | i, t :: ts => t.val * 2 ^ (57 - 5 * i) + packTokens (i + 1) ts
def parseTokens (w2 : Nat) : List (Fin 32) :=
  [0, 1, 2, 3, 4, 5, 6, 7, 8, 9, 10, 11].map fun i => fin32 (bits w2 (57 - 5 * i) 5)

def packExpr (op : Nat) (a : ExprArgs) : Enc :=
  .two (packLead op a.d.code a.a.code a.b.code a.c.code a.e.code a.g
      (exprTyCode a.ty * 2 ^ 6 + rmCode a.rm * 2 ^ 4 + a.nt.val))
    (3 * 2 ^ 62 + packTokens 0 a.toks)
def parseExpr (w w2 : Nat) : Option ExprArgs :=
  some { g := gLead w, d := regOf (fD w), a := regOf (fA w), b := regOf (fB w), c := regOf (fC w), e := regOf (fE w)
         ty := exprTyOf (bits w 6 2), rm := rmOf (bits w 4 2), nt := fin16 (bits w 0 4), toks := parseTokens w2 }

def packMma (op : Nat) (a : MmaArgs) : Enc :=
  .two (packLead op (a.dt.val * 16 + a.h.val) a.ar.code a.br.code a.sa.code a.sb.code a.g
      (bitN a.ovw * 2 ^ 7 + bitN a.asrc * 2 ^ 6 + a.ks.val))
    (3 * 2 ^ 62 + mfmtCode a.fa * 2 ^ 59 + mfmtCode a.fb * 2 ^ 56 + bitN a.asat * 2 ^ 55 + a.pa.toNat * 2 ^ 43
      + a.pb.toNat * 2 ^ 31)
def parseMma (w w2 : Nat) : Option MmaArgs :=
  match mfmtOf (bits w2 59 3), mfmtOf (bits w2 56 3) with
  | some fa, some fb =>
    some { g := gLead w, dt := fin16 (bits w 48 4), h := fin16 (bits w 44 4), ar := regOf (fA w), br := regOf (fB w)
           sa := regOf (fC w), sb := regOf (fE w), ovw := flag w 7, asrc := flag w 6, ks := fin64 (bits w 0 6)
           fa := fa, fb := fb, asat := flag w2 55, pa := BitVec.ofNat 12 (bits w2 43 12)
           pb := BitVec.ofNat 12 (bits w2 31 12) }
  | _, _ => none

def packCopy (op : Nat) (a : CopyArgs) : Enc :=
  .two (packLead op (a.h.val * 16 + a.xf.val) a.sa.code a.da.code a.gr.code a.pr.code a.g
      (bitN a.ssp * 2 ^ 7 + bitN a.dsp * 2 ^ 6 + bitN a.col * 2 ^ 5))
    (3 * 2 ^ 62 + a.ra.code * 2 ^ 54 + a.aw.code * 2 ^ 46 + a.hint.val * 2 ^ 44)
def parseCopy (w w2 : Nat) : Option CopyArgs :=
  some { g := gLead w, h := fin16 (bits w 48 4), xf := fin16 (bits w 44 4), sa := regOf (fA w), da := regOf (fB w)
         gr := regOf (fC w), pr := regOf (fE w), ssp := flag w 7, dsp := flag w 6, col := flag w 5
         ra := regOf (bits w2 54 8), aw := regOf (bits w2 46 8), hint := fin4 (bits w2 44 2) }

/-- A half's 31 bits (R57). -/
def packHalf : Option PairHalf → Nat
  | none => 0
  | some h => h.op.code * 2 ^ 24 + h.d.code * 2 ^ 16 + h.a.code * 2 ^ 8 + h.x.toNat
def packPair (op : PairOp) (p : PairArgs) : Nat :=
  1 * 2 ^ 62 + packHalf (p.h0 op) * 2 ^ 31 + packHalf (p.h1 op)

/-- A half read from 31 bits: none for a refused opcode, some none for an empty half. -/
def parseHalf (h : Nat) : Option (Option PairHalf) :=
  if h = 0 then some none
  else (pairOpOf (bits h 24 7)).map fun op =>
    some { op := op, d := regOf (bits h 16 8), a := regOf (bits h 8 8), x := BitVec.ofNat 8 h }

/-- The constructor of a pair opcode. -/
def pairInstr (op : PairOp) (p : PairArgs) : Instr :=
  match op with
  | .iadd => .pairIadd p
  | .isub => .pairIsub p
  | .imul => .pairImul p
  | .iminS => .pairIminS p
  | .imaxS => .pairImaxS p
  | .iminU => .pairIminU p
  | .imaxU => .pairImaxU p
  | .and => .pairAnd p
  | .or => .pairOr p
  | .xor => .pairXor p
  | .shl => .pairShl p
  | .shrU => .pairShrU p
  | .shrS => .pairShrS p
  | .iaddi => .pairIaddi p
  | .andi => .pairAndi p
  | .ori => .pairOri p
  | .xori => .pairXori p
  | .shli => .pairShli p
  | .shriU => .pairShriU p
  | .shriS => .pairShriS p
  | .movi8 => .pairMovi8 p
  | .faddF32 => .pairFaddF32 p
  | .fsubF32 => .pairFsubF32 p
  | .fmulF32 => .pairFmulF32 p
  | .fminF32 => .pairFminF32 p
  | .fmaxF32 => .pairFmaxF32 p
  | .faddF16x2 => .pairFaddF16x2 p
  | .fmulF16x2 => .pairFmulF16x2 p
  | .faddBf16x2 => .pairFaddBf16x2 p
  | .fmulBf16x2 => .pairFmulBf16x2 p
  | .mov => .pairMov p
  | .cvtF32I32 => .pairCvtF32I32 p
  | .cvtI32F32 => .pairCvtI32F32 p
  | .cvtF32F16 => .pairCvtF32F16 p
  | .cvtF32Bf16 => .pairCvtF32Bf16 p

def parsePair (w : Nat) : Option Instr :=
  match parseHalf (bits w 31 31), parseHalf (bits w 0 31) with
  | some (some h), some k => some (pairInstr h.op { inH1 := false, d := h.d, a := h.a, x := h.x, mate := k })
  | some none, some (some k) => some (pairInstr k.op { inH1 := true, d := k.d, a := k.a, x := k.x, mate := none })
  | _, _ => none

/-- The words of an instruction, by the encoding tables of the spec. -/
def encode : Instr → Enc
  | .iadd a => .one (packLane 0x001 a)
  | .isub a => .one (packLane 0x002 a)
  | .imul a => .one (packLane 0x003 a)
  | .imulh a => .one (packLane 0x004 a)
  | .imad a => .one (packLane 0x005 a)
  | .idiv a => .one (packLane 0x006 a)
  | .irem a => .one (packLane 0x007 a)
  | .imin a => .one (packLane 0x008 a)
  | .imax a => .one (packLane 0x009 a)
  | .iabs a => .one (packLane 0x00A a)
  | .iadd64 a => .one (packLane 0x00B a)
  | .isub64 a => .one (packLane 0x00C a)
  | .lea a => .one (packLane 0x00D a)
  | .isetp a => .one (packSetp 0x00E a)
  | .isetp64 a => .one (packSetp 0x00F a)
  | .and a => .one (packLane 0x010 a)
  | .or a => .one (packLane 0x011 a)
  | .xor a => .one (packLane 0x012 a)
  | .tlog a => .one (packTlog 0x013 a)
  | .shl a => .one (packLane 0x014 a)
  | .shr a => .one (packLane 0x015 a)
  | .shw a => .one (packLane 0x016 a)
  | .popc a => .one (packLane 0x017 a)
  | .clz a => .one (packLane 0x018 a)
  | .brev a => .one (packLane 0x019 a)
  | .bfe a => .one (packLane 0x01A a)
  | .bfi a => .one (packLane 0x01B a)
  | .bpick a => .one (packLane 0x01C a)
  | .sel a => .one (packSel 0x01D a)
  | .mov a => .one (packLane 0x01E a)
  | .plog a => .one (packPlog 0x01F a)
  | .movi a => .one (packImm 0x020 a)
  | .iaddi a => .one (packImm 0x021 a)
  | .andi a => .one (packImm 0x022 a)
  | .ori a => .one (packImm 0x023 a)
  | .xori a => .one (packImm 0x024 a)
  | .isetpi a => .one (packSetpi 0x025 a)
  | .movw a => packMovw 0x026 a
  | .sread a => .one (packSread 0x027 a)
  | .fadd a => .one (packLane 0x080 a)
  | .fsub a => .one (packLane 0x081 a)
  | .fmul a => .one (packLane 0x082 a)
  | .ffma a => .one (packLane 0x083 a)
  | .fmin a => .one (packLane 0x084 a)
  | .fmax a => .one (packLane 0x085 a)
  | .fsetp a => .one (packSetp 0x086 a)
  | .fclass a => .one (packLane 0x087 a)
  | .fdiv a => .one (packLane 0x088 a)
  | .fsqrt a => .one (packLane 0x089 a)
  | .frcp a => .one (packLane 0x08A a)
  | .frsq a => .one (packLane 0x08B a)
  | .fex2 a => .one (packLane 0x08C a)
  | .flg2 a => .one (packLane 0x08D a)
  | .fsin a => .one (packLane 0x08E a)
  | .fcos a => .one (packLane 0x08F a)
  | .expr a => packExpr 0x091 a
  | .flagrd a => .one (packRegD 0x093 a)
  | .flagclr a => .one (packRegA 0x094 a)
  | .cvt a => .one (packCvt 0x100 a)
  | .frnd a => .one (packLane 0x101 a)
  | .pack a => .one (packLane 0x102 a)
  | .unpk a => .one (packLane 0x103 a)
  | .rgtr a => .one (packLane 0x104 a)
  | .xlane a => .one (packLane 0x140 a)
  | .poll a => .one (packPoll 0x141 a)
  | .wred a => .one (packLane 0x142 a)
  | .wscan a => .one (packLane 0x143 a)
  | .eqm a => .one (packLane 0x144 a)
  | .rdlane a => .one (packLane 0x145 a)
  | .ld a => .one (packLoad 0x180 a)
  | .st a => .one (packStore 0x181 a)
  | .lds a => .one (packLoad 0x182 a)
  | .sts a => .one (packStore 0x183 a)
  | .atom a => .one (packAtom 0x184 a)
  | .atoms a => .one (packAtom 0x185 a)
  | .red a => .one (packAtom 0x186 a)
  | .cas a => .one (packCas 0x187 a)
  | .enq a => .one (packEnq 0x188 a)
  | .deq a => .one (packDeq 0x189 a)
  | .pgenum a => .one (packTwoDA 0x18A a)
  | .pgstat a => .one (packPAddr 0x18B a)
  | .pgreset a => .one (packRegA 0x18C a)
  | .regsweep a => .one (packRegA 0x18D a)
  | .prefetch a => .one (packLoad 0x18E a)
  | .lnflush a => .one (packLoad 0x18F a)
  | .chunk a => .one (packGuard 0x200 a)
  | .txbegin a => .one (packOff 0x201 a)
  | .txend a => .one (packGuard 0x202 a)
  | .txabort a => .one (packTxAbort 0x203 a)
  | .settle a => .one (packGuard 0x204 a)
  | .beat a => .one (packGuard 0x205 a)
  | .copy a => packCopy 0x240 a
  | .hwait a => .one (packHwait 0x241 a)
  | .htest a => .one (packHtest 0x242 a)
  | .hcancel a => .one (packHandleA 0x243 a)
  | .htok a => .one (packHtok 0x244 a)
  | .hadopt a => .one (packHadopt 0x245 a)
  | .awinit a => .one (packTwoAB 0x246 a)
  | .arrive a => .one (packTwoAB 0x247 a)
  | .await a => .one (packTwoAB 0x248 a)
  | .nbrun a => .one (packHandleD 0x249 a)
  | .nbload a => .one (packTwoAB 0x24A a)
  | .stepopen a => .one (packPAddr 0x24B a)
  | .stepend a => .one (packPAddr 0x24C a)
  | .coll a => .one (packHandleD 0x24D a)
  | .gang a => .one (packGang 0x280 a)
  | .mma a => packMma 0x281 a
  | .accz a => .one (packAccz 0x282 a)
  | .accld a => .one (packAcc 0x283 a)
  | .accst a => .one (packAcc 0x284 a)
  | .accrd a => .one (packAccrd 0x285 a)
  | .nop a => .one (packGuard 0x2C0 a)
  | .bra a => .one (packOff 0x2C1 a)
  | .brx a => .one (packBrx 0x2C2 a)
  | .jmp a => .one (packRegA 0x2C3 a)
  | .call a => .one (packOff 0x2C4 a)
  | .callr a => .one (packRegA 0x2C5 a)
  | .ret a => .one (packRegBit 0x2C6 a)
  | .exit a => .one (packGuard 0x2C7 a)
  | .wsync a => .one (packRegBit 0x2C8 a)
  | .bar a => .one (packBar 0x2C9 a)
  | .bara a => .one (packBar 0x2CA a)
  | .barw a => .one (packBar 0x2CB a)
  | .yield a => .one (packYield 0x2CC a)
  | .sleep a => .one (packOff 0x2CD a)
  | .launch a => .one (packTwoDA 0x300 a)
  | .depdone a => .one (packGuard 0x301 a)
  | .ydone a => .one (packGuard 0x302 a)
  | .yret a => .one (packGuard 0x303 a)
  | .trap a => .one (packOff 0x340 a)
  | .brk a => .one (packOff 0x341 a)
  | .ctlrd a => .one (packTwoDA 0x342 a)
  | .ctlwr a => .one (packCtlwr 0x343 a)
  | .audit a => .one (packThree 0x344 a)
  | .scrub a => .one (packTwoDA 0x345 a)
  | .pairIadd p => .one (packPair .iadd p)
  | .pairIsub p => .one (packPair .isub p)
  | .pairImul p => .one (packPair .imul p)
  | .pairIminS p => .one (packPair .iminS p)
  | .pairImaxS p => .one (packPair .imaxS p)
  | .pairIminU p => .one (packPair .iminU p)
  | .pairImaxU p => .one (packPair .imaxU p)
  | .pairAnd p => .one (packPair .and p)
  | .pairOr p => .one (packPair .or p)
  | .pairXor p => .one (packPair .xor p)
  | .pairShl p => .one (packPair .shl p)
  | .pairShrU p => .one (packPair .shrU p)
  | .pairShrS p => .one (packPair .shrS p)
  | .pairIaddi p => .one (packPair .iaddi p)
  | .pairAndi p => .one (packPair .andi p)
  | .pairOri p => .one (packPair .ori p)
  | .pairXori p => .one (packPair .xori p)
  | .pairShli p => .one (packPair .shli p)
  | .pairShriU p => .one (packPair .shriU p)
  | .pairShriS p => .one (packPair .shriS p)
  | .pairMovi8 p => .one (packPair .movi8 p)
  | .pairFaddF32 p => .one (packPair .faddF32 p)
  | .pairFsubF32 p => .one (packPair .fsubF32 p)
  | .pairFmulF32 p => .one (packPair .fmulF32 p)
  | .pairFminF32 p => .one (packPair .fminF32 p)
  | .pairFmaxF32 p => .one (packPair .fmaxF32 p)
  | .pairFaddF16x2 p => .one (packPair .faddF16x2 p)
  | .pairFmulF16x2 p => .one (packPair .fmulF16x2 p)
  | .pairFaddBf16x2 p => .one (packPair .faddBf16x2 p)
  | .pairFmulBf16x2 p => .one (packPair .fmulBf16x2 p)
  | .pairMov p => .one (packPair .mov p)
  | .pairCvtF32I32 p => .one (packPair .cvtF32I32 p)
  | .pairCvtI32F32 p => .one (packPair .cvtI32F32 p)
  | .pairCvtF32F16 p => .one (packPair .cvtF32F16 p)
  | .pairCvtF32Bf16 p => .one (packPair .cvtF32Bf16 p)
  | .nnop => .nb (0x00 * 2 ^ 26)
  | .nopen st => .nb (0x01 * 2 ^ 26 + st.val * 2 ^ 24)
  | .nclose => .nb (0x02 * 2 ^ 26)
  | .nrd bd => .nb (0x03 * 2 ^ 26 + bd.val * 2 ^ 23)
  | .nwr ba => .nb (0x04 * 2 ^ 26 + ba.val * 2 ^ 20)
  | .nadd bd ba bb => .nb (0x05 * 2 ^ 26 + bd.val * 2 ^ 23 + ba.val * 2 ^ 20 + bb.val * 2 ^ 17)
  | .nsub bd ba bb => .nb (0x06 * 2 ^ 26 + bd.val * 2 ^ 23 + ba.val * 2 ^ 20 + bb.val * 2 ^ 17)
  | .nmul bd ba bb => .nb (0x07 * 2 ^ 26 + bd.val * 2 ^ 23 + ba.val * 2 ^ 20 + bb.val * 2 ^ 17)
  | .nfma bd ba bb => .nb (0x08 * 2 ^ 26 + bd.val * 2 ^ 23 + ba.val * 2 ^ 20 + bb.val * 2 ^ 17)
  | .naxpy bd ba ns => .nb (0x09 * 2 ^ 26 + bd.val * 2 ^ 23 + ba.val * 2 ^ 20 + ns.val * 2 ^ 13)
  | .nscale bd ba ns => .nb (0x0A * 2 ^ 26 + bd.val * 2 ^ 23 + ba.val * 2 ^ 20 + ns.val * 2 ^ 13)
  | .nmax bd ba bb => .nb (0x0B * 2 ^ 26 + bd.val * 2 ^ 23 + ba.val * 2 ^ 20 + bb.val * 2 ^ 17)
  | .nmin bd ba bb => .nb (0x0C * 2 ^ 26 + bd.val * 2 ^ 23 + ba.val * 2 ^ 20 + bb.val * 2 ^ 17)
  | .nrsq bd ba => .nb (0x0D * 2 ^ 26 + bd.val * 2 ^ 23 + ba.val * 2 ^ 20)
  | .nchk ba => .nb (0x0E * 2 ^ 26 + ba.val * 2 ^ 20)
  | .nmovb bd ba => .nb (0x0F * 2 ^ 26 + bd.val * 2 ^ 23 + ba.val * 2 ^ 20)
  | .nset nd imm => .nb (0x10 * 2 ^ 26 + nd.val * 2 ^ 22 + imm.toNat)
  | .nseth nd imm => .nb (0x11 * 2 ^ 26 + nd.val * 2 ^ 22 + imm.toNat)
  | .naddi nd imm => .nb (0x12 * 2 ^ 26 + nd.val * 2 ^ 22 + imm.toNat)
  | .nloop nd tgt => .nb (0x13 * 2 ^ 26 + nd.val * 2 ^ 22 + tgt.toNat)
  | .nbra tgt => .nb (0x14 * 2 ^ 26 + tgt.toNat)
  | .nbrz nd tgt => .nb (0x15 * 2 ^ 26 + nd.val * 2 ^ 22 + tgt.toNat)
  | .npoint => .nb (0x16 * 2 ^ 26)
  | .ndone => .nb (0x17 * 2 ^ 26)
  | .nlds nd imm => .nb (0x18 * 2 ^ 26 + nd.val * 2 ^ 22 + imm.toNat)
  | .nopens st => .nb (0x19 * 2 ^ 26 + st.val * 2 ^ 24)
  | .illegalEncodingIssue .. | .chunkCommit .. | .preGrant .. | .redApplication .. | .commitRound .. | .heartbeatTick ..
  | .tileOpStart .. | .mmaKstep .. | .tileOpComplete .. | .engineWatchdogExpiry .. | .copyEngineStart .. | .copyPublish ..
  | .barrowFillPublish .. | .sleepExpiry .. | .directoryRecall .. | .notify .. | .launchAdmission .. | .queueMap ..
  | .queueUnmap .. | .groupDispatch .. | .groupComplete .. | .launchFaultEnd .. | .timeSliceExpiry .. | .priorityPreemption ..
  | .yieldHandlerEntry .. | .forcedSaveDeadline .. | .contextResume .. | .noCommitWatchdogExpiry .. | .externalWaitLimit ..
  | .poolWaitExpiry .. | .pageRelease .. | .pageScrubComplete .. | .stallRunStart .. | .stallResume .. | .collectivePublish ..
  | .collectiveFail .. | .softError .. | .agentDeadlineExpiry .. | .staleIncarnationMessage .. | .hostMemRead ..
  | .hostMemWrite .. | .hostSnoop .. | .configRequest .. | .peerAccessRequest .. | .flowXoff .. | .flowXon ..
  | .trainingStateTimeout .. | .linkRetrain .. | .bringUp .. | .thermalGating .. | .thermalTrip .. | .ctxCreate ..
  | .ctxRelease .. | .queueReg .. | .queueUnreg .. | .regionCreate .. | .regionDestroy .. | .poolGrant .. | .pageAssign ..
  | .pageFree .. | .tlbInv .. | .setLimits .. | .debugCtl .. | .schedSet .. | .mailboxUnknownCode .. | .partCreate ..
  | .partDestroy .. | .rolesSet .. | .shareSet .. | .routeSet .. | .rolesWrite .. | .rtinvWrite .. | .fwinCtlWrite ..
  | .ownershipWrite .. | .controlRegisterWrite .. | .getVersion .. | .getCapabilities .. | .negotiateAlgorithms ..
  | .getDigests .. | .getCertificate .. | .challenge .. | .getMeasurements .. | .keyExchange .. | .finish .. | .endSession ..
  | .engineReturnToService .. | .agentReinstatement .. | .roleChangeReEnumeration .. | .thermalGatingRelease ..
  | .linkLevelRetry .. | .firmwareLoad .. | .cdatRequest .. | .modulePowerLoss .. => .event

/-! ### The decoder -/

/-- Assigned major opcodes (R68). -/
def assigned (op : Nat) : Bool :=
  (0x001 ≤ op && op ≤ 0x027) || (0x080 ≤ op && op ≤ 0x08F) || op == 0x091 || op == 0x093 || op == 0x094
    || (0x100 ≤ op && op ≤ 0x104) || (0x140 ≤ op && op ≤ 0x145) || (0x180 ≤ op && op ≤ 0x18F)
    || (0x200 ≤ op && op ≤ 0x205) || (0x240 ≤ op && op ≤ 0x24D) || (0x280 ≤ op && op ≤ 0x285)
    || (0x2C0 ≤ op && op ≤ 0x2CD) || (0x300 ≤ op && op ≤ 0x303) || (0x340 ≤ op && op ≤ 0x345)

/-- MOVW, EXPR, COPY and MMA (R42). -/
def isTwoWord (op : Nat) : Bool := op == 0x026 || op == 0x091 || op == 0x240 || op == 0x281

/-- Opcodes 0x000 to 0x07F of the one-word formats (R69). -/
def decodeI (op w : Nat) : Option Instr :=
  match op with
  | 0x001 => (parseLane w).map .iadd
  | 0x002 => (parseLane w).map .isub
  | 0x003 => (parseLane w).map .imul
  | 0x004 => (parseLane w).map .imulh
  | 0x005 => (parseLane w).map .imad
  | 0x006 => (parseLane w).map .idiv
  | 0x007 => (parseLane w).map .irem
  | 0x008 => (parseLane w).map .imin
  | 0x009 => (parseLane w).map .imax
  | 0x00A => (parseLane w).map .iabs
  | 0x00B => (parseLane w).map .iadd64
  | 0x00C => (parseLane w).map .isub64
  | 0x00D => (parseLane w).map .lea
  | 0x00E => (parseSetp w).map .isetp
  | 0x00F => (parseSetp w).map .isetp64
  | 0x010 => (parseLane w).map .and
  | 0x011 => (parseLane w).map .or
  | 0x012 => (parseLane w).map .xor
  | 0x013 => (parseTlog w).map .tlog
  | 0x014 => (parseLane w).map .shl
  | 0x015 => (parseLane w).map .shr
  | 0x016 => (parseLane w).map .shw
  | 0x017 => (parseLane w).map .popc
  | 0x018 => (parseLane w).map .clz
  | 0x019 => (parseLane w).map .brev
  | 0x01A => (parseLane w).map .bfe
  | 0x01B => (parseLane w).map .bfi
  | 0x01C => (parseLane w).map .bpick
  | 0x01D => (parseSel w).map .sel
  | 0x01E => (parseLane w).map .mov
  | 0x01F => (parsePlog w).map .plog
  | 0x020 => (parseImm w).map .movi
  | 0x021 => (parseImm w).map .iaddi
  | 0x022 => (parseImm w).map .andi
  | 0x023 => (parseImm w).map .ori
  | 0x024 => (parseImm w).map .xori
  | 0x025 => (parseSetpi w).map .isetpi
  | 0x027 => (parseSread w).map .sread
  | _ => none

/-- Opcodes 0x080 to 0x0FF of the one-word formats (R69). -/
def decodeF (op w : Nat) : Option Instr :=
  match op with
  | 0x080 => (parseLane w).map .fadd
  | 0x081 => (parseLane w).map .fsub
  | 0x082 => (parseLane w).map .fmul
  | 0x083 => (parseLane w).map .ffma
  | 0x084 => (parseLane w).map .fmin
  | 0x085 => (parseLane w).map .fmax
  | 0x086 => (parseSetp w).map .fsetp
  | 0x087 => (parseLane w).map .fclass
  | 0x088 => (parseLane w).map .fdiv
  | 0x089 => (parseLane w).map .fsqrt
  | 0x08A => (parseLane w).map .frcp
  | 0x08B => (parseLane w).map .frsq
  | 0x08C => (parseLane w).map .fex2
  | 0x08D => (parseLane w).map .flg2
  | 0x08E => (parseLane w).map .fsin
  | 0x08F => (parseLane w).map .fcos
  | 0x093 => (parseRegD w).map .flagrd
  | 0x094 => (parseRegA w).map .flagclr
  | _ => none

/-- Opcodes 0x100 to 0x17F of the one-word formats (R69). -/
def decodeMX (op w : Nat) : Option Instr :=
  match op with
  | 0x100 => (parseCvt w).map .cvt
  | 0x101 => (parseLane w).map .frnd
  | 0x102 => (parseLane w).map .pack
  | 0x103 => (parseLane w).map .unpk
  | 0x104 => (parseLane w).map .rgtr
  | 0x140 => (parseLane w).map .xlane
  | 0x141 => (parsePoll w).map .poll
  | 0x142 => (parseLane w).map .wred
  | 0x143 => (parseLane w).map .wscan
  | 0x144 => (parseLane w).map .eqm
  | 0x145 => (parseLane w).map .rdlane
  | _ => none

/-- Opcodes 0x180 to 0x1FF of the one-word formats (R69). -/
def decodeL (op w : Nat) : Option Instr :=
  match op with
  | 0x180 => (parseLoad w).map .ld
  | 0x181 => (parseStore w).map .st
  | 0x182 => (parseLoad w).map .lds
  | 0x183 => (parseStore w).map .sts
  | 0x184 => (parseAtom w).map .atom
  | 0x185 => (parseAtom w).map .atoms
  | 0x186 => (parseAtom w).map .red
  | 0x187 => (parseCas w).map .cas
  | 0x188 => (parseEnq w).map .enq
  | 0x189 => (parseDeq w).map .deq
  | 0x18A => (parseTwoDA w).map .pgenum
  | 0x18B => (parsePAddr w).map .pgstat
  | 0x18C => (parseRegA w).map .pgreset
  | 0x18D => (parseRegA w).map .regsweep
  | 0x18E => (parseLoad w).map .prefetch
  | 0x18F => (parseLoad w).map .lnflush
  | _ => none

/-- Opcodes 0x200 to 0x27F of the one-word formats (R69). -/
def decodeOA (op w : Nat) : Option Instr :=
  match op with
  | 0x200 => (parseGuard w).map .chunk
  | 0x201 => (parseOff w).map .txbegin
  | 0x202 => (parseGuard w).map .txend
  | 0x203 => (parseTxAbort w).map .txabort
  | 0x204 => (parseGuard w).map .settle
  | 0x205 => (parseGuard w).map .beat
  | 0x241 => (parseHwait w).map .hwait
  | 0x242 => (parseHtest w).map .htest
  | 0x243 => (parseHandleA w).map .hcancel
  | 0x244 => (parseHtok w).map .htok
  | 0x245 => (parseHadopt w).map .hadopt
  | 0x246 => (parseTwoAB w).map .awinit
  | 0x247 => (parseTwoAB w).map .arrive
  | 0x248 => (parseTwoAB w).map .await
  | 0x249 => (parseHandleD w).map .nbrun
  | 0x24A => (parseTwoAB w).map .nbload
  | 0x24B => (parsePAddr w).map .stepopen
  | 0x24C => (parsePAddr w).map .stepend
  | 0x24D => (parseHandleD w).map .coll
  | _ => none

/-- Opcodes 0x280 to 0x2FF of the one-word formats (R69). -/
def decodeTB (op w : Nat) : Option Instr :=
  match op with
  | 0x280 => (parseGang w).map .gang
  | 0x282 => (parseAccz w).map .accz
  | 0x283 => (parseAcc w).map .accld
  | 0x284 => (parseAcc w).map .accst
  | 0x285 => (parseAccrd w).map .accrd
  | 0x2C0 => (parseGuard w).map .nop
  | 0x2C1 => (parseOff w).map .bra
  | 0x2C2 => (parseBrx w).map .brx
  | 0x2C3 => (parseRegA w).map .jmp
  | 0x2C4 => (parseOff w).map .call
  | 0x2C5 => (parseRegA w).map .callr
  | 0x2C6 => (parseRegBit w).map .ret
  | 0x2C7 => (parseGuard w).map .exit
  | 0x2C8 => (parseRegBit w).map .wsync
  | 0x2C9 => (parseBar w).map .bar
  | 0x2CA => (parseBar w).map .bara
  | 0x2CB => (parseBar w).map .barw
  | 0x2CC => (parseYield w).map .yield
  | 0x2CD => (parseOff w).map .sleep
  | _ => none

/-- Opcodes 0x300 to 0x3FF of the one-word formats (R69). -/
def decodeSY (op w : Nat) : Option Instr :=
  match op with
  | 0x300 => (parseTwoDA w).map .launch
  | 0x301 => (parseGuard w).map .depdone
  | 0x302 => (parseGuard w).map .ydone
  | 0x303 => (parseGuard w).map .yret
  | 0x340 => (parseOff w).map .trap
  | 0x341 => (parseOff w).map .brk
  | 0x342 => (parseTwoDA w).map .ctlrd
  | 0x343 => (parseCtlwr w).map .ctlwr
  | 0x344 => (parseThree w).map .audit
  | 0x345 => (parseTwoDA w).map .scrub
  | _ => none

/-- The one-word opcodes. -/
def decodeOne (op w : Nat) : Option Instr :=
  if op < 0x080 then decodeI op w
  else if op < 0x100 then decodeF op w
  else if op < 0x180 then decodeMX op w
  else if op < 0x200 then decodeL op w
  else if op < 0x280 then decodeOA op w
  else if op < 0x300 then decodeTB op w
  else decodeSY op w

/-- The two-word opcodes. -/
def decodeTwo (op w w2 : Nat) : Option Instr :=
  match op with
  | 0x026 => (parseMovw w w2).map .movw
  | 0x091 => (parseExpr w w2).map .expr
  | 0x240 => (parseCopy w w2).map .copy
  | 0x281 => (parseMma w w2).map .mma
  | _ => none

/-- The last check of a parsed instruction: well formed, and the word holds nothing else (R49). -/
def accept (why : IllegalReason) (e : Enc) : Option Instr → Except IllegalReason Instr
  | none => .error why
  | some i => if i.wellFormed && encode i == e then .ok i else .error why

/-- A lead word that has passed the frame and opcode checks: its continuation must be fetched next (R77). -/
def wantsContinuation (w : Nat) : Bool := bits w 62 2 == 2 && isTwoWord (bits w 52 10)

/-- The encoding checks of R77, in its order; `w2` is the next word where one was fetched. -/
def decodeCore (w : Nat) (w2 : Option Nat) : Except IllegalReason Instr :=
  let f := bits w 62 2
  let op := bits w 52 10
  if f = 3 then .error .strayContinuation
  else if f = 1 then accept .pairRule (.one w) (parsePair w)
  else if !assigned op then .error .unassigned
  else if f = 2 && !isTwoWord op then .error .notTwoWord
  else if f = 0 && isTwoWord op then .error .needsLead
  else if f = 2 then
    match w2 with
    | none => .error .noContinuation
    | some x =>
      if bits x 62 2 = 3 then accept (if op = 0x091 then .expression else .field) (.two w x) (decodeTwo op w x)
      else .error .noContinuation
  else accept .field (.one w) (decodeOne op w)

/-- Near-bank opcodes and layouts (R368, R369). -/
def parseNb (w : Nat) : Option Instr :=
  match bits w 26 6 with
  | 0x00 => some .nnop
  | 0x01 => some (.nopen (fin4 (bits w 24 2)))
  | 0x02 => some .nclose
  | 0x03 => some (.nrd (fin8 (bits w 23 3)))
  | 0x04 => some (.nwr (fin8 (bits w 20 3)))
  | 0x05 => some (.nadd (fin8 (bits w 23 3)) (fin8 (bits w 20 3)) (fin8 (bits w 17 3)))
  | 0x06 => some (.nsub (fin8 (bits w 23 3)) (fin8 (bits w 20 3)) (fin8 (bits w 17 3)))
  | 0x07 => some (.nmul (fin8 (bits w 23 3)) (fin8 (bits w 20 3)) (fin8 (bits w 17 3)))
  | 0x08 => some (.nfma (fin8 (bits w 23 3)) (fin8 (bits w 20 3)) (fin8 (bits w 17 3)))
  | 0x09 => some (.naxpy (fin8 (bits w 23 3)) (fin8 (bits w 20 3)) (fin16 (bits w 13 4)))
  | 0x0A => some (.nscale (fin8 (bits w 23 3)) (fin8 (bits w 20 3)) (fin16 (bits w 13 4)))
  | 0x0B => some (.nmax (fin8 (bits w 23 3)) (fin8 (bits w 20 3)) (fin8 (bits w 17 3)))
  | 0x0C => some (.nmin (fin8 (bits w 23 3)) (fin8 (bits w 20 3)) (fin8 (bits w 17 3)))
  | 0x0D => some (.nrsq (fin8 (bits w 23 3)) (fin8 (bits w 20 3)))
  | 0x0E => some (.nchk (fin8 (bits w 20 3)))
  | 0x0F => some (.nmovb (fin8 (bits w 23 3)) (fin8 (bits w 20 3)))
  | 0x10 => some (.nset (fin16 (bits w 22 4)) (BitVec.ofNat 16 w))
  | 0x11 => some (.nseth (fin16 (bits w 22 4)) (BitVec.ofNat 16 w))
  | 0x12 => some (.naddi (fin16 (bits w 22 4)) (BitVec.ofNat 16 w))
  | 0x13 => some (.nloop (fin16 (bits w 22 4)) (BitVec.ofNat 8 w))
  | 0x14 => some (.nbra (BitVec.ofNat 8 w))
  | 0x15 => some (.nbrz (fin16 (bits w 22 4)) (BitVec.ofNat 8 w))
  | 0x16 => some .npoint
  | 0x17 => some .ndone
  | 0x18 => some (.nlds (fin16 (bits w 22 4)) (BitVec.ofNat 16 w))
  | 0x19 => some (.nopens (fin4 (bits w 24 2)))
  | _ => none

/-- A near-bank word: an unassigned opcode or a nonzero reserved field is refused (R76). -/
def decodeNb (w : Nat) : Except IllegalReason Instr :=
  match parseNb w with
  | none => .error .unassigned
  | some i => if encode i == .nb w then .ok i else .error .field

/-! ### Bytes -/

/-- The little-endian value of bytes (R8, R41). -/
def leNat : List Byte → Nat
  | [] => 0
  | b :: bs => b.toNat + 256 * leNat bs

/-- The `k` low bytes of a number, lowest first. -/
def leBytes : Nat → Nat → List Byte
  | 0, _ => []
  | k + 1, n => BitVec.ofNat 8 n :: leBytes k (n / 256)

/-- A core instruction at the head of a byte stream, with its length in bytes. Too few bytes are no instruction. -/
def decodeBytes (bs : List Byte) : Except IllegalReason (Instr × Nat) :=
  if bs.length < 8 then .error .unassigned
  else
    let w := leNat (bs.take 8)
    let w2 := if bs.length < 16 then none else some (leNat ((bs.drop 8).take 8))
    match decodeCore w w2 with
    | .error r => .error r
    | .ok i => .ok (i, if wantsContinuation w then 16 else 8)

/-- A near-bank instruction from its four bytes. -/
def decodeNbBytes (bs : List Byte) : Except IllegalReason Instr := decodeNb (leNat (bs.take 4))

/-- The instruction that the opcode table's bit numbering gives: near-bank rows are 32 bits wide, core rows 64 or
128. Core words are eight bytes each, the first at the lowest address. -/
def decodeTableWord (nbits w : Nat) : Option Instr :=
  if nbits ≤ 32 then
    match decodeNbBytes (leBytes 4 w) with
    | .ok i => some i
    | .error _ => none
  else
    match decodeBytes (leBytes 16 w) with
    | .ok (i, _) => some i
    | .error _ => none

end Sys2Proof
end

