-- ==== Sys2Proof/Machine/State.lean ====
section
/-! DEFINITION. The state of the machine: everything the manual gives it, as plain data, and `State.reset`, the device at
power-on before bring-up (R398). The model's own fields are `agenda`, `deferred`, `received`, `waiting`, `steps`, `issuer` and `focus`
(logs 1 and 2). -/

namespace Sys2Proof.Machine

/-- Why the machine cannot step. Neither is a fault of the manual: those are latched in a launch (R80). -/
inductive Fault where
  /-- Raised by a core instruction's or microinstruction's meaning when no warp or stall issues it: only an agenda that names
  it as an event does. Safe: the manual gives it no effect there (log 7). -/
  | noIssuer
  /-- Raised by `step` when the module has no power (R401, R12). Safe: the manual gives no effect before power-on
  (log 7). -/
  | unpowered
  deriving DecidableEq, Repr

/-- Why the model gives no meaning. -/
inductive Refusal where
  /-- Raised by an arm of `exec` whose instruction has no meaning yet. Safe: nothing is claimed of it. -/
  | notModelled (mnemonic : String)
  deriving DecidableEq, Repr

/-! ### Warps -/

/-- The fault codes of R80. -/
inductive Code where
  | illegalInstr | misaligned | address | protection | ownership | backingExhausted | jtableBound | stackUnderflow
  | stackOverflow | gangBroken | gangMismatch | handleInvalid | transformFailed | poison | engineReset | watchdog
  | userTrap | agentLost | dependencyFailed | nbProgram | txNesting
  deriving DecidableEq, Repr

/-- What a completion record reports of a fault (R80, R288). A fault attributed to the launch has zero lane, warp, PC
and address. -/
structure FaultInfo where
  code : Code
  lane : Nat := 0
  warp : Nat := 0
  group : Nat := 0
  pc : Nat := 0
  addr : Nat := 0
  ucode : Word := 0
  deriving DecidableEq, Repr

/-- State that a chunk logs in the undo buffer at its first write (R174, R193), and that soft errors strike (R351). -/
inductive Item where
  | v (r : Nat)
  | s (r : Nat)
  | p (r : Nat)
  | flags
  | gang
  | h (n : Nat)
  | ret (n : Nat)
  | lanes
  | spad (word : Nat)
  deriving DecidableEq, Repr

/-- Lane states of R248. -/
inductive LaneSt where
  | ready | waiting | exited
  deriving DecidableEq, Repr

/-- A return-stack entry (R40). -/
structure RetEntry where
  addr : Nat
  mask : LaneMask
  deriving DecidableEq, Repr

/-- A handle register: the operation record it names, and whether this warp cancelled it (R241, R243). -/
structure HReg where
  num : Nat
  cancelled : Bool := false
  deriving DecidableEq, Repr

/-- What the lanes of an issue wait for (R254). SETTLE, DEPDONE and YDONE wait for operations, and for the records of MMAs
that still wait at a rendezvous. -/
inductive WaitKind where
  | wsync (mask : LaneMask)
  | txend
  | barArrive (lv : Level) (id : Nat) (cnt : Option Nat) (phase : Nat) (thenWait : Bool)
  | barWait (lv : Level) (id : Nat) (phase : Nat)
  | settle (ops recs : List Nat)
  | beat (tick : Nat)
  | word (addr : Loc) (gen : Nat)
  | handle (reg : HReg) (h : Nat) (pd : Option Nat) (test : Bool)
  | sleep (deadline : Nat) (rounds : Bool)
  | depdone (ops recs : List Nat)
  | ydone (ops recs : List Nat)
  | stepend (region : Nat) (flag : Word) (pd : Nat)
  | scrub (ctx : CtxKey) (d : Nat)
  | brk
  deriving DecidableEq, Repr

/-- Lanes that wait at one issue: the lanes of the issue, those whose guard was true, and the words' addresses. -/
structure Wait where
  lanes : LaneMask
  active : LaneMask
  pc : Nat
  next : Nat
  kind : WaitKind
  deriving DecidableEq, Repr

/-- One issue of the first entering lane of a transaction (R232): its address, the uniform registers before and after it,
what a once-per-issue instruction wrote to a predicate or a v register, and the address it left the lane at. -/
structure TxStep where
  pc : Nat
  before : List Word
  after : List Word
  pred : Bool
  value : Word
  target : Nat
  /-- Whether its guard was true in the first lane: only then has it a result that other lanes share. -/
  active : Bool := true
  deriving DecidableEq, Repr

/-- What issues take of a chunk's budget: items logged, and memory words read and written (R193, R230, R414). -/
structure Cost where
  items : List Item := []
  reads : List Loc := []
  writes : List Loc := []
  deriving DecidableEq, Repr

/-- What an issue of a lane counts as in the sequence of R249: a backward branch taken, a YIELD.ROT, or neither (R251). -/
inductive TxTurn where
  | plain | back | rot
  deriving DecidableEq, Repr

/-- What stops a lane of a transaction: an abort's cause and code (R230), or a fault. -/
inductive TxStop where
  | abort (cause code : Nat)
  | fault (f : FaultInfo)
  deriving DecidableEq, Repr

/-- One issue of a lane of a transaction: its address and kind, the lanes that a WSYNC made it wait for, the clock it read,
its depth after it, what stopped it there, and what it took of the chunk's budget (R229, R230, R249, R264). -/
structure TxMark where
  pc : Nat
  turn : TxTurn
  meets : Option LaneMask
  clock : Option Nat
  depth : Nat
  stop : Option TxStop
  cost : Cost := {}
  deriving DecidableEq, Repr

/-- A lane in an open transaction: whether it entered, its depth, its issues in order, whether they are those of the first
lane so far, whether it waits at a TXEND with depth 0, and whether an abort or a fault has stopped it. -/
structure TxLane where
  lane : Nat
  entered : Bool
  depth : Nat
  trace : List TxMark
  shared : Bool
  done : Bool
  stopped : Bool
  deriving DecidableEq, Repr

/-- A lane that waits at a WSYNC: the address and the lanes named there (R264). -/
structure TxMeet where
  lane : Nat
  pc : Nat
  mask : LaneMask
  deriving DecidableEq, Repr

/-- An open transaction (R229): fallback address, lanes, the lanes that entered at its TXBEGIN, the first entering lane and
its issues, the uniform registers at the end of the last lane that finished, and the clock values that the sequence of R249
gives for the issues that read one: lane, issue, value (R232), with those that earlier passes used, what the TXBEGIN took of
the budget, the lanes that waited at WSYNCs when it began (R264), and how far a lane runs before the next one does. -/
structure Tx where
  fallback : Nat
  lanes : List TxLane
  initial : LaneMask
  first : Nat
  lead : List TxStep
  sEnd : List Word
  clocks : List ((Nat × Nat) × Nat)
  tried : List (List ((Nat × Nat) × Nat)) := []
  cost : Cost := {}
  early : List TxMeet := []
  cap : Nat := 4096
  deriving DecidableEq, Repr

/-- The yield record of R292. -/
structure YieldRec where
  pc : List Nat
  st : List LaneSt
  waits : List Wait
  rstack : List RetEntry
  fairF : Nat
  fairC : Nat
  fairNext : Option Nat
  deriving DecidableEq, Repr

/-- The part of a warp that a squash restores: registers (R31), lane states (R248), fairness (R251), the return stack
(R40) and what goes with them. -/
structure Arch where
  v : List (List Word)
  s : List Word
  p : List LaneMask
  h : List (Option HReg)
  flags : Word
  gang : Word
  rstack : List RetEntry
  pc : List Nat
  st : List LaneSt
  waits : List Wait
  fairF : Nat
  fairC : Nat
  fairNext : Option Nat
  retired : Nat
  /-- Operations that name a handle issued by the warp so far, and records whose flags it has merged (R101, R241). -/
  opCount : Nat
  merged : List Nat
  txCause : Word
  tx : Option Tx
  /-- Poisoned state by lane; lane 32 stands for state of the whole warp (R351). -/
  poison : List (Item × Nat)
  yrec : Option YieldRec
  deriving DecidableEq, Repr

/-- The access that an instruction or an operation makes. -/
inductive Access where
  | read | write | exec
  deriving DecidableEq, Repr

/-- A RED element waiting for its application (R182, R222). -/
structure RedOp where
  locs : List Loc
  va : Nat
  op : Aop
  ty : Aty
  value : DWord
  lane : Nat
  pc : Nat
  deriving DecidableEq, Repr

/-- A COPY, or one Barrow binding (R233, R286): operands as values. -/
structure CopyOp where
  xf : Nat
  src : Nat
  dst : Nat
  rows : Nat
  rowBytes : Nat
  outLen : Nat
  srcPitch : Nat
  dstPitch : Nat
  srcSpad : Bool
  dstSpad : Bool
  col : Bool
  replica : Option Nat
  aw : Option Nat
  deriving DecidableEq, Repr

/-- What a tile operation does (R148): `vals` are the operand values of R154. -/
inductive TileKind where
  | mma (a : MmaArgs)
  | accz (a : AcczArgs) (tile : Nat)
  | accld (a : AccArgs)
  | accst (a : AccArgs)
  deriving DecidableEq, Repr

structure TileOp where
  kind : TileKind
  vals : List Word
  mask : Word
  /-- K-steps applied; saved and restored over a pre-emption (R171). -/
  step : Nat
  /-- The multiplicand snapshot of R152, converted to FA; the default tags as of the issue point (R157); replays of the
  current K-step (R167). -/
  snap : List Nat
  tags : List Nat
  replays : Nat
  flags : BitVec 5
  deriving DecidableEq, Repr

/-- A COLL's descriptor (R383). -/
structure CollOp where
  op : Nat
  isInt : Bool
  flagIn : Bool
  count : Nat
  src : Nat
  dst : Nat
  result : Nat
  peers : DWord
  tag : Word
  deriving DecidableEq, Repr

/-- A near-bank run's descriptor (R372). -/
structure RunDesc where
  at_ : Nat
  entry : Nat
  streams : Nat
  wmask : Nat
  rows : Nat
  bases : List Nat
  args : List Word
  deriving DecidableEq, Repr

/-- What a chunk releases at its commit (R174), in program order. -/
inductive Release where
  | red (r : RedOp)
  | copy (c : CopyOp) (hrec : Nat) (pc : Nat) (lane : Nat)
  | tile (t : TileOp) (hrec : Option Nat) (pc : Nat) (lane : Nat)
  | run (d : RunDesc) (hrec : Nat) (pc : Nat) (lane : Nat)
  | coll (c : CollOp) (hrec : Nat) (pc : Nat) (lane : Nat)
  | notify (q : QueueKey) (n : Nat)
  | cancel (h : Nat) (hrec : Nat)
  | flush (line : Loc)
  | sweep (region : Nat)
  | nbload (off : Nat) (words : List (Word × Bool))
  | token (hrec : Nat) (tok : Word)
  | adopt (hrec : Nat) (tok : Word)
  deriving DecidableEq, Repr

/-- A pre-grant (R178): not needed, asked for, or held. -/
inductive Pregrant where
  | none | waiting | held
  deriving DecidableEq, Repr

/-- A warp's running chunk (R172, R173, R174). -/
structure Chunk where
  /-- The warp as the chunk began, and the issues counted at that point. -/
  start : Arch
  base : Nat
  count : Nat
  /-- The chunk has ended and asks to commit. -/
  ended : Bool
  /-- Bytes written, in no order; read bits by 4-byte word; page states read; pages reset (R219, R220). -/
  writes : List (Loc × Byte)
  /-- Writes and releases that an irrevocable issue left to the chunk: a squash keeps them, since the issue is not redone
  (log 20). -/
  kept : List (Loc × Byte)
  keptQueued : List Release
  keptFirst : List (Loc × Nat × Nat) := []
  reads : List Loc
  pageReads : List Loc
  resets : List Loc
  logged : List Item
  queued : List Release
  /-- Translation entries used: page numbers (R326). -/
  pages : List Nat
  /-- Lanes that exit at the commit (R255), and a BRK that halts the context (R348). -/
  exiting : LaneMask
  halt : Option (Nat × Word)
  /-- Squashes by conflict, budget squashes of R194, and soft-error squashes in a row (R354). -/
  conflicts : Nat
  budget : Nat
  soft : Nat
  pregrant : Pregrant
  /-- The first store of a byte other than the default to each page: page, PC, lane (R80, code 0x06). -/
  firstStore : List (Loc × Nat × Nat)
  /-- Lines that a store with the bypass hint has written (R209), and what the issue in progress has taken of the budget. -/
  bypass : List Loc := []
  touched : Cost := {}
  /-- Cycle at which the ended chunk found no backing (R217). -/
  poolSince : Option Nat
  deriving DecidableEq, Repr

structure Warp where
  arch : Arch
  chunk : Chunk
  /-- Commit sequence number of the last committed chunk (R39, R176). -/
  seq : Nat
  /-- The warp is due to enter its yield handler, or has completed YDONE (R292, R303); it runs the handler while it holds a
  yield record. -/
  handlerDue : Bool
  ydone : Bool
  depArrived : Bool
  /-- A fault raised in reproducible mode, taken at the warp's turn (R344). -/
  fault : Option FaultInfo
  /-- Round at which a squashed or waiting turn last passed: the turn's chunk is done in this round (R191). -/
  turnDone : Bool
  deriving DecidableEq, Repr

/-! ### Groups and launches -/

/-- An accumulator tile: 256 ACC96 elements in row order, the last MMA's step count, and whether an MMA is running on it
(R146, R165, R170), and poison (R351). -/
structure Tile where
  acc : List (BitVec 96)
  steps : Nat
  running : Bool
  poison : Bool
  deriving DecidableEq, Repr

/-- An arrival at a gang rendezvous: warp, words as the MMA's operands, values, its handle record, PC and lane (R154), and
the heartbeat at its release (R190). -/
structure Arrival where
  warp : Nat
  mma : MmaArgs
  vals : List Word
  hrec : Nat
  pc : Nat
  lane : Nat
  beat : Nat
  deriving DecidableEq, Repr

structure Rendezvous where
  mask : Word
  arrivals : List Arrival
  deriving DecidableEq, Repr

/-- A barrier (R266): phase count, arrived members, and the smallest count given in the phase. -/
structure Barrier where
  phase : Nat
  arrived : List Nat
  least : Option Nat
  deriving DecidableEq, Repr

/-- Barrow fill of a group (R287). -/
inductive Fill where
  | pending | done
  deriving DecidableEq, Repr

/-- A dispatched group (R277). -/
structure Group where
  index : Nat
  /-- Physical core, and the logical numbers of its first dispatch (R290). -/
  core : Nat
  coreId : Nat
  quadId : Nat
  tierId : Nat
  /-- Resident on its core, or saved (R293). -/
  resident : Bool
  warps : List Warp
  /-- Scratchpad portion, in canonical form, and the default tags by 256-byte unit (R157, R208). -/
  spad : List Host.Cell
  tags : List Nat
  tiles : List Tile
  /-- Engine that takes the even tiles (R146). -/
  evenEngine : Nat
  bars : List Barrier
  gangs : List Rendezvous
  fill : Fill
  /-- Pages that the bindings of a fill in progress have pinned (R287, R327). -/
  pins : List Loc
  /-- The group's completion bit is set (R279, R302). -/
  bitSet : Bool
  /-- The core's scratchpad split as its own context and launch give it (R17, R4). -/
  split : Nat := 0
  deriving DecidableEq, Repr

/-- A dependence entry (R282). -/
structure Dep where
  dist : Nat
  width : Nat
  mult : Nat
  offs : Int
  deriving DecidableEq, Repr

/-- A transform binding of the Barrow (R286). -/
structure Bind where
  src : Nat
  stride : Nat
  dst : Nat
  size : Nat
  xf : Nat
  outLen : Nat
  repOff : Int
  deriving DecidableEq, Repr

/-- The launch record's fields (R273). -/
structure LaunchRec where
  type : Nat := 0
  span : Nat := 0
  prio : Nat := 0
  repro : Bool := false
  exact : Bool := false
  nxb : Nat := 0
  /-- Warps per group and vector registers per lane as numbers, not as their encoded fields. -/
  warps : Nat := 1
  regs : Nat := 16
  tiles : Nat := 0
  spad : Nat := 0
  bars : Nat := 0
  kernel : Nat := 0
  gx : Nat := 1
  gy : Nat := 1
  gz : Nat := 1
  chlen : Nat := 4096
  window : Nat := 1
  args : Nat := 0
  xbind : Nat := 0
  yield : Nat := 0
  save : Nat := 0
  compl : Nat := 0
  deps : List Dep := []
  saveLen : Nat := 0
  deriving DecidableEq, Repr

/-- States of an operation record (R241). -/
inductive HState where
  | pending | done | failed | cancelled
  deriving DecidableEq, Repr

/-- An operation record: state, whether a wait on it is external, flags to merge, outstanding tokens, and every token given
for it (R101, R241, R242), and for an MMA with a record the warps of its gang, as group and warp: the flags are theirs (R101).
Its number tells the warp and the operation's place in the warp's program. -/
structure HRec where
  num : Nat
  state : HState
  external : Bool
  flags : BitVec 5
  tokens : List Word
  named : List Word
  gang : List (Nat × Nat) := []
  deriving DecidableEq, Repr

/-- An admitted launch (R276). `num` is the model's name for it, in admission order. -/
structure Launch where
  num : Nat
  ctx : CtxKey
  queue : QueueKey
  pos : Nat
  id : Word
  fields : LaunchRec
  args : List Word
  /-- The binding table and a near-bank launch's descriptor, read with the record at the admission (R286, R380). -/
  binds : List Bind
  desc : Option RunDesc
  live : Bool
  debug : Bool
  /-- Groups dispatched and not yet completed. -/
  groups : List Group
  /-- Completion bits set, as a number whose bit g stands for group g (R280). -/
  bitmap : Nat
  fault : Option FaultInfo
  /-- In reproducible mode, a fault attributed to the launch, taken at the end of the round (R344). -/
  endFault : Option FaultInfo
  saveInvalid : Bool
  seq : Nat
  flags : BitVec 5
  squash : Nat
  corr : Nat
  preempt : Nat
  recs : List HRec
  /-- Quad barriers by (quad placement, id), tier barriers and package barriers (R22). -/
  quadBars : List ((Nat × Nat) × Barrier)
  tierBars : List (Nat × Barrier)
  pkgBars : List Barrier
  /-- Where the launch holds barrier networks: the quad of each quad placement, or under 0 the tier of a tier-span launch,
  from the placement of the first group (R22). -/
  homes : List (Nat × Nat)
  /-- Packages that the launch's collectives include: members of its package barriers (R22, R266). -/
  peers : DWord
  /-- The save block as the device wrote it at the last pre-emption: address and bytes (R295, R297). -/
  saved : Option (Nat × List Byte)
  /-- For a firmware launch, the partition whose request it serves (R315; log 12). -/
  serves : Option Nat := none
  deriving DecidableEq, Repr

/-! ### Operations in flight -/

inductive OpKind where
  | red (r : RedOp)
  | copy (c : CopyOp)
  | tile (t : TileOp)
  | run
  | coll (c : CollOp)
  deriving DecidableEq, Repr

/-- A released operation (R174, R183). `recs` are (warp, record) pairs of the handles that name it; operations are listed
in the order of their issue points. -/
structure Op where
  num : Nat
  launch : Nat
  group : Nat
  warp : Nat
  kind : OpKind
  recs : List (Nat × Nat)
  pc : Nat
  lane : Nat
  /-- Commit round of the issue point and publish round in reproducible mode (R192). -/
  publishRound : Option Nat
  /-- Heartbeat at the release (R190), and commit sequence number of the issue point (R170). -/
  beat : Nat
  seq : Nat
  /-- Source ranges, which commits must not change before the publish (R183, R156), and destination ranges. -/
  sources : List (Loc × Nat)
  dests : List (Loc × Nat)
  /-- A COLL's source bytes as of its issue point (R384). -/
  data : List Byte
  /-- Pages pinned once the operation has started (R236, R327). -/
  pins : List Loc
  /-- The shadow: destination bytes, default tags to set, arrival credit; none until the engine has started (R236). -/
  shadow : Option (List (Loc × Byte))
  setTags : List Nat
  credit : Nat
  /-- Source pages that were unbacked with a default of zero at the issue point (R239). -/
  zeros : List Loc := []
  failed : Bool
  /-- A tile operation that its engine has completed and that has still to publish (R192, R156). -/
  finished : Bool
  poolSince : Option Nat
  /-- In reproducible mode, a fault of the operation, taken in its publish round (R192, R344). -/
  stop : Option FaultInfo := none
  deriving DecidableEq, Repr

/-- A matrix engine (R148, R168). -/
structure Engine where
  id : EngineId
  queue : List Nat
  running : Bool
  /-- Cycle of the last progress, whether the engine is being reset, and whether a residue mismatch that three replays did
  not clear is the reason (R167, R354). -/
  since : Nat
  reset : Bool
  mismatched : Bool
  deriving DecidableEq, Repr

/-- An open row at a stall: stream, shadow version, and the value written while open (R366, R376). -/
structure OpenRow where
  stream : Nat
  shadow : Bool
  written : Option (List Word)
  deriving DecidableEq, Repr

inductive StallPhase where
  | waiting | running | suspended | done
  deriving DecidableEq, Repr

/-- A stall's part of a run (R366). -/
structure StallRun where
  stall : Nat
  rows : List Nat
  /-- Rows before the cursor. -/
  passed : Nat
  upc : Nat
  b : List (List Word)
  n : List Word
  open_ : Option OpenRow
  phase : StallPhase
  poolSince : Option Nat
  deriving DecidableEq, Repr

/-- A released near-bank run, or the run of a near-bank launch record (R374, R380). -/
structure Run where
  num : Nat
  part : Nat
  ctx : CtxKey
  /-- The operation that released it, or none for a launch record. -/
  op : Option Nat
  launch : Nat
  desc : RunDesc
  pinned : Bool
  /-- Rows of each stream as locations, once pinned (R374). -/
  locs : List (List Loc)
  stalls : List StallRun
  nf : Bool
  flags : BitVec 5
  deriving DecidableEq, Repr

/-! ### Translation, isolation and the outside -/

/-- A TLB entry of a core (its number) or a quad: page, what it maps to, rights, and the ownership outcome (R323). -/
structure TlbEntry where
  quad : Bool
  unit : Nat
  ctx : CtxKey
  page : Nat
  entry : DWord
  owned : Bool
  deriving DecidableEq, Repr

/-- The fields of a reverse ownership entry (R324). -/
structure RotEntry where
  scrb : Bool
  px : Bool
  hx : Bool
  ctx : Nat
  cls : Nat
  part : Nat
  deriving DecidableEq, Repr

/-- A region (R214, R381). `backed` maps page numbers within the region to pool pages; for a region with fixed pages the
page itself stands there. `cur`, `open_`, `fail` and `written` belong to a versioned region. -/
structure Region where
  ctx : Nat
  base : Nat
  pages : Nat
  es : Nat
  trans : Bool
  vers : Bool
  ext : Bool
  fwin : Option Nat
  default : DWord
  fpa : Nat
  voff : Nat
  backed : List (Nat × Nat)
  cur : Bool
  open_ : Bool
  fail : Bool
  written : List Nat
  deriving DecidableEq, Repr

/-- A notification (R350). -/
structure Notification where
  kind : Nat
  ctx : Nat
  beat : Nat
  data0 : DWord
  data1 : DWord
  deriving DecidableEq, Repr

/-- A partition (R311, R316). -/
structure Partition where
  exists_ : Bool
  key : Bool
  quads : BitVec 384
  slices : BitVec 1536
  chans : BitVec 768
  meng : BitVec 3072
  ceng : BitVec 1536
  stalls : BitVec 8
  fwins : BitVec 16
  hosts : List (Nat × Nat)
  share : DWord
  regions : List (Nat × Region)
  pool : List Nat
  poolWait : Nat
  slice : Nat
  extWait : Nat
  /-- Mailbox: the last tag answered and its status (R316), and the notifications posted, newest first (R350). -/
  tag : Word
  status : Nat
  ncount : Nat
  ring : List Notification
  /-- The pre-grant's holder and those that wait for it, first come first (R178). -/
  pregrant : Option WarpId
  pregrantQueue : List WarpId
  /-- The quads that have logical numbers, in their order (R19). -/
  numbered : List Nat
  /-- The slices that it owned as it was created: they fix the mapping of lines to slices while it stands (R24). -/
  mapped : BitVec 1536 := 0
  /-- The step at which the last mailbox request came, and while it is served and must wait, its tag and the pages that its
  arguments name (R315, R316, R325). -/
  heard : Nat
  serving : Option (Word × List Nat)
  deriving DecidableEq, Repr

/-- A format window's registers (R110). -/
structure FWin where
  base : Nat
  limit : Nat
  scale : Nat
  malf : Word
  part : Nat
  fmt : Nat
  en : Bool
  deriving DecidableEq, Repr

/-- Where a context stands in a pre-emption (R292, R348). -/
inductive CtxPhase where
  | running | yielding | saved | halting | halted
  deriving DecidableEq, Repr

structure Context where
  key : CtxKey
  repro : Bool
  exact : Bool
  debug : Bool
  root : Nat
  /-- Completed commit rounds (R189, R191). -/
  rounds : Nat
  phase : CtxPhase
  /-- Cycle at which the pre-emption began (R292), and cycles counted by the no-commit watchdog (R298). -/
  since : Nat
  watch : Nat
  /-- External-wait notifications sent since the last commit (R299). -/
  extSent : Nat
  /-- Eviction schedule in force, and one to activate at the next admission: the firmware's copies, as the two words of each
  entry (R363, R365). -/
  sched : List (DWord × DWord)
  schedNext : Option (List (DWord × DWord))
  scrubbing : Bool
  /-- Tag of the CTX_RELEASE that waits for the scrub (R316). -/
  release : Option Word
  deriving DecidableEq, Repr

/-- A registered queue (R270, R272). `slot` is none while it is unmapped. -/
structure Queue where
  key : QueueKey
  ctx : CtxKey
  header : Nat
  page : Nat
  slot : Option Nat
  target : Nat
  /-- The step at which its pending notify came, for the notify order (R317). -/
  asked : Nat
  /-- The header could not be read: nothing is admitted before the next notify (R413). -/
  blocked : Bool
  deriving DecidableEq, Repr

/-- An entry of the Assize Roll (R330); its SEQ is its place in the list. -/
structure RollEntry where
  beat : Nat
  type : Nat
  src : Nat
  ctxid : Nat
  body : List Byte
  prev : List Byte
  hash : List Byte
  deriving DecidableEq, Repr

/-- Attestation state of the management port (R329). -/
structure Spdm where
  version : Bool
  caps : Bool
  algs : Bool
  session : Option Nat
  ideKey : Bool
  last : List Byte
  deriving DecidableEq, Repr

/-- MilperLink training states (R390). -/
inductive LinkState where
  | detect | align | equalise | rate | active | down
  deriving DecidableEq, Repr

/-- One direction of MilperLink: its state, the lanes found present, the width chosen, whether it has fallen to 56 GBd, and
restarts in a row (R390). -/
structure LinkDir where
  state : LinkState
  present : BitVec 32
  width : Nat
  slow : Bool
  restarts : Nat
  deriving DecidableEq, Repr

/-- What the last request from outside was answered with: nothing, data, poison (R325), or configuration retry (R399). -/
inductive Answer where
  | none
  | data (bytes : List Byte)
  | poison
  | retry
  deriving DecidableEq, Repr

/-- Half states of R187; None is an unlisted half. -/
inductive Half where
  | shared | owned
  deriving DecidableEq, Repr

/-- A committed dirty line with its owner (R177, R360). -/
structure Dirty where
  line : Loc
  core : Nat
  launch : Nat
  deriving DecidableEq, Repr

/-- A recall in progress: its bytes, and the warps whose running chunks held some of them as it came (R356, R357). -/
structure Recall where
  at_ : Loc
  size : Nat
  held : List WarpId
  deriving DecidableEq, Repr

/-! ### The machine -/

/-- What the next step does (log 2). -/
inductive Action where
  | issue (w : WarpId)
  | stall (run stall : Nat)
  | event (i : Instr)
  deriving DecidableEq, Repr

/-- The issue in progress: warp, address, and the lanes of the issue (R249). -/
structure Issue where
  wid : WarpId
  pc : Nat
  lanes : LaneMask
  deriving DecidableEq, Repr

structure State where
  powered : Bool
  /-- Cycles since DEVREADY, and the Crier (R39, R189). -/
  cycle : Nat
  beat : Nat
  /-- Device status word (R392). -/
  devready : Bool
  failed : Bool
  bringStep : Nat
  /-- What a bring-up in progress finds at its steps (R398). -/
  bringing : Option BringUp
  lwidth : Nat
  lrate : Bool
  fports : BitVec 24
  gated : Bool
  thermwarn : Bool
  hotTiers : BitVec 8
  overPower : Bool
  tripped : Bool
  forbidden : List (BitVec 8)
  roles : BitVec 8
  roleChange : Option (BitVec 8)
  lastOff : Word
  lastCause : Nat
  parts : List Partition
  adminTag : Word
  adminStatus : Nat
  adminCount : Nat
  adminRing : List Notification
  adminHeard : Nat
  fwins : List FWin
  /-- Lines of enabled windows present in L2 (R112). -/
  winLines : List Nat
  /-- Address of the reverse ownership table in device memory, none before bring-up (R324); the firmware images that the Assay
  Block has measured, as first page and number of pages (R315). -/
  rotAt : Option Nat
  images : List (Nat × Nat)
  mem : List Host.Cell
  hostMem : List Host.Cell
  /-- Peer memories: byte a of peer n at n × 2^52 + a. -/
  peerMem : List Host.Cell
  poison : List Loc
  dirty : List Dirty
  recalls : List Recall
  seq : Nat
  tlb : List TlbEntry
  contexts : List Context
  queues : List Queue
  /-- Hardware queue slots that are taken (R272). -/
  slots : List Nat
  launches : List Launch
  nextLaunch : Nat
  ops : List Op
  nextOp : Nat
  engines : List Engine
  runs : List Run
  nextRun : Nat
  /-- Microprogram store of each tier's stall group: word and start bit (R366, R371). -/
  nbStore : List (List (Word × Bool))
  /-- Core scratchpad split in bytes; 0 for an empty core (R17). -/
  splits : List (Nat × Nat)
  roll : List RollEntry
  meas : List (List Byte)
  spdm : Spdm
  /-- The Assay Block's signature of the Roll's head that the last AUDIT asked for (R330). -/
  auditSig : List Byte
  pkg : Nat
  routes : List (BitVec 24)
  xoff : List (Nat × Nat)
  /-- MilperLink toward the device and toward the host. -/
  linkIn : LinkDir
  linkOut : LinkDir
  linkRetries : Nat
  halves : List (Loc × Half)
  bridge : List Loc
  incarn : List (AgentId × BitVec 16)
  lost : List AgentId
  refusedLog : List Loc
  droppedLog : List AgentId
  /-- Answer of the last configuration, BAR, CDAT, CXL.mem or peer request. -/
  answer : Answer
  /-- Mailbox words that firmware has written, by control-space offset (R314). -/
  mail : List (Nat × DWord)
  /-- The model's own: actions to take, steps taken (it indexes the free values), and which agent the step runs. -/
  agenda : List Action
  /-- Requests from outside that must wait, in the order in which they came, and whether the one that this step runs must
  (log 2). -/
  deferred : List Instr
  /-- Notifies among them: they have reached the device, whatever becomes of the link (R271). -/
  received : List Instr
  waiting : Bool
  steps : Nat
  issuer : Option Issue
  focus : Option (Nat × Nat)
  deriving DecidableEq, Repr

/-- A partition at reset: it does not exist, and its limits are the defaults of R217, R291 and R299 in cycles.
DESIGN CHOICE: log 3. -/
def Partition.reset : Partition :=
  { exists_ := false, key := false, quads := 0, slices := 0, chans := 0, meng := 0, ceng := 0, stalls := 0, fwins := 0
    hosts := List.replicate 8 (0, 0), share := 0, regions := [], pool := []
    poolWait := 8500000, slice := 1700000, extWait := 51000000000, tag := 0, status := 0, ncount := 0, ring := []
    pregrant := none, pregrantQueue := [], numbered := [], heard := 0, serving := none }

def FWin.reset : FWin := { base := 0, limit := 0, scale := 0, malf := 0, part := 0, fmt := 0, en := false }

/-- The reset value of a reverse ownership entry (R324). -/
def RotEntry.reset : RotEntry := { scrb := true, px := false, hx := false, ctx := 0, cls := 0, part := 0 }

/-- A direction of MilperLink that has found no lane. -/
def LinkDir.reset : LinkDir := { state := .detect, present := 0, width := 0, slow := false, restarts := 0 }

def Spdm.reset : Spdm := { version := false, caps := false, algs := false, session := none, ideKey := false, last := [] }

/-- The machine at power-on or PERST, before bring-up (R398): device ready 0, tiers memory-only, no partition, no
context, memory zero. Values the manual does not give are those of log 3. -/
def State.reset : State :=
  { powered := true, cycle := 0, beat := 0, devready := false, failed := false, bringStep := 0, bringing := none, lwidth := 0
    lrate := false, fports := 0, gated := false, thermwarn := false, hotTiers := 0, overPower := false
    tripped := false, forbidden := [], roles := 0, roleChange := none, lastOff := 0, lastCause := 0
    parts := List.replicate 16 Partition.reset, adminTag := 0, adminStatus := 0, adminCount := 0, adminRing := [], adminHeard := 0
    fwins := List.replicate 16 FWin.reset, winLines := [], rotAt := none, images := []
    mem := [], hostMem := [], peerMem := [], poison := [], dirty := [], recalls := [], seq := 0, tlb := []
    contexts := [], queues := [], slots := [], launches := [], nextLaunch := 0, ops := [], nextOp := 0, engines := []
    runs := [], nextRun := 0, nbStore := List.replicate 8 (List.replicate 256 (0, false)), splits := []
    roll := [], meas := List.replicate 8 (List.replicate 48 0), spdm := Spdm.reset, auditSig := [], pkg := 0
    routes := List.replicate 64 0, xoff := [], linkIn := LinkDir.reset, linkOut := LinkDir.reset
    linkRetries := 0, halves := [], bridge := [], incarn := [], lost := [], refusedLog := [], droppedLog := []
    answer := .none, mail := [], agenda := [], deferred := [], received := [], waiting := false, steps := 0, issuer := none, focus := none }

end Sys2Proof.Machine
end

