-- ==== Sys2Proof/Machine/Bits.lean ====
section
/-! DEFINITION. Small operations on lists, lane masks, byte strings and memories: memory is a list of cells in
canonical form, addresses strictly rising and no cell zero, since an unlisted byte reads zero (R180, R398; log 4). -/

namespace Sys2Proof.Machine

/-! ### Lists -/

/-- Changes the element at a place; out of range changes nothing. -/
def updAt {α : Type} (f : α → α) (xs : List α) (n : Nat) : List α := xs.modify n f

/-- Adds an element to a list that keeps each element once. -/
def insertNew {α : Type} [DecidableEq α] (x : α) (xs : List α) : List α := if xs.contains x then xs else xs ++ [x]

/-- The numbers 0 to n - 1 in ascending order. -/
def upTo (n : Nat) : List Nat := List.range n

/-- A value stored under a key, replacing an earlier one. -/
def setKey {κ α : Type} [DecidableEq κ] (k : κ) (x : α) (l : List (κ × α)) : List (κ × α) :=
  if l.any fun e => e.1 = k then l.map fun e => if e.1 = k then (k, x) else e else l ++ [(k, x)]

/-- The value stored under a key. -/
def getKey {κ α : Type} [DecidableEq κ] (k : κ) (l : List (κ × α)) : Option α := (l.find? fun e => e.1 = k).map Prod.snd

/-- Removes a key. -/
def dropKey {κ α : Type} [DecidableEq κ] (k : κ) (l : List (κ × α)) : List (κ × α) := l.filter fun p => p.1 ≠ k

/-! ### Lane masks -/

def laneOn (m : LaneMask) (l : Nat) : Bool := m.getLsbD l

/-- The lanes of a mask in ascending order (R204). -/
def lanesOf (m : LaneMask) : List Nat := (upTo 32).filter fun l => laneOn m l

def laneBit (l : Nat) : LaneMask := BitVec.ofNat 32 (2 ^ l)

/-- The mask of the lanes that satisfy a test. -/
def maskOf (f : Nat → Bool) : LaneMask :=
  BitVec.ofNat 32 ((upTo 32).foldl (fun acc l => if f l then acc + 2 ^ l else acc) 0)

/-- Lowest lane of a mask, 0 for an empty one. -/
def lowestLane (m : LaneMask) : Nat := (lanesOf m).headD 0

/-! ### Numbers -/

/-- Two's complement value of the low `n` bits. -/
def signed (n : Nat) (x : Nat) : Int := if x % 2 ^ n < 2 ^ (n - 1) then (x % 2 ^ n : Nat) else (x % 2 ^ n : Nat) - 2 ^ n

/-- An integer modulo 2^n. -/
def wrapInt (n : Nat) (x : Int) : Nat := (x % (2 ^ n : Nat)).toNat

def alignUp (n a : Nat) : Nat := (n + a - 1) / a * a

/-- Canonical 57-bit addresses: bits 63:57 equal bit 56 (R25). -/
def canonical (a : Nat) : Bool := let t := a / 2 ^ 56; t == 0 || t == 255

/-- The canonical form of a 57-bit address, as a register holds it (R25). -/
def canonForm (a : Nat) : Nat := if a / 2 ^ 56 % 2 = 1 then a % 2 ^ 57 + (2 ^ 64 - 2 ^ 57) else a % 2 ^ 57

/-! ### Memory as cells -/

/-- One byte; an unlisted address reads zero. -/
def memGet : List Host.Cell → Nat → Byte
  | [], _ => 0
  | (k, b) :: m, a => if k = a then b else if a < k then 0 else memGet m a

/-- Writes one byte and keeps the canonical form: writing zero removes the cell. -/
def memPut : List Host.Cell → Nat → Byte → List Host.Cell
  | [], a, b => if b = 0 then [] else [(a, b)]
  | (k, c) :: m, a, b =>
    if a < k then (if b = 0 then (k, c) :: m else (a, b) :: (k, c) :: m)
    else if k = a then (if b = 0 then m else (a, b) :: m)
    else (k, c) :: memPut m a b

/-- Cells above an address, strictly rising and nonzero. -/
def memFrom : Nat → List Host.Cell → Bool
  | _, [] => true
  | lo, (k, b) :: m => decide (lo ≤ k) && b != 0 && memFrom (k + 1) m

/-- The canonical form of a memory. -/
def memWf (m : List Host.Cell) : Bool := memFrom 0 m

/-- Consecutive bytes from an address. -/
def memBytes (m : List Host.Cell) (a n : Nat) : List Byte := (upTo n).map fun i => memGet m (a + i)

/-- Writes bytes from an address upwards. -/
def memPutBytes : List Host.Cell → Nat → List Byte → List Host.Cell
  | m, _, [] => m
  | m, a, b :: bs => memPutBytes (memPut m a b) (a + 1) bs

/-- Every byte of a range becomes zero. -/
def memZero (m : List Host.Cell) (a n : Nat) : List Host.Cell := m.filter fun c => decide (c.1 < a) || decide (a + n ≤ c.1)

end Sys2Proof.Machine
end

