-- ==== Sys2Proof/Machine/Operands.lean ====
section
/-! DEFINITION. Reading and writing a warp's registers, predicates and operands (R31 to R36), the elements of the operand
types (R51), operand modifiers (R52), and guards (R48). -/

namespace Sys2Proof

/-- The register `k` places above, for pairs and quads (R33). -/
def Reg.nth (r : Reg) (k : Nat) : Reg := regOf (r.code + k)

end Sys2Proof

namespace Sys2Proof.Machine

/-- Registers that a fresh warp holds (R31): `regs` vector registers of zeros. -/
def freshV (regs : Nat) : List (List Word) := List.replicate regs (List.replicate 32 0)

/-! ### Registers -/

/-- One 32-bit register as lane `l` sees it; an s register is the same for every lane. -/
def Arch.reg (a : Arch) (r : Reg) (l : Nat) : Word :=
  match r with
  | .v n => (a.v.getD n.val []).getD l 0
  | .s n => a.s.getD n.val 0

def Arch.setReg (a : Arch) (r : Reg) (l : Nat) (x : Word) : Arch :=
  match r with
  | .v n => { a with v := updAt (fun row => row.set l x) a.v n.val }
  | .s n => { a with s := a.s.set n.val x }

/-- An operand of `w` registers, the named one lowest (R33). -/
def Arch.val (a : Arch) (r : Reg) (l : Nat) : Nat → Nat
  | 0 => 0
  | w + 1 => (a.reg r l).toNat + 2 ^ 32 * a.val (r.nth 1) l w

def Arch.setVal (a : Arch) (r : Reg) (l : Nat) : Nat → Nat → Arch
  | 0, _ => a
  | w + 1, x => (a.setReg r l (BitVec.ofNat 32 x)).setVal (r.nth 1) l w (x / 2 ^ 32)

/-- The register operand of every lane of a mask receives a value of that lane; a uniform destination receives the value
of the lowest lane, once (R35). -/
def Arch.setLanes (a : Arch) (r : Reg) (w : Nat) (m : LaneMask) (f : Nat → Nat) : Arch :=
  if r.isS then a.setVal r 0 w (f (lowestLane m))
  else (lanesOf m).foldl (fun x l => x.setVal r l w (f l)) a

/-- Undo-log items of an operand (R193). -/
def regItems (r : Reg) (w : Nat) : List Item :=
  (upTo w).map fun k => match r.nth k with
    | .v n => .v n.val
    | .s n => .s n.val

/-- R34: every vector register that the operand occupies lies below the launch's count. -/
def regWithin (n : Nat) (r : Reg) (w : Nat) : Bool := w == 0 || r.isS || decide (r.num + w ≤ n)

/-! ### Predicates and guards -/

/-- A predicate of a lane; p7 is true (R31). -/
def Arch.pred (a : Arch) (p : Nat) (l : Nat) : Bool := if p ≥ 7 then true else laneOn (a.p.getD p 0) l

def Arch.psrc (a : Arch) (p : PSrc) (l : Nat) : Bool := xor (a.pred p.p.val l) p.neg

/-- A predicate destination takes its value in the lanes of a mask and keeps the others (R116). -/
def Arch.setPred (a : Arch) (p : Nat) (m : LaneMask) (f : Nat → Bool) : Arch :=
  { a with p := updAt (fun old => (old &&& ~~~m) ||| (maskOf f &&& m)) a.p p }

/-- The active lanes of an issue (R48). -/
def Arch.active (a : Arch) (lanes : LaneMask) (g : Guard) : LaneMask :=
  lanes &&& maskOf fun l => xor (a.pred g.p.val l) g.neg

/-! ### Elements and modifiers -/

/-- The elements of an operand value, element 0 lowest (R51). -/
def elemsOf (t : Ty) (x : Nat) : List Nat := (upTo t.count).map fun k => bits x (k * t.bits) t.bits

def joinElems (t : Ty) (xs : List Nat) : Nat :=
  xs.zipIdx.foldl (fun acc p => acc + p.1 % 2 ^ t.bits * 2 ^ (p.2 * t.bits)) 0

/-- Absolute value of an element (R52): the sign bit cleared, or two's complement. -/
def absElem (t : Ty) (x : Nat) : Nat :=
  if t.isFloat then x % 2 ^ (t.bits - 1)
  else if x < 2 ^ (t.bits - 1) then x else (2 ^ t.bits - x) % 2 ^ t.bits

/-- Negation of an element (R52): the sign bit inverted, or two's complement, wrapping. -/
def negElem (t : Ty) (x : Nat) : Nat :=
  if t.isFloat then (x + 2 ^ (t.bits - 1)) % 2 ^ t.bits else (2 ^ t.bits - x) % 2 ^ t.bits

/-- First the absolute value, then the negation. -/
def modElem (t : Ty) (abs neg : Bool) (x : Nat) : Nat :=
  let y := if abs then absElem t x else x
  if neg then negElem t y else y

/-- Value of an element as an integer, by the type's signedness. -/
def intElem (t : Ty) (x : Nat) : Int := if t.isSigned then signed t.bits x else (x % 2 ^ t.bits : Nat)

/-- An integer result in an element: clamped to the type's range, or wrapped (R120). -/
def intResult (t : Ty) (sat : Bool) (x : Int) : Nat :=
  if sat then
    let lo : Int := if t.isSigned then -(2 ^ (t.bits - 1) : Nat) else 0
    let hi : Int := if t.isSigned then (2 ^ (t.bits - 1) : Nat) - 1 else (2 ^ t.bits : Nat) - 1
    wrapInt t.bits (max lo (min hi x))
  else wrapInt t.bits x

/-! ### Addresses -/

/-- Base of a device address: an even pair (R56). -/
def Arch.addr64 (a : Arch) (r : Reg) (l : Nat) : Nat := a.val r l 2

/-- Effective addresses: 64-bit for device memory, 32-bit for scratchpad (R56). -/
def ea64 (base : Nat) (off : Int) : Nat := wrapInt 64 ((base : Int) + off)
def ea32 (base : Nat) (off : Int) : Nat := wrapInt 32 ((base : Int) + off)

end Sys2Proof.Machine
end

