-- ==== Sys2Proof/Machine/Flags.lean ====
section
/-! DEFINITION. The floating-point flags of flags.fp (R38, R98, R100): computation of each flag and how an instruction
raises and clears them. -/

namespace Sys2Proof.Machine

/-- The five flags in the order of R38: bit 0 NV, 1 DZ, 2 OF, 3 UF, 4 NX. -/
abbrev Fl := BitVec 5

def flNV : Fl := 1#5
def flDZ : Fl := 2#5
def flOF : Fl := 4#5
def flUF : Fl := 8#5
def flNX : Fl := 16#5

/-- Flags of several elements or lanes are ORed. -/
def flAll (l : List Fl) : Fl := l.foldl (· ||| ·) 0#5

/-- Raises flags: bits are sticky (R38). -/
def Arch.raise (a : Arch) (f : Fl) : Arch := { a with flags := a.flags ||| f.setWidth 32 }

/-- FLAGCLR's write-one-to-clear (R133). -/
def Arch.clearFlags (a : Arch) (m : Word) : Arch := { a with flags := a.flags &&& ~~~(m &&& 0x1F#32) }

/-- A raise that changes flags.fp logs it (R193). -/
def flagItems (f : Fl) : List Item := if f = 0 then [] else [.flags]

end Sys2Proof.Machine
end

