-- ==== Sys2Proof/Machine/Float.lean ====
section
/-! DEFINITION. Floating-point arithmetic by exact values and one rounding: the formats of R84 to R87, Round (R93 to R95),
NaNs (R96, R97), flags (R98), and addition, multiplication, fused multiply-add, division, roots, comparison and
conversion. -/

namespace Sys2Proof.Machine

/-! ### Formats -/

/-- A format: exponent and fraction bits (R84). -/
structure Fmt where
  eb : Nat
  fb : Nat
  deriving DecidableEq, Repr

def fmtF64 : Fmt := { eb := 11, fb := 52 }
def fmtF32 : Fmt := { eb := 8, fb := 23 }
def fmtF16 : Fmt := { eb := 5, fb := 10 }
def fmtBF16 : Fmt := { eb := 8, fb := 7 }
def fmtF8E5 : Fmt := { eb := 5, fb := 2 }
def fmtF8E4 : Fmt := { eb := 4, fb := 3 }
def fmtACC96 : Fmt := { eb := 15, fb := 80 }

def Fmt.bias (f : Fmt) : Int := (2 ^ (f.eb - 1) : Nat) - 1
def Fmt.width (f : Fmt) : Nat := 1 + f.eb + f.fb
def Fmt.signBit (f : Fmt) : Nat := 2 ^ (f.eb + f.fb)
/-- Encoding of +infinity (R86). -/
def Fmt.inf (f : Fmt) : Nat := (2 ^ f.eb - 1) * 2 ^ f.fb
/-- The canonical NaN (R86, R96). -/
def Fmt.nan (f : Fmt) : Nat := f.inf + 2 ^ (f.fb - 1)
def Fmt.maxFinite (f : Fmt) : Nat := f.inf - 1
/-- Exponent of the least significant fraction bit of subnormals. -/
def Fmt.qmin (f : Fmt) : Int := 1 - f.bias - f.fb

/-- Format of a type's elements. -/
def fmtOf : Ty → Fmt
  | .f64 => fmtF64
  | .f16x2 => fmtF16
  | .bf16x2 => fmtBF16
  | .f8e4x4 => fmtF8E4
  | .f8e5x4 => fmtF8E5
  | _ => fmtF32

/-! ### Values -/

/-- A decoded value (R85): a NaN, an infinity, or ±m × 2^e. -/
inductive FV where
  | nan (signalling : Bool)
  | inf (neg : Bool)
  | fin (neg : Bool) (m : Nat) (e : Int)
  deriving DecidableEq, Repr

def unpack (f : Fmt) (x : Nat) : FV :=
  let neg := flag x (f.eb + f.fb)
  let e := bits x f.fb f.eb
  let m := bits x 0 f.fb
  if e = 2 ^ f.eb - 1 then
    if m = 0 then .inf neg else .nan (m < 2 ^ (f.fb - 1))
  else if e = 0 then .fin neg m f.qmin
  else .fin neg (2 ^ f.fb + m) (f.qmin + (e - 1))

def FV.isSnan : FV → Bool
  | .nan s => s
  | _ => false

def FV.isNan : FV → Bool
  | .nan _ => true
  | _ => false

def FV.isInf : FV → Bool
  | .inf _ => true
  | _ => false

def FV.isZero : FV → Bool
  | .fin _ 0 _ => true
  | _ => false

def FV.isNeg : FV → Bool
  | .nan _ => false
  | .inf n => n
  | .fin n _ _ => n

/-- An exact result before rounding: `sticky` says that the magnitude lies strictly between m and m + 1 units of 2^e. -/
inductive FX where
  | nan
  | inf (neg : Bool)
  | num (neg : Bool) (m : Nat) (e : Int) (sticky : Bool)
  deriving DecidableEq, Repr

def FV.exact : FV → FX
  | .nan _ => .nan
  | .inf n => .inf n
  | .fin n m e => .num n m e false

/-- NV of a signalling NaN among the operands (R97). -/
def snanFl (xs : List FV) : Fl := if xs.any FV.isSnan then flNV else 0

/-! ### Round (R93, R94) -/

/-- Whether the rounding mode moves a magnitude away from zero: `odd` is the last bit kept, `r` of `2^s` the part cut. -/
def roundsUp (rm : Rm) (neg odd : Bool) (r s : Nat) : Bool :=
  match rm with
  | .rne => decide (2 ^ s < 2 * r) || (decide (2 * r = 2 ^ s) && odd)
  | .rtz => false
  | .rup => !neg && decide (r ≠ 0)
  | .rdn => neg && decide (r ≠ 0)

/-- A magnitude m × 2^e as an integer number of 2^q, rounded, and whether that was inexact. -/
def roundAt (rm : Rm) (neg : Bool) (m : Nat) (e q : Int) : Nat × Bool :=
  if q ≤ e then (m * 2 ^ (e - q).toNat, false)
  else
    let s := (q - e).toNat
    let d := m / 2 ^ s
    let r := m % 2 ^ s
    (if roundsUp rm neg (d % 2 == 1) r s then d + 1 else d, r != 0)

/-- The delivered magnitude on overflow (R93, R129). -/
def overflowTo (f : Fmt) (rm : Rm) (neg sat : Bool) : Nat :=
  if sat then f.maxFinite
  else
    match rm with
    | .rne => f.inf
    | .rtz => f.maxFinite
    | .rup => if neg then f.maxFinite else f.inf
    | .rdn => if neg then f.inf else f.maxFinite

/-- The tininess test of R94 for a nonzero magnitude. -/
def tiny (f : Fmt) (rm : Rm) (neg : Bool) (m : Nat) (e : Int) : Bool :=
  let ex : Int := Nat.log2 m + e
  let emin := f.qmin + f.fb
  decide (ex < emin)
    && !(decide (ex + 1 = emin) && decide ((roundAt rm neg m e (ex - f.fb)).1 = 2 ^ (f.fb + 1)))

/-- Round to a format with saturation of infinite results (R93, R95, R129): the encoding and the flags OF, UF, NX. -/
def fround (f : Fmt) (rm : Rm) (sat : Bool) (x : FX) : Nat × Fl :=
  match x with
  | .nan => (f.nan, 0)
  | .inf neg => ((if neg then f.signBit else 0) + (if sat then f.maxFinite else f.inf), 0)
  | .num neg m0 e0 sticky =>
    let sg := if neg then f.signBit else 0
    let m := if sticky then 2 * m0 + 1 else m0
    let e := if sticky then e0 - 1 else e0
    if m = 0 then (sg, 0)
    else
      let q := max ((Nat.log2 m : Int) + e - f.fb) f.qmin
      let (n, inexact) := roundAt rm neg m e q
      let enc := n + (q - f.qmin).toNat * 2 ^ f.fb
      if f.inf ≤ enc then (sg + overflowTo f rm neg sat, flOF ||| flNX)
      else (sg + enc, (if inexact then flNX else 0) ||| (if inexact && tiny f rm neg m e then flUF else 0))

/-- Rounds a result that already carries flags. -/
def froundFl (f : Fmt) (rm : Rm) (sat : Bool) (r : FX × Fl) : Nat × Fl :=
  let (x, fl) := fround f rm sat r.1
  (x, fl ||| r.2)

/-! ### Exact operations -/

/-- Sign of an exact zero sum (R93). -/
def zeroSum (rm : Rm) (na nb : Bool) : Bool := if na == nb then na else rm == .rdn

/-- A signed magnitude at exponent `q` at or below `e`. -/
def scaled (neg : Bool) (m : Nat) (e q : Int) : Int :=
  let x : Int := (m * 2 ^ (e - q).toNat : Nat)
  if neg then -x else x

/-- Exact sum of two finite values, zero sign by R93. -/
def addFin (rm : Rm) (na : Bool) (ma : Nat) (ea : Int) (nb : Bool) (mb : Nat) (eb : Int) : FX :=
  if ma = 0 && mb = 0 then .num (zeroSum rm na nb) 0 0 false
  else
    let q := min ea eb
    let t := scaled na ma ea q + scaled nb mb eb q
    if t = 0 then .num (rm == .rdn) 0 0 false else .num (t < 0) t.natAbs q false

def xAdd (rm : Rm) (a b : FV) : FX × Fl :=
  if a.isSnan || b.isSnan then (.nan, flNV)
  else
    match a, b with
    | .nan _, _ => (.nan, 0)
    | _, .nan _ => (.nan, 0)
    | .inf x, .inf y => if x == y then (.inf x, 0) else (.nan, flNV)
    | .inf x, _ => (.inf x, 0)
    | _, .inf y => (.inf y, 0)
    | .fin na ma ea, .fin nb mb eb => (addFin rm na ma ea nb mb eb, 0)

def FV.negate : FV → FV
  | .nan s => .nan s
  | .inf n => .inf (!n)
  | .fin n m e => .fin (!n) m e

/-- A product as a value; NV where it is 0 × ∞ or meets a signalling NaN. -/
def xMulV (a b : FV) : FV × Fl :=
  if a.isSnan || b.isSnan then (.nan false, flNV)
  else
    match a, b with
    | .nan _, _ => (.nan false, 0)
    | _, .nan _ => (.nan false, 0)
    | .inf x, .inf y => (.inf (xor x y), 0)
    | .inf x, .fin y m _ => if m = 0 then (.nan false, flNV) else (.inf (xor x y), 0)
    | .fin x m _, .inf y => if m = 0 then (.nan false, flNV) else (.inf (xor x y), 0)
    | .fin na ma ea, .fin nb mb eb => (.fin (xor na nb) (ma * mb) (ea + eb), 0)

def xMul (a b : FV) : FX × Fl := let (p, f) := xMulV a b; (p.exact, f)

/-- a × b + c with the flags of R98: 0 × ∞ raises NV whatever the addend. -/
def xFma (rm : Rm) (a b c : FV) : FX × Fl :=
  let (p, f) := xMulV a b
  let (r, g) := xAdd rm p c
  (r, f ||| g)

/-- Quotient of nonzero magnitudes with more bits than any format keeps. -/
def divMag (ma mb : Nat) (ea eb : Int) : Nat × Int × Bool :=
  let k := 130 + Nat.log2 mb
  (ma * 2 ^ k / mb, ea - eb - k, ma * 2 ^ k % mb != 0)

def xDiv (a b : FV) : FX × Fl :=
  if a.isSnan || b.isSnan then (.nan, flNV)
  else
    match a, b with
    | .nan _, _ => (.nan, 0)
    | _, .nan _ => (.nan, 0)
    | .inf _, .inf _ => (.nan, flNV)
    | .inf x, .fin y _ _ => (.inf (xor x y), 0)
    | .fin x _ _, .inf y => (.num (xor x y) 0 0 false, 0)
    | .fin x ma ea, .fin y mb eb =>
      if mb = 0 then (if ma = 0 then (.nan, flNV) else (.inf (xor x y), flDZ))
      else if ma = 0 then (.num (xor x y) 0 0 false, 0)
      else let (q, e, st) := divMag ma mb ea eb; (.num (xor x y) q e st, 0)

/-- Integer square root from `k` bits downwards. -/
def isqrtFrom (n : Nat) : Nat → Nat → Nat
  | 0, r => r
  | k + 1, r => isqrtFrom n k (if (r + 2 ^ k) * (r + 2 ^ k) ≤ n then r + 2 ^ k else r)

def isqrt (n : Nat) : Nat := isqrtFrom n (Nat.log2 n / 2 + 1) 0

/-- √(m × 2^e) for m > 0. -/
def sqrtMag (m : Nat) (e : Int) : Nat × Int × Bool :=
  let k : Nat := 260 + (if (e % 2 = 0) then 0 else 1)
  let n := m * 2 ^ k
  let r := isqrt n
  (r, (e - k) / 2, r * r != n)

def xSqrt (a : FV) : FX × Fl :=
  match a with
  | .nan s => (.nan, if s then flNV else 0)
  | .inf n => if n then (.nan, flNV) else (.inf false, 0)
  | .fin n m e =>
    if m = 0 then (.num n 0 0 false, 0)
    else if n then (.nan, flNV)
    else let (r, q, st) := sqrtMag m e; (.num false r q st, 0)

/-- 1/√a: ∓0 gives ∓∞ with DZ (R98, R132). -/
def xRsqrt (a : FV) : FX × Fl :=
  match a with
  | .nan s => (.nan, if s then flNV else 0)
  | .inf n => if n then (.nan, flNV) else (.num false 0 0 false, 0)
  | .fin n m e =>
    if m = 0 then (.inf n, flDZ)
    else if n then (.nan, flNV)
    else
      let k : Nat := 2 * (130 + Nat.log2 m) + (if (e % 2 = 0) then 0 else 1)
      let r := isqrt (2 ^ k / m)
      (.num false r ((-e - k) / 2) (r * r * m != 2 ^ k), 0)

/-- 1/a. -/
def xRcp (a : FV) : FX × Fl := xDiv (.fin false 1 0) a

/-! ### Order (R53, R130) -/

/-- Value of a number as a pair of integers at a common exponent: compares two finite values. -/
def finLt (a b : FV) : Bool :=
  match a, b with
  | .fin na ma ea, .fin nb mb eb => decide (scaled na ma ea (min ea eb) < scaled nb mb eb (min ea eb))
  | .inf n, .inf k => n && !k
  | .inf n, _ => n
  | _, .inf k => !k
  | _, _ => false

def finEq (a b : FV) : Bool :=
  match a, b with
  | .fin na ma ea, .fin nb mb eb => decide (scaled na ma ea (min ea eb) = scaled nb mb eb (min ea eb))
  | .inf n, .inf k => n == k
  | _, _ => false

/-- Floating conditions of R53 with their NV. -/
def fcond (c : Nat) (a b : FV) : Bool × Fl :=
  let ordered := !a.isNan && !b.isNan
  let lt := ordered && finLt a b
  let gt := ordered && finLt b a
  let eq := ordered && finEq a b
  let fl := if 2 ≤ c && c ≤ 5 then (if ordered then 0 else flNV) else snanFl [a, b]
  (match c with
    | 0 => eq
    | 1 => ordered && !eq
    | 2 => lt
    | 3 => lt || eq
    | 4 => gt
    | 5 => gt || eq
    | 6 => ordered
    | 7 => !ordered
    | 8 => !ordered || eq
    | 9 => !ordered || !eq
    | 10 => !ordered || lt
    | 11 => !ordered || lt || eq
    | 12 => !ordered || gt
    | _ => !ordered || gt || eq, fl)

/-- FMIN and FMAX on encodings: −0 lies below +0, a lone NaN yields the other operand (R130). -/
def fminmax (f : Fmt) (max : Bool) (x y : Nat) : Nat × Fl :=
  let a := unpack f x
  let b := unpack f y
  let fl := snanFl [a, b]
  let less := finLt a b || (a.isZero && b.isZero && a.isNeg && !b.isNeg)
  (if a.isNan && b.isNan then f.nan
    else if a.isNan then y
    else if b.isNan then x
    else if less == max then y else x, fl)

/-! ### Conversions (R134, R135) -/

def froundV (f : Fmt) (rm : Rm) (sat : Bool) (a : FV) : Nat × Fl := froundFl f rm sat (a.exact, snanFl [a])

/-- Rounded integer of a finite value, and whether it was inexact. -/
def toInt (rm : Rm) (neg : Bool) (m : Nat) (e : Int) : Int × Bool :=
  let (n, i) := roundAt rm neg m e 0
  ((if neg then -(n : Int) else n), i)

/-- Floating to an integer of `w` bits (R134). -/
def cvtFI (w : Nat) (sgn : Bool) (rm : Rm) (sat : Bool) (a : FV) : Nat × Fl :=
  let lo : Int := if sgn then -(2 ^ (w - 1) : Nat) else 0
  let hi : Int := if sgn then (2 ^ (w - 1) : Nat) - 1 else (2 ^ w : Nat) - 1
  match a with
  | .nan _ => (0, flNV)
  | .inf n => (if sat then wrapInt w (if n then lo else hi) else 0, flNV)
  | .fin n m e =>
    let (x, i) := toInt rm n m e
    if lo ≤ x && x ≤ hi then (wrapInt w x, if i then flNX else 0)
    else (wrapInt w (if sat then max lo (min hi x) else x), flNV)

/-- An integer to a floating format: zero is +0. -/
def cvtIF (f : Fmt) (rm : Rm) (sat : Bool) (x : Int) : Nat × Fl := fround f rm sat (.num (x < 0) x.natAbs 0 false)

/-- FRND: to an integral value of the same format; a zero result keeps the sign (R135). -/
def frndElem (f : Fmt) (rm : Rm) (x : Nat) : Nat × Fl :=
  match unpack f x with
  | .nan s => (f.nan, if s then flNV else 0)
  | .inf _ => (x, 0)
  | .fin n m e =>
    if 0 ≤ e then (x, 0)
    else ((fround f rm false (.num n (roundAt rm n m e 0).1 0 false)).1, 0)

/-- Class bit of R131. -/
def fclassBit (f : Fmt) (x : Nat) : Nat :=
  match unpack f x with
  | .nan s => if s then 8 else 9
  | .inf n => if n then 0 else 7
  | .fin n m _ =>
    if m = 0 then (if n then 3 else 4)
    else if m < 2 ^ f.fb then (if n then 2 else 5)
    else if n then 1 else 6

/-! ### Element operations on encodings -/

def fadd (f : Fmt) (rm : Rm) (sat : Bool) (x y : Nat) : Nat × Fl :=
  froundFl f rm sat (xAdd rm (unpack f x) (unpack f y))
/-- A subtraction is the sum with the negated subtrahend, its exact zero included: of two zeros of one sign R93's words
could also be read to keep that sign. DESIGN CHOICE: log 65. -/
def fsub (f : Fmt) (rm : Rm) (sat : Bool) (x y : Nat) : Nat × Fl :=
  froundFl f rm sat (xAdd rm (unpack f x) (unpack f y).negate)
def fmul (f : Fmt) (rm : Rm) (sat : Bool) (x y : Nat) : Nat × Fl :=
  froundFl f rm sat (xMul (unpack f x) (unpack f y))
def ffma (f : Fmt) (rm : Rm) (sat : Bool) (x y z : Nat) : Nat × Fl :=
  froundFl f rm sat (xFma rm (unpack f x) (unpack f y) (unpack f z))

end Sys2Proof.Machine
end

