-- ==== Sys2Proof/Machine/Ops.lean ====
section
/-! DEFINITION. The named operations over the state: finding and changing launches, groups and warps; committed memory
and its regions; ownership, translation and TLBs (R321 to R325); and taking a fault (R80, R342). -/

namespace Sys2Proof

/-! ### Locations -/

def Loc.line (x : Loc) : Loc := { x with addr := x.addr / 128 * 128 }
def Loc.half (x : Loc) : Loc := { x with addr := x.addr / 64 * 64 }
def Loc.word (x : Loc) : Loc := { x with addr := x.addr / 4 * 4 }
def Loc.page (x : Loc) : Loc := { x with addr := x.addr / 65536 * 65536 }
/-- What poison is held by: a 64-byte half of a line, or a scratchpad word (R352). -/
def Loc.unit (x : Loc) : Loc := match x.space with | .spad _ _ => x.word | _ => x.half
def Loc.plus (x : Loc) (n : Nat) : Loc := { x with addr := x.addr + n }

def Space.isSpad : Space → Bool
  | .spad _ _ => true
  | _ => false

/-- Host and peer memory: accesses there are irrevocable (R188). -/
def Space.irrevocable : Space → Bool
  | .host | .peer _ => true
  | _ => false

end Sys2Proof

namespace Sys2Proof.Machine

/-! ### Launches, groups, warps -/

def State.launch? (s : State) (n : Nat) : Option Launch := s.launches.find? fun l => l.num == n

def State.mapLaunch (s : State) (n : Nat) (f : Launch → Launch) : State :=
  { s with launches := s.launches.map fun l => if l.num = n then f l else l }

def Launch.group? (l : Launch) (g : Nat) : Option Group := l.groups.find? fun x => x.index == g

def Launch.mapGroup (l : Launch) (g : Nat) (f : Group → Group) : Launch :=
  { l with groups := l.groups.map fun x => if x.index = g then f x else x }

def State.group? (s : State) (l g : Nat) : Option Group := (s.launch? l).bind fun x => x.group? g

def State.mapGroup (s : State) (l g : Nat) (f : Group → Group) : State := s.mapLaunch l fun x => x.mapGroup g f

def State.warp? (s : State) (w : WarpId) : Option Warp := (s.group? w.launch w.group).bind fun g => g.warps[w.warp]?

def State.mapWarp (s : State) (w : WarpId) (f : Warp → Warp) : State :=
  s.mapGroup w.launch w.group fun g => { g with warps := updAt f g.warps w.warp }

/-- Changes every warp of the machine. -/
def State.mapWarps (s : State) (f : WarpId → Warp → Warp) : State :=
  { s with launches := s.launches.map fun l => { l with groups := l.groups.map fun g =>
      { g with warps := g.warps.zipIdx.map fun p => f ⟨l.num, g.index, p.2⟩ p.1 } } }

/-- Every warp of the machine in logical order: launch, group, warp (R191). -/
def State.allWarps (s : State) : List (WarpId × Warp) :=
  s.launches.flatMap fun l => l.groups.flatMap fun g => g.warps.zipIdx.map fun p => (⟨l.num, g.index, p.2⟩, p.1)

def State.context? (s : State) (c : CtxKey) : Option Context := s.contexts.find? fun x => x.key == c

def State.mapContext (s : State) (c : CtxKey) (f : Context → Context) : State :=
  { s with contexts := s.contexts.map fun x => if x.key = c then f x else x }

def State.part (s : State) (p : Nat) : Partition := s.parts.getD p Partition.reset

def State.mapPart (s : State) (p : Nat) (f : Partition → Partition) : State := { s with parts := updAt f s.parts p }

def State.queue? (s : State) (q : QueueKey) : Option Queue := s.queues.find? fun x => x.key == q

def State.mapQueue (s : State) (q : QueueKey) (f : Queue → Queue) : State :=
  { s with queues := s.queues.map fun x => if x.key = q then f x else x }

def State.op? (s : State) (n : Nat) : Option Op := s.ops.find? fun o => o.num == n

def State.mapOp (s : State) (n : Nat) (f : Op → Op) : State :=
  { s with ops := s.ops.map fun o => if o.num = n then f o else o }

def State.dropOp (s : State) (n : Nat) : State := { s with ops := s.ops.filter fun o => o.num ≠ n }

def State.run? (s : State) (n : Nat) : Option Run := s.runs.find? fun r => r.num == n

def State.mapRun (s : State) (n : Nat) (f : Run → Run) : State :=
  { s with runs := s.runs.map fun r => if r.num = n then f r else r }

def Launch.rec? (l : Launch) (n : Nat) : Option HRec := l.recs.find? fun r => r.num == n

def Launch.mapRec (l : Launch) (n : Nat) (f : HRec → HRec) : Launch :=
  { l with recs := l.recs.map fun r => if r.num = n then f r else r }

/-- The context of a launch; a launch whose context is gone acts as in free mode. -/
def State.reproOf (s : State) (c : CtxKey) : Bool := match s.context? c with | some x => x.repro | none => false

/-- Identifier of a context as 11 bits (R315). -/
def ctxId (c : CtxKey) : Nat := c.part % 16 + c.ctx % 64 * 16 + (if c.fw then 1024 else 0)

/-- The firmware context (R315). It belongs to no partition: 16 names none, and its identifier is 0x400.
DEDUCED: log 12. -/
def firmwareCtx : CtxKey := { part := 16, ctx := 0, fw := true }

def quadOf (core : Nat) : Nat := core / 4

/-! ### Regions and committed bytes -/

/-- The region of a partition that holds a virtual address, with its index (R214). -/
def State.regionAt (s : State) (p va : Nat) : Option (Nat × Region) :=
  (s.part p).regions.find? fun r => decide (r.2.base ≤ va) && decide (va < r.2.base + r.2.pages * 65536)

/-- The region as it stands in a partition's table. -/
def State.mapRegion (s : State) (p idx : Nat) (f : Region → Region) : State :=
  s.mapPart p fun x => { x with regions := x.regions.map fun r => if r.1 = idx then (r.1, f r.2) else r }

/-- A region whose pages can be unbacked: neither versioned nor bound to a window (R215, R381). -/
def Region.sparse (r : Region) : Bool := !r.vers && r.fwin.isNone

def Region.esBytes (r : Region) : Nat := 2 ^ r.es

/-- Byte o of the region's default pattern (R215). -/
def Region.defaultByte (r : Region) (o : Nat) : Byte := BitVec.ofNat 8 (r.default.toNat / 2 ^ (8 * (o % r.esBytes)))

/-- The physical page behind page k of a region: its pool page, or its fixed page while backed. -/
def Region.backing (r : Region) (k : Nat) : Option Nat := getKey k r.backed

/-- Physical address of a device location, none for an unbacked page. -/
def State.physOf (s : State) (x : Loc) : Option Nat :=
  match x.space with
  | .dev => some x.addr
  | .region p =>
    match s.regionAt p x.addr with
    | some (_, r) => (r.backing ((x.addr - r.base) / 65536)).map fun pg => pg * 65536 + x.addr % 65536
    | none => none
  | _ => none

/-- The place of a location in memory: that of its backing, or of its fixed page while unbacked (R214). -/
def State.placeOf (s : State) (x : Loc) : Option Nat :=
  match s.physOf x, x.space with
  | some pa, _ => some pa
  | none, .region p =>
    (match s.regionAt p x.addr with
    | some (_, r) => if r.ext then some (r.fpa + (x.addr - r.base)) else none
    | none => none)
  | none, _ => none

/-- The committed byte at a location (R180): an unbacked page reads as its region's default. -/
def State.byteAt (s : State) (x : Loc) : Byte :=
  match x.space with
  | .dev => memGet s.mem x.addr
  | .region p =>
    match s.regionAt p x.addr with
    | some (_, r) =>
      match r.backing ((x.addr - r.base) / 65536) with
      | some pg => memGet s.mem (pg * 65536 + x.addr % 65536)
      | none => r.defaultByte (x.addr - r.base)
    | none => 0
  | .host => memGet s.hostMem x.addr
  | .peer n => memGet s.peerMem (n * 2 ^ 52 + x.addr)
  | .spad l g => match s.group? l g with | some y => memGet y.spad x.addr | none => 0

/-- Stores one committed byte. A byte of an unbacked page is dropped: the caller allocates first (R216). -/
def State.putByte (s : State) (x : Loc) (b : Byte) : State :=
  match x.space with
  | .host => { s with hostMem := memPut s.hostMem x.addr b }
  | .peer n => { s with peerMem := memPut s.peerMem (n * 2 ^ 52 + x.addr) b }
  | .spad l g => s.mapGroup l g fun y => { y with spad := memPut y.spad x.addr b }
  | _ => match s.physOf x with
    | some pa => { s with mem := memPut s.mem pa b }
    | none => s

def State.bytesAt (s : State) (x : Loc) (n : Nat) : List Byte := (upTo n).map fun i => s.byteAt (x.plus i)

/-- The page of a location is backed: device pages are, region pages by their map (R215). -/
def State.isBacked (s : State) (x : Loc) : Bool :=
  match x.space with
  | .region p => match s.regionAt p x.addr with
    | some (_, r) => (r.backing ((x.addr - r.base) / 65536)).isSome
    | none => true
  | _ => true

/-- The default byte at a location of a region page. -/
def State.defaultAt (s : State) (x : Loc) : Byte :=
  match x.space with
  | .region p => match s.regionAt p x.addr with
    | some (_, r) => r.defaultByte (x.addr - r.base)
    | none => 0
  | _ => 0

/-- A window-bound, versioned or plain device page never changes its backing. -/
def State.mapBacking (s : State) (x : Loc) (f : Region → Nat → Region) : State :=
  match x.space with
  | .region p => match s.regionAt p x.addr with
    | some (i, r) => s.mapRegion p i fun y => f y ((x.addr - r.base) / 65536)
    | none => s
  | _ => s

/-! ### Poison (R352) -/

/-- The half or scratchpad word that holds the byte is poisoned. -/
def State.isPoisoned (s : State) (x : Loc) : Bool := s.poison.contains x.unit

def State.poisonHalf (s : State) (x : Loc) : State := { s with poison := insertNew x.unit s.poison }

def State.unpoisonHalf (s : State) (x : Loc) : State := { s with poison := s.poison.filter fun y => y ≠ x.unit }

/-! ### Ownership (R324, R325) -/

/-- An entry as its 32-bit word. -/
def RotEntry.word (e : RotEntry) : Nat :=
  let b (x : Bool) (n : Nat) : Nat := if x then 2 ^ n else 0
  b e.scrb 14 + b e.px 13 + b e.hx 12 + e.ctx % 64 * 2 ^ 6 + e.cls % 4 * 2 ^ 4 + e.part % 16

/-- The fields of a word; its reserved bits do nothing. -/
def rotEntry (w : Nat) : RotEntry :=
  { scrb := flag w 14, px := flag w 13, hx := flag w 12, ctx := bits w 6 6, cls := bits w 4 2, part := bits w 0 4 }

/-- The entry of a page: a word of the table in memory, and its reset value before bring-up (R324, R398). -/
def State.rotOf (s : State) (pg : Nat) : RotEntry :=
  match s.rotAt with
  | none => RotEntry.reset
  | some a => if pg < Config.dramPages then rotEntry (leNat (memBytes s.mem (a + 4 * pg) 4)) else RotEntry.reset

def State.setRot (s : State) (pg : Nat) (e : RotEntry) : State :=
  match s.rotAt with
  | none => s
  | some a => if pg < Config.dramPages then { s with mem := memPutBytes s.mem (a + 4 * pg) (leBytes 4 e.word) } else s

/-- Pages whose entry is not zero, in ascending order. -/
def State.rotPages (s : State) : List Nat :=
  match s.rotAt with
  | none => []
  | some a => s.mem.foldr (fun c l =>
      if a ≤ c.1 && c.1 < a + 4 * Config.dramPages && l.head? != some ((c.1 - a) / 4) then (c.1 - a) / 4 :: l else l) []

/-- The entry's word is poisoned: what it says of the page is not known, and every access and grant that asks it is refused (R341).
DESIGN CHOICE: log 75. -/
def State.rotBad (s : State) (pg : Nat) : Bool :=
  match s.rotAt with
  | none => false
  | some a => s.isPoisoned { space := .dev, addr := a + 4 * pg }

/-- The Assay Block has measured the image that lies in the page (R315). -/
def State.measured (s : State) (pg : Nat) : Bool := s.images.any fun r => decide (r.1 ≤ pg) && decide (pg < r.1 + r.2)

/-- Firmware reads a page that the request it serves names (R325). -/
def State.serves (s : State) (pg : Nat) : Bool :=
  let e := s.rotOf pg
  !e.scrb && !s.rotBad pg && (e.cls == 1 || e.cls == 2) && (match (s.part e.part).serving with | some l => l.2.contains pg | none => false)

/-- The device page may be accessed by the context, apart from the pages of a request (R325). -/
def State.ownsPage (s : State) (c : CtxKey) (pg : Nat) : Bool :=
  let e := s.rotOf pg
  decide (pg * 65536 < Config.dramBytes) && !e.scrb && !s.rotBad pg
    && (if c.fw then e.cls == 3
        else (e.cls == 1 && e.part == c.part && e.ctx == c.ctx) || (e.cls == 2 && e.part == c.part))

/-- The region page that a physical page belongs to: a backed page, or the fixed page of an external region
(R214, R411) while the region's context or partition owns it (R6). -/
def State.regionOfPage (s : State) (pg : Nat) : Option (Nat × Nat × Region × Nat) :=
  (upTo 16).findSome? fun p =>
    (s.part p).regions.findSome? fun r =>
      if !r.2.sparse then none
      else if r.2.ext && decide (r.2.fpa / 65536 ≤ pg) && decide (pg < r.2.fpa / 65536 + r.2.pages) then
        if s.ownsPage { part := p, ctx := r.2.ctx, fw := false } pg then some (p, r.1, r.2, pg - r.2.fpa / 65536) else none
      else (r.2.backed.find? fun b => b.2 == pg).map fun b => (p, r.1, r.2, b.1)

/-- The name of a device byte: a region's page is named by the region, so that every path to it meets the same words. -/
def State.devLoc (s : State) (pa : Nat) : Loc :=
  match s.regionOfPage (pa / 65536) with
  | some (p, _, r, k) => { space := .region p, addr := r.base + k * 65536 + pa % 65536 }
  | none => { space := .dev, addr := pa }

/-- Host physical pages are checked against the partition's ranges (R311, R324). -/
def State.ownsHost (s : State) (c : CtxKey) (pa : Nat) : Bool :=
  (s.part c.part).hosts.any fun r => decide (r.1 ≤ pa) && decide (pa < r.2)

/-! ### Translation (R321 to R323) -/

/-- The 64-bit word at a device address, as committed. -/
def State.phys64 (s : State) (pa : Nat) : Nat := leNat ((upTo 8).map fun i => s.byteAt (s.devLoc (pa + i)))

/-- The host may hold a modified copy of the half, which it must give back first (R187). -/
def State.hostOwns (s : State) (x : Loc) : Bool := !x.space.isSpad && getKey x.half s.halves == some .owned

/-- A walk over the levels whose virtual-address shifts are given, from a table. A poisoned entry is consumed (R341). -/
def State.walk (s : State) (c : CtxKey) (va : Nat) : List Nat → Nat → Except Code Nat
  | [], _ => .error .address
  | sh :: rest, table =>
    let at_ := table + va / 2 ^ sh % 512 * 8
    if !s.ownsPage c (table / 65536) then .error .ownership
    else if s.isPoisoned (s.devLoc at_) then .error .poison
    else
      let e := s.phys64 at_
      if e % 2 = 0 then .error .address
      else
        match rest with
        | [] => .ok e
        | _ => if bits e 52 12 ≠ 0 || bits e 1 11 ≠ 0 then .error .address else s.walk c va rest (bits e 12 40 * 4096)

/-- The entries that such a walk reads, as far as it comes. -/
def State.walkPath (s : State) (c : CtxKey) (va : Nat) : List Nat → Nat → List Loc
  | [], _ => []
  | sh :: rest, table =>
    let at_ := table + va / 2 ^ sh % 512 * 8
    if !s.ownsPage c (table / 65536) then []
    else if s.phys64 at_ % 2 = 0 then [s.devLoc at_]
    else s.devLoc at_ :: s.walkPath c va rest (bits (s.phys64 at_) 12 40 * 4096)

/-- The shifts of the five levels: level 0 is indexed by bits 56:52 alone (R321). -/
def walkShifts : List Nat := [52, 43, 34, 25, 16]

/-- The level-4 entry's own checks (R322). -/
def entryOk (e : Nat) : Bool :=
  bits e 62 2 == 0 && bits e 52 4 == 0 && bits e 5 11 == 0 && !(flag e 3 && flag e 4)

/-- The level-4 entry of a virtual address. -/
def State.walkEntry (s : State) (c : CtxKey) (va : Nat) : Except Code Nat :=
  match s.context? c with
  | none => .error .address
  | some x =>
    match s.walk c (va % 2 ^ 57) walkShifts x.root with
    | .error e => .error e
    | .ok e => if entryOk e then .ok e else .error .address

/-- Where an entry leads: the region rules of R411, R214 and R381, or the page itself. An entry with HOST or PEER for a page of a
region raises ADDRESS. DESIGN CHOICE: log 63. -/
def State.entryLoc (s : State) (c : CtxKey) (va e : Nat) : Except Code (Loc × Option (Nat × Region)) :=
  let pa := bits e 16 36 * 65536
  let off := va % 65536
  match s.regionAt c.part (va % 2 ^ 57) with
  | some (i, r) =>
    let k := (va % 2 ^ 57 - r.base) / 65536
    if flag e 3 || flag e 4 then .error .address
    else if r.vers && r.ext && pa ≠ r.fpa + k * 65536 then .error .address
    else if r.vers then
      .ok ({ space := .dev, addr := pa + (if r.cur then r.voff else 0) + off }, some (i, r))
    else if r.ext || r.fwin.isSome then
      if pa = r.fpa + k * 65536 then
        if r.fwin.isSome then .ok ({ space := .dev, addr := pa + off }, some (i, r))
        else .ok ({ space := .region c.part, addr := va % 2 ^ 57 }, some (i, r))
      else .error .address
    else if pa ≠ 0 then .error .address
    else .ok ({ space := .region c.part, addr := va % 2 ^ 57 }, some (i, r))
  | none =>
    if flag e 3 then .ok ({ space := .host, addr := pa + off }, none)
    else if flag e 4 then
      let n := bits e 56 6
      if s.routes.getD n 0 = 0 then .error .address else .ok ({ space := .peer n, addr := pa + off }, none)
    else .ok (s.devLoc (pa + off), none)

/-- The device page that the ownership check names: the page of the entry, another version's, or a fixed page. A region's
pool pages belong to the partition, and have none. -/
def checkedPage (e : Nat) (x : Loc) (r : Option (Nat × Region)) : Option Nat :=
  match x.space, r with
  | .dev, some _ => some (x.addr / 65536)
  | .region _, some (_, y) => if y.ext then some ((y.fpa + (x.addr - y.base)) / 65536) else none
  | _, _ => some (bits e 16 36)

/-- The ownership outcome that a TLB entry holds (R323): device pages by the reverse table, host pages by range, and peer pages
at the peer. -/
def State.entryOwned (s : State) (c : CtxKey) (e : Nat) (x : Loc) (r : Option (Nat × Region)) : Bool :=
  match x.space with
  | .host => s.ownsHost c x.addr
  | .peer _ => true
  | _ => match checkedPage e x r with | some pg => s.ownsPage c pg | none => true

/-- Permission of an access (R44, R203, R322, R382). -/
def permits (e : Nat) (r : Option (Nat × Region)) : Access → Bool
  | .read => true
  | .exec => flag e 2
  | .write => flag e 1 && !flag e 2 && !(match r with | some (_, y) => y.vers && y.open_ | none => false)

/-- The TLB entry that covers a page: the core's own, then its quad's. -/
def State.tlbFind (s : State) (c : CtxKey) (core page : Nat) : Option TlbEntry :=
  match s.tlb.find? fun t => !t.quad && t.unit == core && t.ctx == c && t.page == page with
  | some t => some t
  | none => s.tlb.find? fun t => t.quad && t.unit == quadOf core && t.ctx == c && t.page == page

/-- Puts an entry first and keeps at most `n` of its unit (oldest dropped), all of its context (R323). -/
def tlbInsert (l : List TlbEntry) (t : TlbEntry) (n : Nat) : List TlbEntry :=
  let same := l.filter fun x => x.quad == t.quad && x.unit == t.unit
  let others := l.filter fun x => !(x.quad == t.quad && x.unit == t.unit)
  others ++ t :: (same.filter fun x => x.ctx == t.ctx && x.page != t.page).take (n - 1)

def State.tlbFill (s : State) (c : CtxKey) (core page e : Nat) (owned : Bool) : State :=
  let t : TlbEntry := { quad := false, unit := core, ctx := c, page := page, entry := BitVec.ofNat 64 e, owned := owned }
  { s with tlb := tlbInsert (tlbInsert s.tlb { t with quad := true, unit := quadOf core } 4096) t 64 }

/-! ### Format windows (R112) -/

/-- The enabled window that holds a physical address. -/
def State.windowAt (s : State) (pa : Nat) : Option (Nat × FWin) :=
  (s.fwins.zipIdx.find? fun p => p.1.en && decide (p.1.base ≤ pa) && decide (pa < p.1.limit)).map fun p => (p.2, p.1)

/-- A line of a window is filled into L2, unless it is there; the malformed OQ4 pairs that it then holds are counted (R90,
R110, R112). DEDUCED: log 30. -/
def State.fillLine (s : State) (pa : Nat) : State :=
  let line := pa / 128 * 128
  match s.windowAt line with
  | none => s
  | some (n, w) =>
    if s.winLines.contains line && !Config.evicted s.steps line then s
    else
      let bad := if w.fmt = 0 then ((memBytes s.mem line 128).filter fun b => b == 0x88).length else 0
      { s with
        winLines := insertNew line s.winLines
        fwins := updAt (fun x => { x with malf := BitVec.ofNat 32 (min (x.malf.toNat + bad) (2 ^ 32 - 1)) }) s.fwins n }

/-- Fills the lines of some locations. -/
def State.fillLines (s : State) (xs : List Loc) : State :=
  ((xs.filterMap s.physOf).foldl (fun l pa => insertNew (pa / 128 * 128) l) []).foldl State.fillLine s

/-! ### Translated accesses -/

/-- The page-table entries that a translation reads: none where a TLB entry covers the page (R323). -/
def State.walked (s : State) (c : CtxKey) (core va : Nat) : List Loc :=
  if !canonical va || (s.tlbFind c core (va % 2 ^ 57 / 65536)).isSome then []
  else match s.context? c with
    | none => []
    | some x => s.walkPath c (va % 2 ^ 57) walkShifts x.root

/-- A walk reads memory: it waits for a half that the host owns (R187), and fills the lines of windows (R112). -/
def State.walkOwned (s : State) (c : CtxKey) (core va : Nat) : Bool := (s.walked c core va).any s.hostOwns

def State.walkFill (s : State) (c : CtxKey) (core va : Nat) : State := s.fillLines (s.walked c core va)

/-- A translated access. -/
structure Xlate where
  s : State
  loc : Loc
  region : Option (Nat × Region)

/-- The mapping of an address: its entry, the ownership outcome that a TLB entry holds, and where it leads. -/
def State.lookup (s : State) (c : CtxKey) (core va : Nat) : Except Code (Nat × Option Bool × Loc × Option (Nat × Region)) :=
  if !canonical va then .error .address
  else
    let found : Except Code (Nat × Option Bool) :=
      match s.tlbFind c core (va % 2 ^ 57 / 65536) with
      | some t => .ok (t.entry.toNat, some t.owned)
      | none => match s.walkEntry c va with
        | .error e => .error e
        | .ok e => .ok (e, none)
    match found with
    | .error e => .error e
    | .ok (e, hit) => match s.entryLoc c va e with
      | .error x => .error x
      | .ok (x, r) => .ok (e, hit, x, r)

/-- Translation with its checks in the order of R78: mapping, permission, ownership. An atomic access to host or peer memory
raises ADDRESS with the mapping (R224). -/
def State.xlate (s : State) (c : CtxKey) (core va : Nat) (acc : Access) (atomic : Bool := false) : Except Code Xlate :=
  match s.lookup c core va with
  | .error x => .error x
  | .ok (e, hit, x, r) =>
    let owned := match hit with | some o => o | none => s.entryOwned c e x r
    let pg := checkedPage e x r
    let served := c.fw && acc == .read && (match pg with | some n => !x.space.irrevocable && s.serves n | none => false)
    if atomic && x.space.irrevocable then .error .address
    else if !permits e r acc then .error .protection
    else if !owned && !served then .error .ownership
    else if acc == .exec && c.fw && !(match pg with | some n => s.measured n | none => false) then .error .ownership
    else
      .ok { s := (match hit with | some _ => s | none => (s.walkFill c core va).tlbFill c core (va % 2 ^ 57 / 65536) e owned)
            loc := x, region := r }

/-- Translation of every byte of a range that may cross pages; answers the locations page by page. -/
def State.xlateRange (s : State) (c : CtxKey) (core va : Nat) (acc : Access) : Nat → Nat → Except Code (State × List (Loc × Nat))
  | 0, _ => .ok (s, [])
  | fuel + 1, n =>
    if n = 0 then .ok (s, [])
    else
      let k := min n (65536 - va % 65536)
      match s.xlate c core va acc with
      | .error e => .error e
      | .ok x =>
        match x.s.xlateRange c core (va + k) acc fuel (n - k) with
        | .error e => .error e
        | .ok (s', rest) => .ok (s', (x.loc, k) :: rest)

/-- Bytes of a translated range. -/
def State.rangeBytes (s : State) (l : List (Loc × Nat)) : List Byte := l.flatMap fun p => s.bytesAt p.1 p.2

/-- Locations of every byte of a translated range. -/
def rangeLocs (l : List (Loc × Nat)) : List Loc := l.flatMap fun p => (upTo p.2).map fun i => p.1.plus i

/-! ### Requests that wait -/

/-- A request that has been received and cannot be performed yet is tried again later. -/
def State.later (s : State) (i : Instr) : State :=
  { s with deferred := insertNew i s.deferred, received := insertNew i s.received }

/-- So is the request that this step runs: `step` keeps it. -/
def State.hold (s : State) : State := { s with waiting := true }

/-! ### Faults (R80, R342, R344) -/

/-- Fault code of R80. -/
def Code.num : Code → Nat
  | .illegalInstr => 0x01 | .misaligned => 0x02 | .address => 0x03 | .protection => 0x04 | .ownership => 0x05
  | .backingExhausted => 0x06 | .jtableBound => 0x07 | .stackUnderflow => 0x08 | .stackOverflow => 0x09
  | .gangBroken => 0x0A | .gangMismatch => 0x0B | .handleInvalid => 0x0C | .transformFailed => 0x0D | .poison => 0x0E
  | .engineReset => 0x0F | .watchdog => 0x10 | .userTrap => 0x11 | .agentLost => 0x12 | .dependencyFailed => 0x13
  | .nbProgram => 0x14 | .txNesting => 0x15

/-- Step 1 of R342: the first fault is latched in the launch, whose groups then stop issuing. -/
def State.latchFault (s : State) (launch : Nat) (f : FaultInfo) : State :=
  s.mapLaunch launch fun l => if l.fault.isNone && !l.saveInvalid then { l with fault := some f } else l

/-- Taking a fault at a warp's issue. In free mode the launch latches it; in reproducible mode the warp keeps it until
its turn in the round, and its chunk has ended (R344). -/
def State.takeFault (s : State) (w : WarpId) (f : FaultInfo) : State :=
  match s.launch? w.launch with
  | none => s
  | some l =>
    if s.reproOf l.ctx then
      s.mapWarp w fun x =>
        { x with fault := some (x.fault.getD f), chunk := { x.chunk with ended := true } }
    else s.latchFault w.launch f

/-! ### Notifications (R350) -/

/-- Posts a notification to a partition's ring; the oldest of 1,024 is overwritten. -/
def State.notifyPart (s : State) (p kind ctx : Nat) (d0 d1 : DWord) : State :=
  s.mapPart p fun x =>
    { x with ncount := x.ncount + 1
             ring := ({ kind := kind, ctx := ctx, beat := s.beat, data0 := d0, data1 := d1 } :: x.ring).take 1024 }

/-- Posts a notification to the partition manager. -/
def State.notifyAdmin (s : State) (kind ctx : Nat) (d0 d1 : DWord) : State :=
  { s with adminCount := s.adminCount + 1
           adminRing := ({ kind := kind, ctx := ctx, beat := s.beat, data0 := d0, data1 := d1 } :: s.adminRing).take 1024 }

end Sys2Proof.Machine
end

