-- ==== Sys2Proof/Machine/Transaction.lean ====
section
/-! DEFINITION. Which lanes of a warp issue (R249, R251), and the issue sequence of a transaction: its entering lanes run one
after another, and the sequence that R249 gives for the warp as a whole then decides what the transaction counts as, where it
aborts or faults, and when it ends (R229, R230, R232, R264). -/

namespace Sys2Proof.Machine

/-! ### Lanes -/

def Arch.stOf (a : Arch) (l : Nat) : LaneSt := a.st.getD l .exited
def Arch.pcOf (a : Arch) (l : Nat) : Nat := a.pc.getD l 0
def Arch.ready (a : Arch) : LaneMask := maskOf fun l => a.stOf l == .ready
def Arch.waiting (a : Arch) : LaneMask := maskOf fun l => a.stOf l == .waiting
def Arch.live (a : Arch) : LaneMask := maskOf fun l => a.stOf l != .exited

def Arch.setPc (a : Arch) (m : LaneMask) (f : Nat → Nat) : Arch :=
  { a with pc := a.pc.zipIdx.map fun p => if laneOn m p.2 then f p.2 else p.1 }

def Arch.setSt (a : Arch) (m : LaneMask) (x : LaneSt) : Arch :=
  { a with st := a.st.zipIdx.map fun p => if laneOn m p.2 then x else p.1 }

/-- Lowest of the program counters of some lanes. -/
def Arch.lowestPc (a : Arch) (m : LaneMask) : Option Nat :=
  (lanesOf m).foldl (fun best l => match best with
    | none => some (a.pcOf l)
    | some b => some (min b (a.pcOf l))) none

def Tx.lane? (t : Tx) (l : Nat) : Option TxLane := t.lanes.find? fun x => x.lane == l
def Tx.depth (t : Tx) (l : Nat) : Nat := match t.lane? l with | some x => x.depth | none => 0
def Tx.entered (t : Tx) (l : Nat) : Bool := match t.lane? l with | some x => x.entered | none => false
def Tx.done (t : Tx) (l : Nat) : Bool := match t.lane? l with | some x => x.done | none => false

def Tx.stopped (t : Tx) (l : Nat) : Bool := match t.lane? l with | some x => x.stopped | none => false

/-- The lane is an entering lane that has neither finished nor been stopped. -/
def Tx.open_ (t : Tx) (l : Nat) : Bool := t.entered l && !t.done l && !t.stopped l

/-- An entering lane has run as far as it may before the next one runs, so that none keeps the others from their own issues
(R249, R251). DEDUCED: log 16. -/
def Tx.paused (t : Tx) (l : Nat) : Bool :=
  t.open_ l && (match t.lane? l with | some x => decide (t.cap ≤ x.trace.length) | none => false)

/-- The entering lane still has issues to make. -/
def Tx.runs (t : Tx) (l : Nat) : Bool := t.open_ l && !t.paused l

/-- The entering lane whose turn it is: they run one at a time in ascending order (R232). DEDUCED: log 16. -/
def Tx.turn (t : Tx) : Option Nat := (upTo 32).find? t.runs

/-- Lanes that may issue: in a transaction, an entering lane only in its turn (R232). -/
def Arch.candidates (a : Arch) : LaneMask :=
  match a.tx with
  | none => a.ready
  | some t => a.ready &&& maskOf fun l => !t.stopped l && !t.paused l && (!t.runs l || t.turn == some l)

/-- The address and lanes of the warp's next issue (R249, R251). An entering lane of a transaction issues alone. -/
def Arch.pick (a : Arch) : Option (Nat × LaneMask) :=
  let c := a.candidates
  match a.lowestPc c with
  | none => none
  | some low =>
    let at_ (pc : Nat) : LaneMask := c &&& maskOf fun l => a.pcOf l == pc
    let pc := match a.fairNext with
      | some y => if at_ y = 0 then low else y
      | none => low
    match a.tx.bind Tx.turn with
    | none => some (pc, at_ pc)
    | some t => if laneOn (at_ pc) t then some (pc, laneBit t) else some (pc, at_ pc)

/-! ### Fairness (R251) -/

/-- The next fairness issue (R251): the lowest Ready address above both m and c, else above m. -/
def Arch.fairPick (a : Arch) : Option Nat :=
  match a.lowestPc a.ready with
  | none => none
  | some m =>
    let above := a.ready &&& maskOf fun l => decide (m < a.pcOf l)
    let past := above &&& maskOf fun l => decide (a.fairC < a.pcOf l)
    if past = 0 then a.lowestPc above else a.lowestPc past

/-- Sets up the fairness issue. DEDUCED: log 18. -/
def Arch.fairIssue (a : Arch) : Arch :=
  match a.fairPick with
  | none => { a with fairF := 0 }
  | some y => { a with fairNext := some y, fairC := y, fairF := 0 }

/-- The fairness state after an issue at `pc` (R251): `same` when every Ready lane held `pc`. -/
def Arch.fair (a : Arch) (same back : Bool) (pc : Nat) : Arch :=
  if same then { a with fairF := 0, fairC := pc }
  else if back then
    if a.fairF + 1 = 64 then { a with fairF := 64 }.fairIssue else { a with fairF := a.fairF + 1 }
  else a

/-! ### Releasing lanes that wait -/

/-- Takes lanes out of the waits of a warp; a wait without lanes is gone. -/
def dropWaiters (m : LaneMask) (ws : List Wait) : List Wait :=
  (ws.map fun w => { w with lanes := w.lanes &&& ~~~m, active := w.active &&& ~~~m }).filter fun w => w.lanes ≠ 0

/-- Releases lanes that wait: Ready at the word after theirs (R254). -/
def Arch.release (a : Arch) (m : LaneMask) (next : Nat) : Arch :=
  { (a.setPc m fun _ => next).setSt m .ready with waits := dropWaiters m a.waits }

/-! ### WSYNC (R264, R265) -/

/-- Lanes that wait at a WSYNC at an address. -/
def Arch.wsyncAt (a : Arch) (pc : Nat) : LaneMask :=
  a.waits.foldl (fun m w => match w.kind with
    | .wsync _ => if w.pc = pc then m ||| w.lanes else m
    | _ => m) 0

/-- How many times a lane has come to the WSYNC at an address in the transaction; one that waited there when it began has come
once. -/
def Tx.metAt (t : Tx) (l pc : Nat) : Nat :=
  (if t.early.any fun x => x.lane == l && x.pc == pc then 1 else 0)
    + (match t.lane? l with
      | none => 0
      | some x => (x.trace.filter fun k => k.pc == pc && k.meets.isSome).length)

/-- The lanes that wait at WSYNCs. -/
def Arch.meeting (a : Arch) : List TxMeet :=
  a.waits.flatMap fun w => match w.kind with
    | .wsync m => (lanesOf w.lanes).map fun l => { lane := l, pc := w.pc, mask := m }
    | _ => []

/-- Lanes that a waiting WSYNC need not find there: exited lanes, and in a transaction the entering lanes that have come to it as
often as its own lanes, since they run one after another and do not wait (R232; log 16). -/
def Arch.wsyncFree (a : Arch) (w : Wait) : LaneMask :=
  ~~~a.live ||| (match a.tx with
    | some t => maskOf fun l => t.entered l && (lanesOf w.lanes).all fun n => decide (t.metAt n w.pc ≤ t.metAt l w.pc)
    | none => 0)

/-- The lanes that a waiting WSYNC releases: those that it names, once every one of them that has not exited waits at its
address (R264). -/
def Arch.wsyncGo (a : Arch) (w : Wait) : LaneMask :=
  match w.kind with
  | .wsync m => if m &&& ~~~(a.wsyncAt w.pc ||| a.wsyncFree w) == 0 then a.wsyncAt w.pc &&& m else 0
  | _ => 0

/-- Releases every WSYNC that may go, all as the warp stands (R264, R265). -/
def Arch.wsyncRelease (a : Arch) : Arch :=
  a.waits.foldl (fun b w => if a.wsyncGo w = 0 then b else b.release (a.wsyncGo w) w.next) a

/-! ### The issue sequence of a transaction (R232) -/

/-- Two costs together: a word that has been written is read at no cost (R173). -/
def Cost.add (c d : Cost) : Cost :=
  { items := d.items.foldl (fun l x => insertNew x l) c.items
    reads := d.reads.foldl (fun l x => if c.writes.contains x then l else insertNew x l) c.reads
    writes := d.writes.foldl (fun l x => insertNew x l) c.writes }

/-- What a lane's own issues have taken of the budget. -/
def Tx.pathCost (t : Tx) (l : Nat) : Cost :=
  match t.lane? l with
  | none => t.cost
  | some x => (x.trace.map TxMark.cost).foldl Cost.add t.cost

/-- A lane whose issues are being placed: how many stand, and those that are left. -/
structure TxRest where
  lane : Nat
  placed : Nat
  rest : List TxMark
  deriving DecidableEq, Repr

/-- The sequence so far: the warp's state holds the program counters and the fairness state of R251, and the cost is what the
chunk has taken of its budget. -/
structure TxSeq where
  a : Arch
  left : List TxRest
  meets : List TxMeet
  depths : List (Nat × Nat)
  clocks : List ((Nat × Nat) × Nat)
  cost : Cost
  deriving DecidableEq, Repr

def TxSeq.waiting (q : TxSeq) (l : Nat) : Bool := q.meets.any fun x => x.lane == l

/-- The next issue of a lane. -/
def TxSeq.head (q : TxSeq) (l : Nat) : Option TxMark :=
  match q.left.find? fun x => x.lane == l with
  | some x => x.rest.head?
  | none => none

/-- A lane's program counter and state follow its next issue; a lane with none left stands as at the end. -/
def TxSeq.place (q : TxSeq) (ends : Arch) : TxSeq :=
  { q with a := q.left.foldl (fun a x =>
      if q.waiting x.lane then a.setSt (laneBit x.lane) .waiting
      else match x.rest with
        | m :: _ => (a.setPc (laneBit x.lane) fun _ => m.pc).setSt (laneBit x.lane) .ready
        | [] => (a.setPc (laneBit x.lane) fun _ => ends.pcOf x.lane).setSt (laneBit x.lane) (ends.stOf x.lane)) q.a }

/-- Releases the WSYNCs whose named lanes that have not exited all wait at one address (R264). -/
def TxSeq.meet (q : TxSeq) : TxSeq :=
  let there (pc : Nat) : LaneMask := maskOf fun l => q.meets.any fun x => x.lane == l && x.pc == pc
  let free : LaneMask := maskOf fun l => q.meets.any fun x =>
    laneOn x.mask l && laneOn (there x.pc) l && (x.mask &&& q.a.live &&& ~~~there x.pc) == 0
  { q with meets := q.meets.filter fun x => !laneOn free x.lane }

/-- How the sequence goes on after an issue. -/
inductive TxNext where
  | go (q : TxSeq)
  /-- A lane is stopped there, with the deepest entering lane's depth (R230), and the clocks read so far. -/
  | stop (x : TxStop) (depth : Nat) (clocks : List ((Nat × Nat) × Nat))
  /-- Some lanes would issue next and have not issued yet: one that did not enter, or one that has paused. -/
  | need (m : LaneMask) (clocks : List ((Nat × Nat) × Nat))
  /-- Every entering lane has reached its TXEND (R229). -/
  | over (q : TxSeq)
  /-- Lanes wait at WSYNCs that they never leave (R264). -/
  | stuck (clocks : List ((Nat × Nat) × Nat))
  deriving DecidableEq, Repr

/-- The fault of the lowest lane. -/
def lowestFault (fs : List FaultInfo) : Option FaultInfo :=
  fs.foldl (fun best f => match best with | some b => if f.lane < b.lane then some f else best | none => some f) none

/-- The faults that belong to a warp's issue as a whole (R77); COPY's ADDRESS and the others stand for the lowest lane. -/
def Code.ofWarp : Code → Bool
  | .stackOverflow | .stackUnderflow | .handleInvalid | .gangMismatch | .jtableBound | .txNesting => true
  | _ => false

/-- What stops an issue in which several lanes are stopped: a fault of the warp comes first (R77, R229), then an abort, which
undoes the issue, then a lane's fault; of several faults the lowest lane's is taken (R78). DEDUCED: log 16. -/
def stopOf (ms : List TxMark) : Option TxStop :=
  let stops := ms.filterMap fun m => m.stop
  let faults := stops.filterMap fun x => match x with | .fault f => some f | .abort _ _ => none
  match lowestFault (faults.filter fun f => f.code.ofWarp) with
  | some f => some (.fault f)
  | none => match stops.find? fun x => match x with | .abort _ _ => true | _ => false with
    | some x => some x
    | none => (lowestFault faults).map .fault

/-- The abort of an issue that exceeds the budget (R230). -/
def TxStop.capacity : TxStop := .abort 1 0

/-- One issue of the warp as R249 and R251 order it. -/
def TxSeq.next (q : TxSeq) (t : Tx) (ends : Arch) (over_ : Cost → Bool) : TxNext :=
  if q.left.all fun x => !t.entered x.lane || (x.rest.isEmpty && !t.paused x.lane) then .over q
  else
    let open_ := maskOf fun l => (q.head l).isSome && !q.waiting l
    let idle := q.a.ready &&& ~~~open_
    match q.a.lowestPc (open_ ||| idle) with
    | none => .stuck q.clocks
    | some low =>
      let at_ (pc : Nat) : LaneMask := (open_ ||| idle) &&& maskOf fun l => q.a.pcOf l == pc
      let pc := match q.a.fairNext with | some y => if at_ y = 0 then low else y | none => low
      let m := at_ pc
      if m &&& idle != 0 then .need (m &&& idle) q.clocks
      else
        let marks := (lanesOf m).filterMap q.head
        let cost := (marks.map TxMark.cost).foldl Cost.add q.cost
        match (stopOf marks).or (if over_ cost then some .capacity else none) with
        | some x => .stop x (q.depths.foldl (fun n d => max n d.2) 1) q.clocks
        | none =>
          let same := q.a.ready &&& ~~~m = 0
          let mine := q.left.filter fun x => laneOn m x.lane
          let q1 : TxSeq :=
            { a := q.a
              left := q.left.map fun x => if laneOn m x.lane then { x with placed := x.placed + 1, rest := x.rest.drop 1 } else x
              meets := q.meets ++ mine.filterMap fun x => (x.rest.head?.bind fun k => k.meets).map fun mask =>
                { lane := x.lane, pc := pc, mask := mask }
              depths := mine.foldl (fun d x => match x.rest.head? with | some k => setKey x.lane k.depth d | none => d) q.depths
              clocks := q.clocks ++ mine.filterMap fun x => (x.rest.head?.bind fun k => k.clock).map fun _ =>
                ((x.lane, x.placed), q.a.retired)
              cost := cost }
          let q2 := (q1.place ends).meet.place ends
          let a := { q2.a with fairNext := none, retired := q2.a.retired + 1 }
          let a := a.fair same (marks.any fun k => k.turn == .back) pc
          .go { q2 with a := if marks.any (fun k => k.turn == .rot) && !same then a.fairIssue else a }

def TxSeq.run (t : Tx) (ends : Arch) (over_ : Cost → Bool) : Nat → TxSeq → TxNext
  | 0, q => .need 0 q.clocks
  | n + 1, q => match q.next t ends over_ with
    | .go r => TxSeq.run t ends over_ n r
    | x => x

/-- The sequence of a transaction from its start, as far as the lanes' issues are known; `over_` says which costs exceed the
budget (R230). -/
def Arch.txSeq (a start : Arch) (t : Tx) (over_ : Cost → Bool) : TxNext :=
  let a0 := { a with fairF := start.fairF, fairC := start.fairC, fairNext := start.fairNext, retired := start.retired }
  let q : TxSeq :=
    { a := a0
      left := (t.lanes.map fun x => { lane := x.lane, placed := 0, rest := x.trace })
        ++ ((t.early.map (·.lane)).filter fun l => (t.lane? l).isNone).map fun l => { lane := l, placed := 0, rest := [] }
      meets := t.early.filter fun x => !t.entered x.lane
      depths := (lanesOf t.initial).map fun l => (l, 1), clocks := [], cost := t.cost }
  TxSeq.run t a over_ ((t.lanes.map fun x => x.trace.length).sum + 1) (q.place a)

/-- What becomes of a transaction after an issue. -/
inductive TxFate where
  | going
  /-- It commits, with the counts of the sequence. -/
  | commit (a : Arch)
  /-- A lane read a clock that the sequence does not give, or has paused where the sequence needs its next issue: the lanes run
  again with the sequence's values, and further where `more` says so (R232). -/
  | again (clocks : List ((Nat × Nat) × Nat)) (more : Bool)
  | stop (x : TxStop) (depth : Nat)
  deriving DecidableEq, Repr

/-- Clock values read in a transaction that the sequence does not give. -/
def Tx.clocksWrong (t : Tx) (clocks : List ((Nat × Nat) × Nat)) : Bool :=
  t.lanes.any fun x => x.trace.zipIdx.any fun p => match p.1.clock with
    | none => false
    | some v => match getKey (x.lane, p.2) clocks with
      | some u => u != v
      | none => false

/-- The lanes run again: the sequence, as far as it comes, gives another value for a clock read in it (R232), and these values have
not been tried. Where they have, or 4,096 passes have found none, the lanes' own values stand. DEDUCED: log 15. -/
def Tx.rerun (t : Tx) (clocks : List ((Nat × Nat) × Nat)) : Bool :=
  t.clocksWrong clocks && !t.tried.contains clocks && decide (t.tried.length < 4096)

/-- The fate of a transaction (R229, R230, R232). DEDUCED: log 16. -/
def Arch.txFate (a start : Arch) (t : Tx) (over_ : Cost → Bool) : TxFate :=
  if (upTo 32).any t.runs then .going
  else match a.txSeq start t over_ with
    | .over q =>
      if t.rerun q.clocks then .again q.clocks false
      else .commit { q.a with retired := q.a.retired + (q.left.map fun x => (x.rest.filter fun k => k.stop.isNone).length).sum }
    | .stop x d clocks => if t.rerun clocks then .again clocks false else .stop x d
    | .stuck clocks => if t.rerun clocks then .again clocks false else .going
    | .need m clocks => if (lanesOf m).any t.paused then .again clocks true else .going
    | .go _ => .going

/-- The warp after its transaction: the counts and the fairness state of the sequence that R249 gives for the warp as a
whole, and every entering lane Ready at the word after its TXEND (R229, R232). DEDUCED: log 15. -/
def Arch.txMerge (a start : Arch) (t : Tx) : Arch :=
  let r := match a.txFate start t fun _ => false with | .commit r => r | _ => start
  let a := { a with fairF := r.fairF, fairC := r.fairC, fairNext := r.fairNext, retired := r.retired, tx := none }
  a.waits.foldl (fun a w => match w.kind with | .txend => a.release w.lanes w.next | _ => a) a

end Sys2Proof.Machine
end

