-- ==== Sys2Proof/Machine/Issue.lean ====
section
/-! DEFINITION. One issue of a warp: the order of checks (R77, R78), the accesses that an issue
makes through its chunk (R173, R174, R203 to R205), and how it retires, cuts, squashes or aborts the chunk (R43, R172,
R178, R193, R194, R230, R414). Every core instruction's meaning is `issue` over its own effect. -/

namespace Sys2Proof.Machine

/-! ### Chunks -/

/-- A chunk that begins at the warp's present state. -/
def Chunk.fresh (a : Arch) : Chunk :=
  { start := a, base := 0, count := 0, ended := false, writes := [], kept := [], keptQueued := [], reads := [], pageReads := []
    resets := [], logged := [], queued := [], pages := [], exiting := 0, halt := none, conflicts := 0, budget := 0
    soft := 0, pregrant := .none, firstStore := [], poolSince := none }

/-- The chunk holds something: an issue, or what an irrevocable issue left to it (log 20). -/
def Chunk.begun (c : Chunk) : Bool := c.count != 0 || !c.kept.isEmpty || !c.keptQueued.isEmpty

/-- A squash (R178): the state of the chunk's start, with what the chunk counts kept, except that soft-error squashes are then
no longer in a row (R354). DEDUCED: log 20. -/
def Warp.squash (w : Warp) : Warp :=
  let c := w.chunk
  { w with
    arch := c.start
    chunk := { Chunk.fresh c.start with
      base := c.base, count := c.base, writes := c.kept, kept := c.kept, queued := c.keptQueued
      keptQueued := c.keptQueued, firstStore := c.keptFirst, keptFirst := c.keptFirst
      bypass := c.bypass.filter fun x => c.kept.any fun p => p.1.line == x
      conflicts := c.conflicts, budget := c.budget, pregrant := c.pregrant } }

/-- A conflict squash counts towards the pre-grant (R178); a holder's chunk is never squashed so. -/
def Warp.squashConflict (w : Warp) : Warp :=
  let x := w.squash
  let n := x.chunk.conflicts + 1
  { x with chunk := { x.chunk with
      conflicts := n
      pregrant := if n = 3 && x.chunk.pregrant == .none then .waiting else x.chunk.pregrant } }

/-- Squashes saturate in the completion record (R82, R288). -/
def State.countSquash (s : State) (l : Nat) : State := s.mapLaunch l fun x => { x with squash := x.squash + 1 }

/-- Gives up the pre-grant, or the place in its queue, that a warp's chunk holds (R178). -/
def State.releasePregrant (s : State) (w : WarpId) : State :=
  match s.launch? w.launch with
  | none => s
  | some l => s.mapPart l.ctx.part fun p =>
    { p with
      pregrant := if p.pregrant == some w then none else p.pregrant
      pregrantQueue := p.pregrantQueue.filter fun x => x ≠ w }

/-- The bytes of undo log that an item costs (R193). -/
def Item.cost : Item → Nat
  | .v _ => 128
  | .ret _ | .lanes => 16
  | _ => 8

def Cost.undo (c : Cost) : Nat := c.items.foldl (fun n x => n + x.cost) 0

/-- What a chunk has taken of its budget. -/
def Chunk.cost (c : Chunk) : Cost := { items := c.logged, reads := c.reads, writes := c.writes.map (·.1) }
def Chunk.undo (c : Chunk) : Nat := c.cost.undo

/-- The line that an access is recorded under: a 1 KiB sector in a transposable region, else a line of 128 bytes (R173). -/
def State.setEntry (s : State) (x : Loc) : Loc :=
  match x.space with
  | .region p => match s.regionAt p x.addr with
    | some (_, r) => if r.trans then { x with addr := x.addr / 1024 * 1024 } else x.line
    | none => x.line
  | _ => x.line

/-- Distinct elements. -/
def distinct {α : Type} [DecidableEq α] : List α → List α
  | [] => []
  | x :: xs => if xs.contains x then distinct xs else x :: distinct xs

/-- Memory locations of a list, without scratchpad. -/
def memLocs (l : List Loc) : List Loc := l.filter fun x => !x.space.isSpad

/-- Entries of the read set: lines with a read bit. A line of which only words that the chunk had written are read counts as
none. DESIGN CHOICE: log 67. -/
def Cost.readEntries (c : Cost) (s : State) : Nat := (distinct ((memLocs c.reads).map s.setEntry)).length
def Cost.writeEntries (c : Cost) (s : State) : Nat := (distinct ((memLocs c.writes).map s.setEntry)).length
def Cost.specLines (c : Cost) : List Loc := distinct ((memLocs c.writes).map Loc.line)

def Chunk.readEntries (c : Chunk) (s : State) : Nat := c.cost.readEntries s
def Chunk.writeEntries (c : Chunk) (s : State) : Nat := c.cost.writeEntries s
def Chunk.specLines (c : Chunk) : List Loc := c.cost.specLines

/-- Chunks of the other warps of a core (R414). -/
def State.coreChunks (s : State) (core : Nat) (w : WarpId) : List Chunk :=
  s.launches.flatMap fun l => (l.groups.filter fun g => g.core == core && g.resident).flatMap fun g =>
    g.warps.zipIdx.filterMap fun p => if WarpId.mk l.num g.index p.2 = w then none else some p.1.chunk

/-- Lines of a core's L1 outside the undo buffer (R16, R17). -/
def State.l1Lines (s : State) (core : Nat) : Nat := (786432 - Config.undoBuffer - (getKey core s.splits).getD 0) / 128

/-- What a chunk would take exceeds its budget: R193 in reproducible mode, R414 in free mode. -/
def State.overBudget (s : State) (repro : Bool) (core : Nat) (w : WarpId) (c : Cost) : Bool :=
  if repro then
    decide (Config.undoBudget < c.undo) || decide (Config.lineBudget < c.specLines.length)
      || decide (Config.setBudget < c.readEntries s)
  else
    let others := s.coreChunks core w
    decide (Config.undoBuffer < c.undo + (others.map Chunk.undo).sum)
      || decide (s.l1Lines core < c.specLines.length + (others.map fun x => x.specLines.length).sum)
      || decide (Config.setBudget < c.readEntries s) || decide (Config.setBudget < c.writeEntries s)

/-- Chunk length in force (R172, R194). -/
def chunkLimit (l : Launch) (repro : Bool) (c : Chunk) : Nat :=
  if repro then max (l.fields.chlen / 2 ^ c.budget) 1 else l.fields.chlen

/-! ### An issue in progress -/

/-- What stops an issue before it retires. -/
inductive Stop where
  /-- A fault: the state is that before the issue (R77), but for the lines of windows that it has filled (R112). -/
  | fault (f : FaultInfo) (s : State)
  /-- A fault of an irrevocable access: the singletons already performed stay (R188). -/
  | keep (f : FaultInfo) (s : State)
  /-- The chunk ends before the instruction, which has not issued (R172). -/
  | before
  /-- The transaction aborts (R230). -/
  | abort (cause code : Nat)
  /-- The issue waits as a whole, and has not been counted (R187, R397); in reproducible mode it keeps its turn (R191). -/
  | hold
  /-- The same, where in reproducible mode the warp's turn passes: what it waits for publishes in a later round (R166,
  R192). -/
  | pass

/-- A warp's issue as its effect sees it: the machine, the warp being changed (the machine's own copy of it is the one
before the issue), its launch and group, and the word's address, successor, lanes and active lanes. -/
structure Iss where
  s : State
  w : Warp
  l : Launch
  g : Group
  wid : WarpId
  pc : Nat
  next : Nat
  lanes : LaneMask
  active : LaneMask
  /-- The issue has made an irrevocable access (R188). -/
  irrev : Bool

/-- An effect's answer. -/
abbrev Eff (α : Type) := Except Stop α

/-- How an instruction issues. -/
structure Kind where
  g : Guard
  size : Nat := 8
  /-- Source and destination registers with the 32-bit registers that they occupy (R34, R351). -/
  srcs : List (Reg × Nat) := []
  dsts : List (Reg × Nat) := []
  /-- Registers that are read in other lanes than the lane's own (R142, R145). -/
  others : List (Reg × Nat) := []
  preds : List PSrc := []
  /-- Other state read (R351). -/
  reads : List Item := []
  /-- Legality that depends on the issuing launch (R21, R147, R153, R266). -/
  check : Launch → WarpId → Bool := fun _ _ => true
  firmware : Bool := false
  endsBefore : Bool := false
  endsAfter : Bool := false
  /-- Aborts a transaction with cause FORBIDDEN (R230). -/
  forbidden : Bool := false
  /-- Counts as a backward branch where a lane's target is at or below the word (R251). -/
  branch : Bool := false
  /-- YIELD.ROT (R268). -/
  rot : Bool := false
  /-- Pair words have no guard (R48). -/
  pair : Bool := false
  /-- Acts once for the lanes that share an issue of a transaction (R35, R205, R232), and where else it writes. -/
  once : Bool := false
  oncePred : Option Nat := none
  onceReg : Option Reg := none
  /-- The lanes that the issuing lanes wait for (R264), and whether it reads the clock (R43, R232). -/
  meets : Iss → Option LaneMask := fun _ => none
  clock : Bool := false

def Iss.ctx (i : Iss) : CtxKey := i.l.ctx
def Iss.core (i : Iss) : Nat := i.g.core
def Iss.arch (i : Iss) : Arch := i.w.arch
def Iss.repro (i : Iss) : Bool := i.s.reproOf i.l.ctx
def Iss.mapArch (i : Iss) (f : Arch → Arch) : Iss := { i with w := { i.w with arch := f i.w.arch } }
def Iss.mapChunk (i : Iss) (f : Chunk → Chunk) : Iss := { i with w := { i.w with chunk := f i.w.chunk } }

/-- The active lanes in ascending order (R204). -/
def Iss.activeLanes (i : Iss) : List Nat := lanesOf i.active

/-- The lowest active lane, which stands for a uniform issue (R78). -/
def Iss.lane (i : Iss) : Nat := lowestLane i.active

def Iss.faultInfo (i : Iss) (c : Code) (lane addr : Nat) : FaultInfo :=
  { code := c, lane := lane, warp := i.wid.warp, group := i.wid.group, pc := i.pc, addr := addr }

/-- A fault of the issue, for a lane and an address. DEDUCED: log 18. -/
def Iss.fault {α : Type} (i : Iss) (c : Code) (lane addr : Nat) : Eff α :=
  .error (if i.irrev then .keep (i.faultInfo c lane addr) i.s else .fault (i.faultInfo c lane addr) i.s)

/-! ### Registers in an issue -/

/-- Logs first writes in the undo buffer (R174). -/
def Iss.log (i : Iss) (xs : List Item) : Iss :=
  i.mapChunk fun c => { c with
    logged := xs.foldl (fun l x => insertNew x l) c.logged
    touched := { c.touched with items := xs.foldl (fun l x => insertNew x l) c.touched.items } }

/-- The write overwrites the whole of the poisoned state: a lane's part of a v register, a predicate in every lane, or other
state of the warp. A predicate of which some lanes are not written stays poisoned (R341). DESIGN CHOICE: log 54. -/
def overwrites (m : LaneMask) (p : Item × Nat) : Bool :=
  if p.2 = 32 then (match p.1 with | .p _ => m == ~~~(0 : LaneMask) | _ => true) else laneOn m p.2

/-- A write clears the poison of what it overwrites (R351, R352). -/
def clearPoison (xs : List Item) (m : LaneMask) (l : List (Item × Nat)) : List (Item × Nat) :=
  l.filter fun p => !(xs.contains p.1 && overwrites m p)

def Iss.reg (i : Iss) (r : Reg) (l : Nat) : Word := i.w.arch.reg r l
def Iss.val (i : Iss) (r : Reg) (l w : Nat) : Nat := i.w.arch.val r l w

/-- Writes an operand of `w` registers in every active lane, or once for an s register (R35). -/
def Iss.write (i : Iss) (r : Reg) (w : Nat) (f : Nat → Nat) : Iss :=
  (i.log (regItems r w)).mapArch fun a =>
    { a.setLanes r w i.active f with poison := clearPoison (regItems r w) i.active a.poison }

/-- Writes an operand in one lane; an s register is the same for every lane. -/
def Iss.writeLane (i : Iss) (r : Reg) (w l x : Nat) : Iss :=
  (i.log (regItems r w)).mapArch fun a =>
    { a.setVal r l w x with poison := clearPoison (regItems r w) (laneBit l) a.poison }

/-- Writes a predicate in the active lanes (R116). -/
def Iss.writePred (i : Iss) (p : Nat) (f : Nat → Bool) : Iss :=
  (i.log [.p p]).mapArch fun a =>
    { a.setPred p i.active f with poison := clearPoison [.p p] i.active a.poison }

/-- Raises floating-point flags; a raise that changes nothing logs nothing (R38, R193). -/
def Iss.raise (i : Iss) (f : Fl) : Iss :=
  if (i.w.arch.raise f).flags = i.w.arch.flags then i else (i.log [.flags]).mapArch fun a => a.raise f

/-- Sets a handle register. -/
def Iss.setHandle (i : Iss) (h : Nat) (x : Option HReg) : Iss :=
  (i.log [.h h]).mapArch fun a => { a with h := a.h.set h x, poison := clearPoison [.h h] 0 a.poison }

/-- Moves lanes to targets. -/
def Iss.jump (i : Iss) (m : LaneMask) (f : Nat → Nat) : Iss := i.mapArch fun a => a.setPc m f

/-- The issuing lanes wait at the word (R254). -/
def Iss.wait (i : Iss) (m : LaneMask) (k : WaitKind) : Iss :=
  i.mapArch fun a =>
    { (a.setPc m fun _ => i.pc).setSt m .waiting with
      waits := a.waits ++ [{ lanes := m, active := i.active, pc := i.pc, next := i.next, kind := k }] }

/-- An operation that the chunk's commit releases (R174). -/
def Iss.queue (i : Iss) (r : Release) : Iss := i.mapChunk fun c => { c with queued := c.queued ++ [r] }

/-- Groups of a launch (R21, R273). -/
def LaunchRec.groups (f : LaunchRec) : Nat := f.gx * f.gy * f.gz

/-- A handle register names a new operation, Pending; the record itself is made at the commit (R241). Answers its number,
which tells the group, the warp and the operation's place in the warp's program. -/
def Iss.newRec (i : Iss) (h : Nat) : Iss × Nat :=
  let n := i.w.arch.opCount * (32 * i.l.fields.groups) + i.wid.group * 32 + i.wid.warp
  ((i.setHandle h (some { num := n })).mapArch fun a => { a with opCount := a.opCount + 1 }, n)

/-! ### Memory in an issue -/

/-- The chunk's view of one byte (R174, R180, R220). -/
def Iss.readByte (i : Iss) (x : Loc) : Byte :=
  match getKey x i.w.chunk.writes with
  | some b => b
  | none => if i.w.chunk.resets.contains x.page then i.s.defaultAt x else i.s.byteAt x

def Chunk.owns (c : Chunk) (x : Loc) : Bool := (getKey x c.writes).isSome || c.resets.contains x.page

/-- The word's write bit is set: the chunk has written a byte of it, or has reset its page (R173, R220). -/
def Chunk.wrote (c : Chunk) (x : Loc) : Bool := c.writes.any (fun p => p.1.word == x.word) || c.resets.contains x.page

/-- Read bits: a read sets a word's read bit only if its write bit is still clear (R173). -/
def Chunk.noteRead (c : Chunk) (xs : List Loc) : Chunk :=
  { c with
    reads := xs.foldl (fun l x => if c.wrote x then l else insertNew x.word l) c.reads
    touched := { c.touched with
      reads := xs.foldl (fun l x => if c.resets.contains x.page then l else insertNew x.word l) c.touched.reads } }

def Iss.noteRead (i : Iss) (xs : List Loc) : Iss := if i.irrev then i else i.mapChunk fun c => c.noteRead xs

def inRange (x : Loc) (r : Loc × Nat) : Bool :=
  x.space == r.1.space && decide (r.1.addr ≤ x.addr) && decide (x.addr < r.1.addr + r.2)

/-- A row of the run, once it is pinned, holds the byte. -/
def Run.covers (r : Run) (x : Loc) : Bool := r.locs.any fun l => l.contains { x with addr := x.addr / 2048 * 2048 }

/-- A core access in reproducible mode waits for a near-bank run over its row (R192, R378): one that an NBRUN released from
its release on, that of a launch record from its pinning on. DEDUCED: log 19. -/
def State.underRun (s : State) (x : Loc) : Bool :=
  s.runs.any (fun r => r.covers x) || s.ops.any fun o => (match o.kind with | .run => o.sources.any (inRange x) | _ => false)

/-- Any of some bytes lies in any of some ranges. -/
def touchesAny (xs : List Loc) (rs : List (Loc × Nat)) : Bool := xs.any fun x => rs.any (inRange x)

/-- The operation has taken what it reads: a COPY its snapshot, a tile operation all it needs (R156, R236, R384). -/
def Op.settled (o : Op) : Bool :=
  match o.kind with
  | .copy _ => o.shadow.isSome
  | .tile _ => o.finished
  | .coll _ => true
  | .red _ => true
  | .run => false

/-- A write by an agent other than a warp's chunk must wait for an operation that still reads the bytes (R156, R183). -/
def State.sourceHeld (s : State) (self : Option Nat) (xs : List Loc) : Bool :=
  s.ops.any fun o => self != some o.num && !o.settled && (match o.kind with | .run => false | _ => touchesAny xs o.sources)

/-- The machine with the operations and runs of one context alone. In reproducible mode a turn passes only for a wait that the
context's own operations give; where another context's make it, the warp keeps its turn, so that the order of commits is that
of a run without them (R4, R191). -/
def State.only (s : State) (c : CtxKey) : State :=
  let ops := s.ops.filter fun o => match s.launch? o.launch with | some l => l.ctx == c | none => false
  { s with
    ops := ops
    runs := s.runs.filter fun r => r.ctx == c
    engines := s.engines.map fun e => { e with queue := e.queue.filter fun n => ops.any fun o => o.num == n } }

/-- Translation for the issuing core, with its checks; a walk waits for a half that the host owns (R187). The chunk keeps the
pages whose translations it uses (R326). -/
def Iss.xlate (i : Iss) (lane va : Nat) (acc : Access) (atomic : Bool := false) : Eff (Iss × Loc × Option (Nat × Region)) :=
  if i.s.walkOwned i.ctx i.core va then .error .hold
  else match i.s.xlate i.ctx i.core va acc atomic with
  | .error c => { i with s := i.s.walkFill i.ctx i.core va }.fault c lane va
  | .ok x =>
    .ok (({ i with s := x.s }.mapChunk fun c => { c with pages := insertNew (va % 2 ^ 57 / 65536) c.pages }), x.loc, x.region)

/-- Ports that lead to a peer (R396). -/
def State.peerPorts (s : State) (n : Nat) : List Nat := (upTo 24).filter fun k => (s.routes.getD n 0).getLsbD k

/-- The port that a core uses for a peer is stopped for requests (R396, R397). -/
def State.portClosed (s : State) (core n : Nat) : Bool :=
  let ps := s.peerPorts n
  match ps[core % ps.length]? with
  | some p => s.xoff.contains (p, 0)
  | none => false

/-- The link exists from step 5 of a bring-up on, carries requests, and its bridge is in service (R360, R389, R399). -/
def State.hostThere (s : State) : Bool :=
  s.lwidth != 0 && s.linkIn.state != .down && s.linkOut.state != .down && !s.lost.contains .hostBridge

/-- The agent at the other end of a location's link cannot be sent a request: its port is stopped, it is lost, or the link is
down (R360, R389, R397). -/
def State.unreachable (s : State) (core : Nat) (x : Loc) : Bool :=
  match x.space with
  | .peer n => s.portClosed core n || s.lost.contains (.peer n)
  | .host => !s.hostThere
  | _ => false

/-- The peer refuses the access, and completes it with poison (R325, R397). DESIGN CHOICE: log 13. -/
def State.refuses (s : State) (x : Loc) : Bool :=
  match x.space with | .peer n => Config.peerRefuses s.steps n (x.addr / 65536) | _ => false

/-- The bridge cache holds the host line: 4 MiB of 64-byte lines, the newest first (R394). -/
def State.noteBridge (s : State) (x : Loc) : State :=
  if x.space == .host then { s with bridge := (x.half :: s.bridge.filter fun y => y ≠ x.half).take 65536 } else s

/-- An irrevocable location ends the chunk first, and aborts a transaction (R188, R230). Where a lane's request cannot be sent,
the whole issue waits. DEDUCED: log 57. -/
def Iss.irrevocable (i : Iss) (x : Loc) : Eff Iss :=
  if !x.space.irrevocable then .ok i
  else if i.w.arch.tx.isSome then .error (.abort 5 0)
  else if !i.irrev && i.w.chunk.begun then .error .before
  else if i.s.unreachable i.core x then .error .hold
  else .ok { i with irrev := true, s := i.s.noteBridge x }

/-- The row-view byte of a column-view offset within a sector (R212). -/
def columnByte (es o : Nat) : Nat := 32 * (o % (32 * es) / es) + es * (o / (32 * es)) + o % es

/-- The bytes of a device access of `size` bytes at `va`, checked in the order of R78 (R203, R213). A store that takes its place
in the order at once waits for an operation that still reads the bytes (R183). An atomic or a ring
operation raises ADDRESS at an irrevocable location (R224), with the mapping. -/
def Iss.device (i : Iss) (lane va size : Nat) (col : Bool) (acc : Access) (atomic : Bool := false) :
    Eff (Iss × List Loc) :=
  if va % size ≠ 0 then i.fault .misaligned lane va
  else
    let shape : Eff (Option Region) :=
      if !col then .ok none
      else match i.s.regionAt i.ctx.part (va % 2 ^ 57) with
        | none => i.fault .address lane va
        | some (_, r) =>
          if !canonical va || !r.trans then i.fault .address lane va
          else if size < r.esBytes then i.fault .misaligned lane va
          else .ok (some r)
    shape.bind fun sh =>
      (i.xlate lane va acc atomic).bind fun (j, x, _) =>
        (j.irrevocable x).bind fun k =>
          let ys := (upTo size).map x.plus
          if k.repro && k.s.underRun x then .error (if (k.s.only k.ctx).underRun x then .pass else .hold)
          else if acc == .write && k.irrev && k.s.sourceHeld none ys then
            .error (if k.repro && (k.s.only k.ctx).sourceHeld none ys then .pass else .hold)
          else match sh with
            | none => .ok (k, ys)
            | some r =>
              .ok (k, (upTo size).map fun n => { x with addr := x.addr / 1024 * 1024 + columnByte r.esBytes (x.addr % 1024 + n) })

/-- Bytes of the group's scratchpad portion (R273). -/
def Launch.portion (l : Launch) : Nat := alignUp l.fields.spad 256

/-- The bytes of a scratchpad access (R203). -/
def Iss.scratch (i : Iss) (lane ea size : Nat) : Eff (Iss × List Loc) :=
  if ea % size ≠ 0 then i.fault .misaligned lane ea
  else if i.l.portion < ea + size then i.fault .address lane ea
  else .ok (i, (upTo size).map fun n => { space := .spad i.wid.launch i.wid.group, addr := ea + n })

/-- A load: it waits for a half that the host owns (R187), poisoned data is consumed (R353, R397), lines of windows are filled
(R112) but by a bypass access (R209), read bits are set, and the value is little-endian. -/
def Iss.load (i : Iss) (lane va : Nat) (xs : List Loc) (bypass : Bool := false) : Eff (Iss × Nat) :=
  if xs.any i.s.hostOwns then .error .hold
  else if xs.any fun x => (!i.w.chunk.owns x && i.s.isPoisoned x) || i.s.refuses x then i.fault .poison lane va
  else .ok ({ i with s := if bypass then i.s else i.s.fillLines xs }.noteRead xs, leNat (xs.map i.readByte))

/-- Words that a store writes in part, and that the chunk then holds beside bytes that it has not written. -/
def partWords (xs : List Loc) : List Loc :=
  xs.filter fun x => !((upTo 4).all fun n => xs.contains (x.word.plus n))

/-- What a store writes into a chunk (R174). A word of which it writes a part counts as read, since its write bit hides a later
read of its other bytes, which come from committed memory (R173, R180). DEDUCED: log 68. -/
def Chunk.store (c : Chunk) (xs : List Loc) (bs : List Byte) : Chunk :=
  { c.noteRead (partWords xs) with
    writes := (xs.zip bs).foldl (fun l p => setKey p.1 p.2 l) c.writes
    touched := { (c.noteRead (partWords xs)).touched with
      writes := xs.foldl (fun l x => insertNew x.word l) c.touched.writes } }

/-- A store: into the chunk, or at once for an irrevocable access (R174, R188), which a peer may refuse (R397). -/
def Iss.store (i : Iss) (lane : Nat) (xs : List Loc) (bs : List Byte) : Iss :=
  if xs.any fun x => x.space.irrevocable then
    { i with s := if xs.any i.s.refuses then i.s else (xs.zip bs).foldl (fun s p => s.putByte p.1 p.2) i.s }
  else
    let spadWords := (xs.filter fun x => x.space.isSpad).map fun x => Item.spad (x.addr / 4)
    (i.log spadWords).mapChunk fun c =>
      { c.store xs bs with
        firstStore := (xs.zip bs).foldl (fun l p =>
          if p.1.space.isSpad || p.2 == i.s.defaultAt p.1 || l.any fun q => q.1 = p.1.page then l
          else l ++ [(p.1.page, i.pc, lane)]) c.firstStore }

/-- An effect for each of some lanes in turn. -/
def Iss.eachLane (i : Iss) (f : Iss → Nat → Eff Iss) : List Nat → Eff Iss
  | [] => .ok i
  | l :: ls => (f i l).bind fun j => j.eachLane f ls

/-- The lanes that make an access: one when address and data are uniform (R205). -/
def Iss.accessLanes (i : Iss) (once : Bool) : List Nat := if once then [i.lane] else i.activeLanes

/-! ### The issue -/

/-- The machine without its issue in progress. -/
def State.unissued (s : State) : State := { s with issuer := none }

/-- The issue that the machine is running, none where no warp issues. -/
def State.issueOf (s : State) (k : Kind) : Option Iss :=
  s.issuer.bind fun x => (s.launch? x.wid.launch).bind fun l => (l.group? x.wid.group).bind fun g =>
    g.warps[x.wid.warp]?.map fun w =>
      { s := s.unissued, w := w, l := l, g := g, wid := x.wid, pc := x.pc
        next := (x.pc + k.size) % 2 ^ 64, lanes := x.lanes
        active := if k.pair then x.lanes else w.arch.active x.lanes k.g, irrev := false }

/-- R34 for every register operand. -/
def Kind.regsOk (k : Kind) (l : Launch) : Bool := (k.srcs ++ k.dsts ++ k.others).all fun p => regWithin l.fields.regs p.1 p.2

/-- The lowest active lane that would consume poisoned registers (R351, R353). -/
def Iss.poisonLane (i : Iss) (k : Kind) : Option Nat :=
  let items := k.srcs.flatMap (fun p => regItems p.1 p.2) ++ k.preds.map (fun p => Item.p p.p.val)
    ++ [Item.p k.g.p.val] ++ k.reads
  i.activeLanes.find? fun l => i.w.arch.poison.any fun p => items.contains p.1 && (p.2 == 32 || p.2 == l)

/-- The lanes continue at the next word (R249). -/
def Iss.advance (i : Iss) : Iss := i.mapArch fun a => a.setPc i.lanes fun _ => i.next

/-- The index of this issue among the first entering lane's issues, when the lane's path has not left that lane's (R232). -/
def Tx.shares (t : Tx) (l pc : Nat) : Option TxStep :=
  match t.lane? l with
  | none => none
  | some x =>
    if !x.entered || !x.shared || l == t.first then none
    else match t.lead[x.trace.length]? with
      | some st => if st.pc = pc then some st else none
      | none => none

/-- The lane whose serial pass this issue belongs to. -/
def Iss.txLane (i : Iss) : Option (Tx × Nat) :=
  match i.w.arch.tx with
  | none => none
  | some t => let l := lowestLane i.lanes; if t.runs l then some (t, l) else none

/-- The lane leaves the first lane's path: from here on it acts for itself. -/
def Tx.leave (t : Tx) (l : Nat) : Tx :=
  { t with lanes := t.lanes.map fun x => if x.lane = l then { x with shared := false } else x }

/-- Uniform registers at the start of an issue of a serial pass: the first lane's at a shared issue, those at the end of the
lanes before when the path has just left the first lane's. -/
def Iss.txBefore (i : Iss) : Iss :=
  match i.txLane with
  | none => i
  | some (t, l) =>
    match t.shares l i.pc with
    | some st => i.mapArch fun a => { a with s := st.before }
    | none =>
      if l != t.first && (match t.lane? l with | some x => x.shared | none => false) then
        i.mapArch fun a => { a with s := t.sEnd, tx := some (t.leave l) }
      else i

/-- The effect of an issue of a serial pass: an instruction that acts once takes the first lane's result, unless its guard was
false there (R261). -/
def Iss.effect (i : Iss) (k : Kind) (eff : Iss → Eff Iss) : Eff Iss :=
  match i.txLane with
  | none => eff i
  | some (t, l) =>
    match t.shares l i.pc with
    | some st =>
      if k.once && !st.active then eff (i.mapArch fun a => { a with tx := some (t.leave l) })
      else if k.once then
        let j := i.mapArch fun a => { a with s := st.after }
        let j := match k.oncePred with | some p => j.writePred p fun _ => st.pred | none => j
        let j := match k.onceReg with | some r => if r.isV then j.write r 1 fun _ => st.value.toNat else j | none => j
        .ok (if k.branch then j.jump i.active fun _ => st.target else j)
      else eff i
    | none => eff i

/-- The fault comes before the POISON of a register that lane `p` reads, its check 5: a fault of the warp, or one of a lane
up to `p` (R77, R78, R353). -/
def FaultInfo.before (f : FaultInfo) (p : Nat) : Bool := f.code.ofWarp || decide (f.lane ≤ p)

/-- An issue of which lane `p` is the lowest that reads poisoned state: the lanes below it come first. -/
def Iss.poisoned (i : Iss) (p : Nat) (eff : Iss → Eff Iss) : Eff Iss :=
  let below : LaneMask := i.active &&& maskOf fun l => decide (l < p)
  let low : Eff Iss := if below = 0 then .ok i else eff { i with active := below }
  let rest : Eff Iss := match low with
    | .ok j => { i with irrev := j.irrev, s := j.s }.fault .poison p 0
    | .error e => .error e
  match eff i with
  | .error (.fault f s) => if f.before p then .error (.fault f s) else rest
  | .error (.keep f s) => if f.before p then .error (.keep f s) else rest
  | _ => rest

/-- The checks of R77 after the encoding, and the effect. -/
def Iss.attempt (i : Iss) (k : Kind) (eff : Iss → Eff Iss) : Eff Iss :=
  if !k.regsOk i.l || !k.check i.l i.wid then i.fault .illegalInstr 0 0
  else if k.firmware && !i.ctx.fw then i.fault .protection 0 0
  else if i.active = 0 then .ok i.advance
  else if k.forbidden && i.w.arch.tx.isSome then .error (.abort 5 0)
  else if k.endsBefore && i.w.arch.tx.isNone && i.w.chunk.begun then .error .before
  else match i.poisonLane k with
    | some l => i.advance.txBefore.poisoned l fun j => j.effect k eff
    | none => i.advance.txBefore.effect k eff

/-! ### Retiring -/

/-- A backward branch was taken: some active lane has moved to or below the word (R251). -/
def Iss.backTaken (i : Iss) (k : Kind) (l : Nat) : Bool :=
  k.branch && laneOn i.active l && i.w.arch.stOf l == .ready && decide (i.w.arch.pcOf l ≤ i.pc)

/-- What an issue `b` counts as for one of its lanes (R251). -/
def Iss.txTurn (i : Iss) (k : Kind) (l : Nat) : TxTurn :=
  if i.backTaken k l then .back else if k.rot && laneOn i.active l then .rot else .plain

/-- Issues of the warp that retired before this one (R43): in a transaction those that the sequence of R249 gives, once it is
known, else those on the lane's own path (R232; log 15). -/
def Iss.retiredBefore (i : Iss) (l : Nat) : Nat :=
  match i.w.arch.tx with
  | none => i.w.arch.retired
  | some t => match t.lane? l with
    | none => i.w.arch.retired
    | some x => (getKey (l, x.trace.length) t.clocks).getD (i.w.arch.retired + x.trace.length)

/-- Adds an issue to the path of each of its lanes. -/
def Tx.mark (t : Tx) (lanes : LaneMask) (f : Nat → TxMark) (stopped : Bool) : Tx :=
  let add (ls : List TxLane) (l : Nat) : List TxLane :=
    if ls.any fun x => x.lane == l then
      ls.map fun x => if x.lane = l then { x with trace := x.trace ++ [f l], stopped := stopped } else x
    else ls ++ [{ lane := l, entered := false, depth := 0, trace := [f l], shared := false, done := false, stopped := stopped }]
  { t with lanes := (lanesOf lanes).foldl add t.lanes }

/-- The record of an issue in the transaction: each lane's path, and the first lane's step (R232); `b` is the issue before
it. -/
def Tx.record (t : Tx) (i b : Iss) (before : List Word) (k : Kind) : Tx :=
  let l := lowestLane i.lanes
  let step : TxStep :=
    { pc := i.pc, before := before, after := i.w.arch.s
      pred := (match k.oncePred with | some p => i.w.arch.pred p l | none => false)
      value := (match k.onceReg with | some r => i.w.arch.reg r l | none => 0), target := i.w.arch.pcOf l
      active := laneOn b.active l }
  let lead := if l = t.first && t.entered l then t.lead ++ [step] else t.lead
  { t.mark i.lanes (fun n =>
      { pc := i.pc, turn := i.txTurn k n
        meets := (k.meets b).bind fun m => if laneOn (b.active &&& m) n then some m else none
        clock := if k.clock && b.repro && laneOn b.active n then some (b.retiredBefore n) else none
        depth := t.depth n, stop := none, cost := i.w.chunk.touched }) false with
    lead := lead }

/-- A lane of the transaction that has just finished leaves the uniform registers as R35 and R232 ask. -/
def Arch.txClose (a : Arch) (l : Nat) : Arch :=
  match a.tx with
  | none => a
  | some t =>
    if !t.done l then a
    else if l = t.first || !(match t.lane? l with | some x => x.shared | none => false) then
      { a with tx := some { t with sEnd := a.s } }
    else { a with s := t.sEnd }

/-- The issue has consumed the warp's yield record: the fairness state is that of the record (R252, R292, R303). -/
def Arch.resumed (a a0 : Arch) : Bool := a0.yrec.isSome && a.yrec.isNone

/-- The fairness issue that the warp had to make has been made. -/
def Arch.fairDone (a a0 : Arch) : Arch :=
  { a with fairNext := if a.fairNext = a0.fairNext && !a.resumed a0 then none else a.fairNext }

/-- The warp with one more issue, and the fairness state after it (R43, R251). -/
def Arch.counted (a a0 : Arch) (same back : Bool) (pc : Nat) : Arch :=
  { (if a.resumed a0 then a else a.fair same back pc) with retired := a.retired + 1 }

/-- Counting of an issue that has had its effect (R43, R251). `b` is the issue before it. -/
def Iss.retire (i b : Iss) (k : Kind) : Iss :=
  let a0 := b.w.arch
  let i := i.mapArch fun a => a.fairDone a0
  let i :=
    match a0.tx with
    | none =>
      let same := a0.ready &&& ~~~ b.lanes = 0
      let back := (lanesOf b.active).any (i.backTaken k)
      i.mapArch fun a => a.counted a0 same back i.pc
    | some _ => i
  let a1 := i.w.arch
  let changed := (a1.fairF, a1.fairC, a1.fairNext) ≠ (a0.fairF, a0.fairC, a0.fairNext) || a1.st ≠ a0.st
    || (a0.tx.isSome && (lanesOf b.active).any (i.backTaken k))
  let i := if changed then i.log [.lanes] else i
  let i := match a0.tx with
    | none => i
    | some _ =>
      i.mapArch fun a => match a.tx with
        | some t =>
          let before := (b.txBefore).w.arch.s
          ({ a with tx := some (t.record i b before k) }.txClose (lowestLane i.lanes)).wsyncRelease
        | none => a
  let i := i.mapArch fun a =>
    { a with tx := if a0.tx.isNone then a.tx.map fun t => { t with cost := i.w.chunk.touched, early := a0.meeting } else a.tx }
  i.mapChunk fun c => { c with count := (if i.irrev then 0 else c.count + 1), touched := {} }

/-- The retried chunk never redoes this issue: an irrevocable access, an instruction that waits between chunks, or the
TXBEGIN that opens the transaction (R172, R229, R231). -/
def Iss.restart (i b : Iss) (k : Kind) : Iss :=
  let opened := b.w.arch.tx.isNone && i.w.arch.tx.isSome
  if i.irrev then
    i.mapChunk fun c => { Chunk.fresh i.w.arch with
      writes := c.writes, kept := c.writes, queued := c.queued, keptQueued := c.queued, firstStore := c.firstStore
      keptFirst := c.firstStore, bypass := c.bypass, pages := c.pages }
  else if opened || (k.endsBefore && b.active != 0 && b.w.arch.tx.isNone) then
    i.mapChunk fun c =>
      { c with start := i.w.arch, base := c.count, kept := c.writes, keptQueued := c.queued, keptFirst := c.firstStore }
  else i

/-- Every lane that has not exited waits, and the chunk holds issues beside the wait's own (R172; log 14). -/
def Warp.allWait (w : Warp) : Bool :=
  w.arch.ready == 0 && w.arch.waiting != 0 && decide (w.chunk.base < w.chunk.count)

/-- What becomes of the transaction of a warp, in the budget of an issue of it. -/
def Iss.txFate (i : Iss) (w : Warp) : TxFate :=
  match w.arch.tx with
  | none => .going
  | some t => w.arch.txFate w.chunk.start t (i.s.overBudget i.repro i.core i.wid)

/-- The path of a lane of the transaction exceeds the budget by itself: the lane goes no further (R230). -/
def Iss.pathOver (i : Iss) : Bool :=
  match i.w.arch.tx with
  | none => false
  | some t => (lanesOf i.lanes).any fun l => i.s.overBudget i.repro i.core i.wid (t.pathCost l)

/-- The events of R172 that end the chunk after an issue. DEDUCED: log 48. -/
def Iss.ends (i b : Iss) (k : Kind) : Bool :=
  if i.w.arch.tx.isSome then (match i.txFate i.w with | .commit _ => true | _ => false)
  else (k.endsAfter && b.active != 0) || decide (chunkLimit i.l i.repro i.w.chunk ≤ i.w.chunk.count) || i.w.allWait

/-- The machine with the issuing warp written back. -/
def Iss.done (i : Iss) : State := i.s.mapWarp i.wid fun _ => i.w

/-- The deepest that any entering lane stands, 1 to 7 (R230). -/
def Tx.deepest (t : Tx) : Nat := min (t.lanes.foldl (fun n x => max n x.depth) 1) 7

/-- An abort (R230): the state of the outermost TXBEGIN, with tx.cause, and every entering lane at the fallback. -/
def Warp.txAbort (w : Warp) (cause code depth : Nat) : Warp :=
  match w.arch.tx with
  | none => w
  | some t =>
    let entered := maskOf t.entered
    let a := w.chunk.start
    let a := { (a.setPc entered fun _ => t.fallback).setSt entered .ready with
      tx := none
      txCause := BitVec.ofNat 32 (min depth 7 * 2 ^ 16 + code % 256 * 2 ^ 8 + cause)
      waits := a.waits.filter fun x => x.lanes &&& entered = 0 }
    { w with arch := a, chunk := Chunk.fresh a }

/-- The lanes of a transaction run again from its TXBEGIN, with the clock values of the sequence, and twice as far where `more` says
so (R232; logs 15 and 16). What passes have tried is of the warp as it stands, since the squash would forget it. -/
def Warp.txAgain (w : Warp) (clocks : List ((Nat × Nat) × Nat)) (more : Bool) : Warp :=
  let x := w.squash
  let tried := if more then [] else clocks :: (match w.arch.tx with | some t => t.tried | none => [])
  let f (a : Arch) : Arch := { a with tx := a.tx.map fun t =>
    { t with clocks := clocks, tried := tried, cap := if more then 2 * t.cap else t.cap } }
  { x with arch := f x.arch, chunk := { x.chunk with start := f x.chunk.start } }

/-- The machine once the fate of a transaction is known: it aborts (R230), faults, or runs its lanes again. -/
def State.meetFate (s : State) (id : WarpId) : TxFate → State
  | .stop (.abort cause code) depth => (s.releasePregrant id).mapWarp id fun w => w.txAbort cause code depth
  | .stop (.fault f) _ => s.takeFault id f
  | .again clocks more => s.mapWarp id fun w => w.txAgain clocks more
  | _ => s

/-- The issue as one of its lanes would make it alone. -/
def Iss.alone (b : Iss) (l : Nat) : Iss := { b with lanes := laneBit l, active := b.active &&& laneBit l }

/-- The fault of an attempt. -/
def Eff.stop? : Eff Iss → Option TxStop
  | .error (.fault f _) => some (.fault f)
  | _ => none

/-- What stops each lane of an issue of a transaction: an abort stops every one, and a fault those that it meets alone, since in the
sequence of R249 they may issue apart; the others go on. `own` tells a lane's fault. DEDUCED: log 16. -/
def Iss.stopsOf (b : Iss) (x : TxStop) (own : Nat → Option TxStop) : List (Nat × TxStop) :=
  let each := (lanesOf b.lanes).filterMap fun l => (own l).map fun y => (l, y)
  match x, each with
  | .fault _, _ :: _ => each
  | _, _ => (lanesOf b.lanes).map fun l => (l, x)

/-- The warp after its issue `b` has been stopped in a transaction: its lanes go no further (R230, R232). -/
def Iss.stopped (b : Iss) (x : TxStop) (own : Nat → Option TxStop) : Warp :=
  match b.w.arch.tx with
  | none => b.w
  | some t =>
    let stops := b.stopsOf x own
    let mark (l : Nat) : TxMark :=
      { pc := b.pc, turn := .plain, meets := none, clock := none, depth := t.depth l, stop := some ((getKey l stops).getD x) }
    { b.w with arch := { b.w.arch with tx := some (t.mark (maskOf fun l => stops.any fun p => p.1 == l) mark true) } }

/-- An issue of a transaction that cannot be: the other lanes run on, and the sequence of R249 decides which of the
transaction's aborts and faults comes first. -/
def Iss.stopTx (b : Iss) (x : TxStop) (own : Nat → Option TxStop := fun _ => none) : State :=
  let w := b.stopped x own
  match b.txFate w with
  | .commit _ => b.s.mapWarp b.wid fun _ => { w with chunk := { w.chunk with ended := true } }
  | f => (b.s.mapWarp b.wid fun _ => w).meetFate b.wid f

/-- A squash with a shorter length (R194). The chunk ends where nothing of it is left to run: at the count that it keeps, or, at
length 1, with what an irrevocable issue left to it. -/
def Iss.shorten (b : Iss) (w : Warp) : Warp :=
  let x := w.squash
  let c := { x.chunk with budget := x.chunk.budget + 1 }
  { x with chunk := { c with ended := decide (chunkLimit b.l true c ≤ c.count) || (decide (chunkLimit b.l true c ≤ 1) && c.begun) } }

/-- The issue that would exceed the budget is not kept (R194, R230, R414): a transaction aborts with CAPACITY, a
reproducible chunk squashes with a shorter length, and a free-mode chunk is cut before the instruction, or waits where it
holds nothing yet. -/
def Iss.cut (b : Iss) : State :=
  if b.w.arch.tx.isSome then b.stopTx .capacity
  else if b.repro && b.w.chunk.begun then
    (b.s.countSquash b.wid.launch).mapWarp b.wid b.shorten
  else if b.w.chunk.begun then b.s.mapWarp b.wid fun w => { w with chunk := { w.chunk with ended := true } }
  else b.s

/-- No budget cuts the issue (R194, R230, R414): in reproducible mode it is its chunk's first, it is irrevocable, or what its chunk
then takes is within the budget. In a transaction the sequence of R249 decides (R230); only a lane whose own path exceeds the
budget is cut. -/
def Iss.fits (i b : Iss) (k : Kind) : Bool :=
  let j := i.retire b k
  (j.repro && j.w.arch.tx.isNone && !b.w.chunk.begun) || j.irrev
    || (if j.w.arch.tx.isSome then !j.pathOver else !j.s.overBudget j.repro j.core j.wid j.w.chunk.cost)

/-- Completes an issue whose effect has been computed. -/
def Iss.finish (i b : Iss) (k : Kind) : State :=
  let j := i.retire b k
  if !i.fits b k then b.cut
  else
    let r := (j.restart b k).mapChunk fun c => { c with ended := c.ended || (j.restart b k).ends b k }
    r.done.meetFate r.wid (r.txFate r.w)

/-- The machine before the issue, with the lines of windows that it has filled by then (R112). -/
def State.withFills (s t : State) : State := { s with winLines := t.winLines, fwins := t.fwins }

/-- A fault of an issue: in a transaction it is the fault of its lanes, in its place of the sequence (R232). -/
def Iss.stopFault (b : Iss) (f : FaultInfo) (own : Nat → Option TxStop) : State :=
  if b.w.arch.tx.isSome then b.stopTx (.fault f) own else b.s.takeFault b.wid f

/-- The machine after an issue: faults are taken (R342), a cut or an abort changes the chunk alone. `own` tells the fault that a lane
meets alone. -/
def Iss.resolve (b : Iss) (k : Kind) (own : Nat → Option TxStop) : Eff Iss → State
  | .ok i => i.finish b k
  | .error (.fault f s) => { b with s := b.s.withFills s }.stopFault f own
  | .error (.keep f s) => s.takeFault b.wid f
  | .error .before => b.s.mapWarp b.wid fun w => { w with chunk := { w.chunk with ended := true } }
  | .error (.abort cause code) => b.stopTx (.abort cause code)
  | .error .hold => b.s
  | .error .pass => b.s.mapWarp b.wid fun w => { w with turnDone := true }

/-- The shared meaning of every core instruction. -/
def issue (k : Kind) (eff : Iss → Eff Iss) (s : State) : Host.Outcome State Fault Refusal :=
  match s.issueOf k with
  | none => .fault .noIssuer
  | some b => .next (b.resolve k (fun l => ((b.alone l).attempt k eff).stop?) (b.attempt k eff))

end Sys2Proof.Machine
end

