-- ==== Sys2Proof/Machine/Lane.lean ====
section
/-! DEFINITION. What the lane classes I, F, M and X share (R116 to R118): a result for each active lane, or one for a
uniform issue, computed from registers read before any is written, with flags ORed over lanes and elements. -/

namespace Sys2Proof.Machine

/-- The lanes that compute: the lowest active one for a uniform issue (R35, R78). -/
def Iss.computeLanes (i : Iss) (d : Reg) : List Nat := if d.isS then [i.lane] else i.activeLanes

/-- Writes a result of `w` registers in each computing lane and raises the flags of those lanes (R98, R116). -/
def Iss.result (i : Iss) (d : Reg) (w : Nat) (f : Nat → Nat × Fl) : Iss :=
  (i.write d w fun l => (f l).1).raise (flAll ((i.computeLanes d).map fun l => (f l).2))

/-- Writes a predicate in each active lane and raises flags. -/
def Iss.resultPred (i : Iss) (pd : Nat) (f : Nat → Bool × Fl) : Iss :=
  (i.writePred pd fun l => (f l).1).raise (flAll (i.activeLanes.map fun l => (f l).2))

/-- An instruction with a register destination: its result in each lane, from the registers before the issue. -/
def laneOp (k : Kind) (d : Reg) (w : Nat) (f : Iss → Nat → Nat × Fl) (s : State) : Host.Outcome State Fault Refusal :=
  issue { k with dsts := (d, w) :: k.dsts, once := d.isS } (fun i => .ok (i.result d w (f i))) s

/-- An instruction with a predicate destination. -/
def predOp (k : Kind) (pd : Nat) (f : Iss → Nat → Bool × Fl) (s : State) : Host.Outcome State Fault Refusal :=
  issue k (fun i => .ok (i.resultPred pd (f i))) s

/-- How a format-W lane instruction issues, with its operand widths in registers. -/
def LaneArgs.kind (a : LaneArgs) (wa wb wc : Nat) : Kind :=
  { g := a.g, srcs := [(a.a, wa), (a.b, wb), (a.c, wc)] }

/-- An instruction over whole operand values. -/
def laneVal (a : LaneArgs) (wd wa wb wc : Nat) (f : Nat → Nat → Nat → Nat) (s : State) :
    Host.Outcome State Fault Refusal :=
  laneOp (LaneArgs.kind a wa wb wc) a.d wd
    (fun i l => (f (i.val a.a l wa) (i.val a.b l wb) (i.val a.c l wc), 0)) s

/-- An operation on each element, after the operand modifiers of fields A and B (R52, R116). -/
def eachElem (m : Mods) (f : Nat → Nat → Nat → Nat × Fl) (x y z : Nat) : Nat × Fl :=
  let t := m.ty
  let r := (upTo t.count).map fun k =>
    f (modElem t m.aa m.na ((elemsOf t x).getD k 0)) (modElem t m.ab m.nb ((elemsOf t y).getD k 0)) ((elemsOf t z).getD k 0)
  (joinElems t (r.map (·.1)), flAll (r.map (·.2)))

/-- An element-wise instruction whose operands all have the type's width; `wc` is 0 where field C is unused. -/
def laneElems (a : LaneArgs) (wb wc : Nat) (f : Nat → Nat → Nat → Nat × Fl) (s : State) :
    Host.Outcome State Fault Refusal :=
  let w := a.m.ty.regs
  laneOp (LaneArgs.kind a w wb wc) a.d w
    (fun i l => eachElem a.m f (i.val a.a l w) (i.val a.b l wb) (i.val a.c l wc)) s

/-- An element-wise integer instruction: no flag (R119). -/
def laneInts (a : LaneArgs) (wb : Nat) (f : Nat → Nat → Nat) (s : State) : Host.Outcome State Fault Refusal :=
  laneElems a wb 0 (fun x y _ => (f x y, 0)) s

/-- Integer conditions 0 to 5 of R53. -/
def icond (c : Nat) (x y : Int) : Bool :=
  match c with
  | 0 => x == y
  | 1 => x != y
  | 2 => decide (x < y)
  | 3 => decide (x ≤ y)
  | 4 => decide (y < x)
  | 5 => decide (y ≤ x)
  | _ => false

/-- The table index bit of TLOG and PLOG (R123). -/
def ttBit (tt : Nat) (a b c : Bool) : Bool := flag tt (bitN a + 2 * bitN b + 4 * bitN c)

end Sys2Proof.Machine
end

