-- ==== Sys2Proof/Machine/Memory.lean ====
section
/-! DEFINITION. Class L: loads, stores, atomics, rings, page instructions and cache hints (R202 to R226). -/

namespace Sys2Proof.Machine

/-! ### Plain accesses -/

/-- Bytes of a size code (R54). -/
def szBytes (sz : Nat) : Nat := 2 ^ sz

/-- A loaded value extended to its destination (R54). -/
def extendLoad (sz : Nat) (sx : Bool) (x : Nat) : Nat := if sx then wrapInt 32 (signed (8 * szBytes sz) x) else x

/-- The little-endian bytes of a value. -/
def valBytes (n x : Nat) : List Byte := leBytes n x

/-- Effective address of a plain device access (R56, R206). -/
def Iss.memAddr (i : Iss) (a : MemArgs) (l : Nat) : Nat := ea64 (i.val a.addr l 2) (signed 16 a.off.toNat)

/-- Effective address of a plain scratchpad access (R56, R206). -/
def Iss.spadAddr (i : Iss) (a : MemArgs) (l : Nat) : Nat := ea32 (i.val a.addr l 1) (signed 16 a.off.toNat)

/-- The access is made once per issue (R205). -/
def MemArgs.once (a : MemArgs) : Bool := a.addr.isS && a.data.isS

/-- How a load or store issues; `wa` is the width of its address. -/
def MemArgs.kind (a : MemArgs) (wa : Nat) (store : Bool) : Kind :=
  let w := szRegs a.sz.val
  { g := a.g, srcs := (a.addr, wa) :: (if store then [(a.data, w)] else []), dsts := if store then [] else [(a.data, w)]
    once := MemArgs.once a }

/-- A load in each lane that accesses, ascending (R204, R206). -/
def loadOp (a : MemArgs) (wa : Nat) (find : Iss → Nat → Eff (Iss × List Loc)) (addr : Iss → Nat → Nat) (s : State) :
    Host.Outcome State Fault Refusal :=
  issue (MemArgs.kind a wa false)
    (fun b => b.eachLane (fun i l =>
      (find i l).bind fun (j, xs) =>
        (j.load l (addr b l) xs (a.hint.val == 3)).bind fun (k, x) =>
          .ok (k.writeLane a.data (szRegs a.sz.val) l (extendLoad a.sz.val a.sx x))) (b.accessLanes (MemArgs.once a))) s

/-- The lines of a store with the bypass hint are written to DRAM at the commit (R209). -/
def Iss.hint (i : Iss) (h : Fin 4) (xs : List Loc) : Iss :=
  if h.val = 3 && !xs.any fun x => x.space.irrevocable then
    i.mapChunk fun c => { c with bypass := xs.foldl (fun l x => insertNew x.line l) c.bypass }
  else i

/-- A store in each lane that accesses, ascending (R204, R206). -/
def storeOp (a : MemArgs) (wa : Nat) (find : Iss → Nat → Eff (Iss × List Loc)) (s : State) :
    Host.Outcome State Fault Refusal :=
  let w := szRegs a.sz.val
  issue (MemArgs.kind a wa true)
    (fun b => b.eachLane (fun i l =>
      (find i l).bind fun (j, xs) => .ok ((j.store l xs (valBytes (szBytes a.sz.val) (b.val a.data l w))).hint a.hint xs))
      (b.accessLanes (MemArgs.once a))) s

/-- LD (R206). -/
def execLd (a : MemArgs) (s : State) : Host.Outcome State Fault Refusal :=
  loadOp a 2 (fun i l => i.device l (i.memAddr a l) (szBytes a.sz.val) a.col .read) (fun i l => i.memAddr a l) s

/-- ST (R206). -/
def execSt (a : MemArgs) (s : State) : Host.Outcome State Fault Refusal :=
  storeOp a 2 (fun i l => i.device l (i.memAddr a l) (szBytes a.sz.val) a.col .write) s

/-- LDS (R206). DEDUCED: log 6. -/
def execLds (a : MemArgs) (s : State) : Host.Outcome State Fault Refusal :=
  loadOp a 1 (fun i l => i.scratch l (i.spadAddr a l) (szBytes a.sz.val)) (fun i l => i.spadAddr a l) s

/-- STS (R206). -/
def execSts (a : MemArgs) (s : State) : Host.Outcome State Fault Refusal :=
  storeOp a 1 (fun i l => i.scratch l (i.spadAddr a l) (szBytes a.sz.val)) s

/-! ### Atomics -/

/-- Type of an atomic's elements. -/
def Aty.elem : Aty → Ty
  | .u32 => .u32 | .i32 => .i32 | .u64 => .u64 | .i64 => .i64 | .f32 => .f32 | .f64 => .f64
  | .bf16x2 => .bf16x2 | .f16x2 => .f16x2

/-- The new value of one element (R222): floating operations round RNE. -/
def aopElem (op : Aop) (t : Ty) (x y : Nat) : Nat × Fl :=
  match op with
  | .add => if t.isFloat then fadd (fmtOf t) .rne false x y else ((x + y) % 2 ^ t.bits, 0)
  | .min => if t.isFloat then fminmax (fmtOf t) false x y else (if intElem t x ≤ intElem t y then x else y, 0)
  | .max => if t.isFloat then fminmax (fmtOf t) true x y else (if intElem t x ≤ intElem t y then y else x, 0)
  | .and => (x &&& y, 0)
  | .or => (x ||| y, 0)
  | .xor => (x ^^^ y, 0)
  | .exch => (y, 0)

/-- AtomicApply on a whole operand (R222). -/
def aopApply (op : Aop) (ty : Aty) (old b : Nat) : Nat × Fl :=
  let t := Aty.elem ty
  let r := (upTo t.count).map fun k => aopElem op t ((elemsOf t old).getD k 0) ((elemsOf t b).getD k 0)
  (joinElems t (r.map (·.1)), flAll (r.map (·.2)))

/-- Bytes of an atomic (R222). -/
def Aty.bytes (t : Aty) : Nat := 4 * t.regs

def AtomArgs.once (a : AtomArgs) (red : Bool) : Bool := a.a.isS && a.b.isS && (red || a.d.isS)

/-- ATOM and ATOMS: the lanes in ascending order, the old value to d, flags to flags.fp (R204, R222). -/
def atomOp (a : AtomArgs) (wa : Nat) (addr : Iss → Nat → Nat) (find : Iss → Nat → Nat → Eff (Iss × List Loc)) (s : State) :
    Host.Outcome State Fault Refusal :=
  let w := a.ty.regs
  issue { g := a.g, srcs := [(a.a, wa), (a.b, w)], dsts := [(a.d, w)], once := AtomArgs.once a false }
    (fun b => b.eachLane (fun i l =>
      (find i l (addr b l)).bind fun (j, xs) =>
        (j.load l (addr b l) xs (a.hint.val == 3)).bind fun (k, old) =>
          let r := aopApply a.op a.ty old (b.val a.b l w)
          .ok ((((k.store l xs (valBytes (Aty.bytes a.ty) r.1)).hint a.hint xs).writeLane a.d w l old).raise r.2))
      (b.accessLanes (AtomArgs.once a false))) s

def Iss.atomAddr (i : Iss) (a : AtomArgs) (l : Nat) : Nat := ea64 (i.val a.a l 2) (signed 8 a.off.toNat)

/-- ATOM (R222). -/
def execAtom (a : AtomArgs) (s : State) : Host.Outcome State Fault Refusal :=
  atomOp a 2 (fun i l => i.atomAddr a l) (fun i l x => i.device l x (Aty.bytes a.ty) a.col .write true) s

/-- ATOMS (R222). -/
def execAtoms (a : AtomArgs) (s : State) : Host.Outcome State Fault Refusal :=
  atomOp a 1 (fun i l => ea32 (i.val a.a l 1) (signed 8 a.off.toNat)) (fun i l x => i.scratch l x (Aty.bytes a.ty)) s

/-- RED: one application for each lane, released at the commit (R174, R222). -/
def execRed (a : AtomArgs) (s : State) : Host.Outcome State Fault Refusal :=
  let w := a.ty.regs
  issue { g := a.g, srcs := [(a.a, 2), (a.b, w)], once := AtomArgs.once a true }
    (fun b => b.eachLane (fun i l =>
      (i.device l (b.atomAddr a l) (Aty.bytes a.ty) a.col .write true).bind fun (j, xs) =>
        .ok (j.queue (.red { locs := xs, va := b.atomAddr a l, op := a.op, ty := a.ty
                             value := BitVec.ofNat 64 (b.val a.b l w), lane := l, pc := b.pc })))
      (b.accessLanes (AtomArgs.once a true))) s

def CasArgs.once (a : CasArgs) : Bool := a.a.isS && a.d.isS && a.b.isS && a.c.isS

/-- CAS: compared bit for bit (R223). -/
def execCas (a : CasArgs) (s : State) : Host.Outcome State Fault Refusal :=
  let w := szRegs a.sz.val
  let n := szBytes a.sz.val
  issue { g := a.g, srcs := [(a.a, 2), (a.b, w), (a.c, w)], dsts := [(a.d, w)], once := CasArgs.once a }
    (fun b => b.eachLane (fun i l =>
      let va := b.val a.a l 2
      (i.device l va n false .write true).bind fun (j, xs) =>
        (j.load l va xs (a.hint.val == 3)).bind fun (k, old) =>
          let k := if old = b.val a.b l w then (k.store l xs (valBytes n (b.val a.c l w))).hint a.hint xs else k
          .ok (k.writeLane a.d w l old)) (b.accessLanes (CasArgs.once a))) s

/-! ### Rings (R225, R226) -/

/-- A ring control block. -/
structure Ring where
  base : Nat
  cap : Nat
  esz : Nat
  head : Nat
  tail : Nat

def ringOf (x : Nat) : Ring :=
  { base := bits x 0 64, cap := bits x 64 32, esz := bits x 96 32, head := bits x 128 32, tail := bits x 160 32 }

/-- A power of two below 2^32. -/
def isPow2 (n : Nat) : Bool := n != 0 && n == 2 ^ Nat.log2 n

def Ring.ok (r : Ring) (size : Nat) : Bool := isPow2 r.cap && r.esz == size && r.base % size == 0

/-- The block's bytes and contents: 32 bytes, of which the last eight are not read. -/
def Iss.ringBlock (i : Iss) (l va : Nat) : Eff (Iss × List Loc × Ring) :=
  (i.device l va 32 false .read true).bind fun (j, xs) =>
    (j.load l va (xs.take 24)).bind fun (k, x) => .ok (k, xs, ringOf x)

/-- Writes a counter of the block, which needs write permission. -/
def Iss.ringCount (i : Iss) (l va off n : Nat) : Eff Iss :=
  (i.device l (va + off) 4 false .write true).bind fun (j, ys) => .ok (j.store l ys (valBytes 4 n))

def RingArgs.once (a : RingArgs) : Bool := a.a.isS && a.data.isS

/-- The lanes in which a ring instruction writes its predicate. -/
def Iss.ringPred (i : Iss) (once : Bool) (pd l : Nat) (ok : Bool) : Iss :=
  let m := if once then i.active else laneBit l
  (i.log [.p pd]).mapArch fun a =>
    { a.setPred pd m fun _ => ok with poison := clearPoison [.p pd] m a.poison }

/-- ENQ (R226). -/
def execEnq (a : RingArgs) (s : State) : Host.Outcome State Fault Refusal :=
  let w := szRegs a.sz.val
  let n := szBytes a.sz.val
  let once := RingArgs.once a
  issue { g := a.g, srcs := [(a.a, 2), (a.data, w)], once := once, oncePred := some a.pd.val }
    (fun b => b.eachLane (fun i l =>
      let va := b.val a.a l 2
      (i.ringBlock l va).bind fun (j, _, r) =>
        if r.ok n && decide ((r.tail + 2 ^ 32 - r.head) % 2 ^ 32 < r.cap) then
          (j.device l ((r.base + r.tail % r.cap * r.esz) % 2 ^ 64) n false .write true).bind fun (k, ys) =>
            ((k.store l ys (valBytes n (b.val a.data l w))).ringCount l va 20 ((r.tail + 1) % 2 ^ 32)).bind fun k =>
              .ok (k.ringPred once a.pd.val l true)
        else .ok (j.ringPred once a.pd.val l false)) (b.accessLanes once)) s

/-- DEQ: a failed one leaves d unchanged (R226). -/
def execDeq (a : RingArgs) (s : State) : Host.Outcome State Fault Refusal :=
  let w := szRegs a.sz.val
  let n := szBytes a.sz.val
  let once := RingArgs.once a
  issue { g := a.g, srcs := [(a.a, 2)], dsts := [(a.data, w)], once := once, oncePred := some a.pd.val }
    (fun b => b.eachLane (fun i l =>
      let va := b.val a.a l 2
      (i.ringBlock l va).bind fun (j, _, r) =>
        if r.ok n && r.tail != r.head then
          let ea := (r.base + r.head % r.cap * r.esz) % 2 ^ 64
          (j.device l ea n false .read true).bind fun (k, ys) =>
            (k.load l ea ys).bind fun (k, x) =>
              ((k.writeLane a.data w l x).ringCount l va 16 ((r.head + 1) % 2 ^ 32)).bind fun k =>
                .ok (k.ringPred once a.pd.val l true)
        else .ok (j.ringPred once a.pd.val l false)) (b.accessLanes once)) s

/-! ### Pages (R219 to R221) -/

/-- The location of page `k` of a region. -/
def pageLoc (part : Nat) (r : Region) (k : Nat) : Loc :=
  if r.sparse then { space := .region part, addr := r.base + k * 65536 } else { space := .dev, addr := r.fpa + k * 65536 }

/-- The chunk has written a byte of the page that differs from the default. -/
def Iss.differs (i : Iss) (page : Loc) : Bool :=
  i.w.chunk.writes.any fun p => p.1.page == page && p.2 != i.s.defaultAt p.1

/-- The backed state of a page as the chunk observes it (R219, R220). -/
def Iss.pageBacked (i : Iss) (part : Nat) (r : Region) (k : Nat) : Bool :=
  let x := pageLoc part r k
  if !r.sparse then true
  else i.differs x || (!i.w.chunk.resets.contains x && (r.backing k).isSome)

/-- Page states read by the chunk (R219). -/
def Iss.notePages (i : Iss) (xs : List Loc) : Iss :=
  i.mapChunk fun c => { c with pageReads := xs.foldl (fun l x => insertNew x l) c.pageReads }

/-- The region of an address, with its checks. -/
def Iss.regionOf (i : Iss) (l va : Nat) : Eff (Nat × Region) :=
  match (if canonical va then i.s.regionAt i.ctx.part (va % 2 ^ 57) else none) with
  | some x => .ok x
  | none => i.fault .address l va

/-- PGENUM (R219). -/
def execPgenum (a : TwoRegArgs) (s : State) : Host.Outcome State Fault Refusal :=
  let once := a.d.isS
  issue { g := a.g, srcs := [(a.a, 2)], dsts := [(a.d, 2)], once := once }
    (fun b => b.eachLane (fun i l =>
      let va := b.val a.a l 2
      (i.regionOf l va).bind fun (_, r) =>
        let k0 := (va % 2 ^ 57 - r.base) / 65536
        let ks := (upTo (r.pages - k0)).map (k0 + ·)
        let hit := ks.find? fun k => i.pageBacked i.ctx.part r k
        let seen := match hit with | some k => ks.take (k - k0 + 1) | none => ks
        let j := i.notePages (if r.sparse then seen.map (pageLoc i.ctx.part r) else [])
        .ok (j.writeLane a.d 2 l (match hit with | some k => canonForm (r.base + k * 65536) | none => 2 ^ 64 - 1)))
      (b.accessLanes once)) s

/-- PGSTAT (R219). Of the address it asks only that it lies in a region, and so does PGENUM. DESIGN CHOICE: log 72. -/
def execPgstat (a : PAddrArgs) (s : State) : Host.Outcome State Fault Refusal :=
  issue { g := a.g, srcs := [(a.a, 2)] }
    (fun b => b.eachLane (fun i l =>
      let va := b.val a.a l 2
      (i.regionOf l va).bind fun (_, r) =>
        let k := (va % 2 ^ 57 - r.base) / 65536
        let j := i.notePages (if r.sparse then [pageLoc i.ctx.part r k] else [])
        .ok (j.ringPred false a.pd.val l (i.pageBacked i.ctx.part r k))) b.activeLanes) s

/-- PROTECTION of a page instruction in a region where it may not act: an address without a mapping raises the mapping's own fault
first (R78). DESIGN CHOICE: log 72. -/
def Iss.protect {α : Type} (i : Iss) (lane va : Nat) : Eff α :=
  if i.s.walkOwned i.ctx i.core va then .error .hold
  else
    { i with s := i.s.walkFill i.ctx i.core va }.fault
      (match i.s.lookup i.ctx i.core va with | .error c => c | .ok _ => .protection) lane va

/-- PGRESET: the page is all default from here on in the chunk, and unbacked at its commit (R219, R220). It asks for write
permission. DESIGN CHOICE: log 72. -/
def execPgreset (a : RegArgs) (s : State) : Host.Outcome State Fault Refusal :=
  let once := a.r.isS
  issue { g := a.g, srcs := [(a.r, 2)], once := once }
    (fun b => b.eachLane (fun i l =>
      let va := b.val a.r l 2
      (i.regionOf l va).bind fun (_, r) =>
        if r.fwin.isSome then i.protect l va
        else
          (i.xlate l va .write).bind fun (j, x, _) =>
            .ok (j.mapChunk fun c => { c with resets := insertNew x.page c.resets
                                              writes := c.writes.filter fun p => p.1.page ≠ x.page
                                              firstStore := c.firstStore.filter fun p => p.1 ≠ x.page }))
      (b.accessLanes once)) s

/-- REGSWEEP: ends its chunk, and the commit releases the region's all-default pages (R221). -/
def execRegsweep (a : RegArgs) (s : State) : Host.Outcome State Fault Refusal :=
  issue { g := a.g, srcs := [(a.r, 2)], endsAfter := true, forbidden := true, once := true }
    (fun i =>
      let va := i.val a.r i.lane 2
      (i.regionOf i.lane va).bind fun (n, _) => .ok (i.queue (.sweep n))) s

/-! ### Cache hints (R210, R211) -/

/-- One lane's request for a line; one that would fail a check, or is not device memory, is dropped (R112, R210, R353). -/
def Iss.prefetch (i : Iss) (l va : Nat) : Iss :=
  match i.xlate l va .read with
  | .error _ => i
  | .ok (j, x, _) => if x.space.irrevocable || i.s.isPoisoned x then i else { j with s := j.s.fillLines [x] }

/-- PREFETCH: fills lines, and changes no value (R210). -/
def execPrefetch (a : MemArgs) (s : State) : Host.Outcome State Fault Refusal :=
  issue { g := a.g, others := [(a.addr, 2)] }
    (fun b => .ok (b.activeLanes.foldl (fun i l => i.prefetch l (b.memAddr a l)) b)) s

/-- LNFLUSH: checked like a one-byte load; the line is written back at the chunk's commit (R211). -/
def execLnflush (a : MemArgs) (s : State) : Host.Outcome State Fault Refusal :=
  issue { g := a.g, srcs := [(a.addr, 2)] }
    (fun b => b.eachLane (fun i l =>
      let va := b.memAddr a l
      (i.xlate l va .read).bind fun (j, x, _) =>
        if !i.w.chunk.owns x && i.s.isPoisoned x then i.fault .poison l va
        else .ok (j.queue (.flush x.line))) b.activeLanes) s

end Sys2Proof.Machine
end

