-- ==== Sys2Proof/Machine/MatrixMath.lean ====
section
/-! DEFINITION. The arithmetic of the matrix engines: operand layout (R149 to R152), OQ4 (R88 to R91), exact sums and the
K-step (R102 to R104, R161), and tile conversions (R163 to R165). -/

namespace Sys2Proof.Machine

/-- Bits of an element (R149). -/
def MFmt.bits : MFmt → Nat
  | .fp64 => 64 | .fp32 => 32 | .bf16 | .fp16 => 16 | .f8e4 | .f8e5 => 8 | .oq4 => 4

/-- Format of a floating element. -/
def MFmt.fmt : MFmt → Fmt
  | .fp64 => fmtF64 | .fp32 => fmtF32 | .bf16 => fmtBF16 | .fp16 => fmtF16 | .f8e4 => fmtF8E4 | .f8e5 => fmtF8E5
  | .oq4 => fmtF32

/-- Elements that share a scale (R151). -/
def MFmt.block : MFmt → Nat
  | .oq4 => 64
  | _ => 32

/-- K-step length of a word that decodes (R149). -/
def MmaArgs.kstep (a : MmaArgs) : Nat := (kstepOf a.fa a.fb).getD 1

def MmaArgs.steps (a : MmaArgs) : Nat := a.ks.val + 1

/-- Elements of a line (R150). -/
def MmaArgs.lineLen (a : MmaArgs) : Nat := MmaArgs.steps a * MmaArgs.kstep a

/-- One scratchpad operand of an MMA: base, pitch, format, and scale pointer. -/
structure MOperand where
  base : Nat
  pitch : Nat
  fmt : MFmt
  scale : Option Nat
  len : Nat
  deriving DecidableEq, Repr

def MOperand.lineBytes (o : MOperand) : Nat := (o.len * MFmt.bits o.fmt + 7) / 8

def MOperand.blocks (o : MOperand) : Nat := (o.len + MFmt.block o.fmt - 1) / MFmt.block o.fmt

/-- Operand A where it is read from scratchpad, and operand B; `vals` are the values of AR, BR, SA and SB (R154). -/
def mmaA (a : MmaArgs) (vals : List Word) : MOperand :=
  { base := (vals.getD 0 0).toNat, pitch := a.pa.toNat * 16, fmt := a.fa
    scale := if a.sa.isS then some (vals.getD 2 0).toNat else none, len := MmaArgs.lineLen a }

def mmaB (a : MmaArgs) (vals : List Word) : MOperand :=
  { base := (vals.getD 1 0).toNat, pitch := a.pb.toNat * 16, fmt := a.fb
    scale := if a.sb.isS then some (vals.getD 3 0).toNat else none, len := MmaArgs.lineLen a }

/-- The ranges that R156 guards: first to last byte of the operand, and of its scales. -/
def MOperand.ranges (o : MOperand) : List (Nat × Nat) :=
  (o.base, 15 * o.pitch + o.lineBytes)
    :: (match o.scale with | some p => [(p, 2 * 16 * o.blocks)] | none => [])

def mmaOperands (a : MmaArgs) (vals : List Word) : List MOperand :=
  if a.asrc then [mmaB a vals] else [mmaA a vals, mmaB a vals]

/-! ### OQ4 codes -/

/-- The code value of an element of an OQ4 byte, none where the pair is malformed (R88 to R90). -/
def oq4Code (byte : Nat) (high : Bool) : Option Int :=
  let lo := byte % 16
  let hi := byte / 16 % 16
  let mine := if high then hi else lo
  let other := if high then lo else hi
  if lo = 8 && hi = 8 then none
  else if mine = 8 then
    let mag : Int := (2 + other % 2 : Nat) * 2 ^ (other / 2 % 4 + 2)
    some (if other / 8 = 1 then -mag else mag)
  else if other = 8 then some 0
  else some (signed 4 mine)

def fvOfInt (x : Int) : FV := .fin (x < 0) x.natAbs 0

/-! ### Elements and sums -/

/-- Bytes of scratchpad as the engine reads them. -/
abbrev SpadRead := Nat → Byte

def readLe (rd : SpadRead) (a n : Nat) : Nat := leNat ((upTo n).map fun i => rd (a + i))

/-- The BF16 scale of an element of a line (R151), 1.0 where the operand has none. -/
def MOperand.scaleOf (o : MOperand) (rd : SpadRead) (line e : Nat) : FV :=
  match o.scale with
  | none => .fin false 1 0
  | some p => unpack fmtBF16 (readLe rd (p + 2 * (line * o.blocks + e / MFmt.block o.fmt)) 2)

/-- Byte that holds an OQ4 element. -/
def MOperand.oq4Byte (o : MOperand) (rd : SpadRead) (line e : Nat) : Nat := (rd (o.base + line * o.pitch + e / 2)).toNat

/-- Code of an OQ4 element. -/
def MOperand.code (o : MOperand) (rd : SpadRead) (line e : Nat) : Option Int := oq4Code (o.oq4Byte rd line e) (e % 2 == 1)

/-- An element's exact value (R150, R151, R91), with NV where forming it is invalid. -/
def MOperand.elem (o : MOperand) (rd : SpadRead) (line e : Nat) : FV × Fl :=
  match o.fmt with
  | .oq4 =>
    match o.code rd line e with
    | none => (.nan false, flNV)
    | some c => xMulV (fvOfInt c) (o.scaleOf rd line e)
  | _ =>
    let n := MFmt.bits o.fmt / 8
    let x := unpack (MFmt.fmt o.fmt) (readLe rd (o.base + line * o.pitch + e * n) n)
    match o.scale with
    | none => (x, 0)
    | some _ => xMulV x (o.scaleOf rd line e)

/-- Exact sum of finite values; an exact zero is negative only where every term is (R93). -/
def sumFin (ps : List FV) : FV :=
  let q := ps.foldl (fun q p => match p with | .fin _ _ e => min q e | _ => q) 0
  let t := ps.foldl (fun t p => match p with | .fin n m e => t + scaled n m e q | _ => t) (0 : Int)
  if t = 0 then .fin (ps.all FV.isNeg) 0 0 else .fin (t < 0) t.natAbs q

/-- ExactSum over products already formed, `inv` saying that one of them was invalid: the cases of R102 in order. -/
def exactSum (inv : Bool) (ps : List FV) : FV × Fl :=
  if inv then (.nan false, flNV)
  else if ps.any FV.isNan then (.nan false, 0)
  else
    let pos := ps.any fun p => p.isInf && !p.isNeg
    let neg := ps.any fun p => p.isInf && p.isNeg
    if pos && neg then (.nan false, flNV)
    else if pos then (.inf false, 0)
    else if neg then (.inf true, 0)
    else (sumFin ps, 0)

/-- Sum of the products of two elements' values. -/
def sumProducts (xs : List ((FV × Fl) × (FV × Fl))) : FV × Fl :=
  let ps := xs.map fun p => xMulV p.1.1 p.2.1
  exactSum (ps.any (fun p => p.2 != 0) || xs.any fun p => p.1.2 != 0 || p.2.2 != 0) (ps.map (·.1))

/-- OQ4 × OQ4 with finite scales: the integer dot product times the product of the scales (R103). A dot product of zero counts as
+0, so the sign of a zero result is that of the scales' product. DESIGN CHOICE: log 59. -/
def oq4Sum (cs : List (Option Int × Option Int)) (sa sb : FV) : FV × Fl :=
  match cs.mapM fun p => match p.1, p.2 with | some x, some y => some (x * y) | _, _ => none with
  | none => (.nan false, flNV)
  | some xs => xMulV (fvOfInt xs.sum) (xMulV sa sb).1

/-- The sum of K-step `s` for element (i, j); `av` gives the value of element e of row i of A. -/
def kstepSum (a : MmaArgs) (av : Nat → Nat → FV × Fl) (vals : List Word) (rd : SpadRead) (s i j : Nat) : FV × Fl :=
  let n := MmaArgs.kstep a
  let es := (upTo n).map fun k => s * n + k
  let oa := mmaA a vals
  let ob := mmaB a vals
  let general := sumProducts (es.map fun e => (av i e, ob.elem rd j e))
  if a.fa == .oq4 && a.fb == .oq4 then
    let sa := oa.scaleOf rd i (s * n)
    let sb := ob.scaleOf rd j (s * n)
    match sa, sb with
    | .fin _ _ _, .fin _ _ _ => oq4Sum (es.map fun e => (oa.code rd i e, ob.code rd j e)) sa sb
    | _, _ => general
  else general

/-- One element after a K-step: one rounding (R102, R161). -/
def kstepElem (base : Nat) (sum : FV × Fl) : Nat × Fl :=
  let (r, f) := xAdd .rne (unpack fmtACC96 base) sum.1
  let (x, g) := froundFl fmtACC96 .rne false (r, f)
  (x, sum.2 ||| g)

/-- Values of A taken from a tile's snapshot in FA (R152). -/
def snapElem (a : MmaArgs) (snap : List Nat) (i e : Nat) : FV × Fl := (unpack (MFmt.fmt a.fa) (snap.getD (16 * i + e) 0), 0)

/-- A K-step over the 256 elements: the new elements and the flags. -/
def kstepApply (a : MmaArgs) (vals : List Word) (snap : List Nat) (rd : SpadRead) (s : Nat) (acc : List (BitVec 96)) :
    List (BitVec 96) × Fl :=
  let av := if a.asrc then snapElem a snap else fun i e => (mmaA a vals).elem rd i e
  let r := (upTo 256).map fun k =>
    kstepElem (if s = 0 && a.ovw then 0 else (acc.getD k 0).toNat) (kstepSum a av vals rd s (k / 16) (k % 16))
  (r.map fun p => BitVec.ofNat 96 p.1, flAll (r.map (·.2)))

/-- The bytes of a K-step's slice of an operand (R157). -/
def MOperand.slice (o : MOperand) (kstep s : Nat) : List Nat :=
  let b0 := s * kstep * MFmt.bits o.fmt / 8
  let b1 := ((s + 1) * kstep * MFmt.bits o.fmt + 7) / 8
  (upTo 16).flatMap fun l => (upTo (b1 - b0)).map fun k => o.base + l * o.pitch + b0 + k

/-- A K-step is skipped where a slice is wholly tagged (R104, R157). -/
def kstepSkipped (a : MmaArgs) (vals : List Word) (tags : List Nat) (exact : Bool) (s : Nat) : Bool :=
  !exact && (mmaOperands a vals).any fun o => (o.slice (MmaArgs.kstep a) s).all fun x => tags.contains (x / 256)

/-! ### Tile conversions -/

/-- Bytes of an element in scratchpad (R163). -/
def AccFmt.bytes : AccFmt → Nat
  | .f32 => 4 | .f64 => 8 | .acc96 => 12 | .bf16 | .fp16 => 2

def AccFmt.fmt : AccFmt → Fmt
  | .f32 => fmtF32 | .f64 => fmtF64 | .acc96 => fmtACC96 | .bf16 => fmtBF16 | .fp16 => fmtF16

/-- Byte pitch of rows. -/
def AccArgs.rowPitch (a : AccArgs) : Nat := if a.pitch = 0 then 16 * AccFmt.bytes a.fmt else a.pitch.toNat * 16

/-- Scratchpad addresses of the 256 elements. -/
def AccArgs.elemAddr (a : AccArgs) (base k : Nat) : Nat := base + k / 16 * AccArgs.rowPitch a + k % 16 * AccFmt.bytes a.fmt

/-- The range from first to last byte. -/
def AccArgs.range (a : AccArgs) (base : Nat) : Nat × Nat := (base, 15 * AccArgs.rowPitch a + 16 * AccFmt.bytes a.fmt)

/-- Conversion into the tile (R164). -/
def accLoadElem (f : AccFmt) (x : Nat) : Nat × Fl :=
  if f == .acc96 then (x, 0) else froundV fmtACC96 .rne false (unpack (AccFmt.fmt f) x)

/-- Conversion out of the tile (R164). -/
def accStoreElem (f : AccFmt) (rm : Rm) (sat : Bool) (x : Nat) : Nat × Fl :=
  if f == .acc96 then (x, 0) else froundV (AccFmt.fmt f) rm sat (unpack fmtACC96 x)

/-- The tile that ACCLD leaves. -/
def accLoad (a : AccArgs) (base : Nat) (rd : SpadRead) : List (BitVec 96) × Fl :=
  let r := (upTo 256).map fun k => accLoadElem a.fmt (readLe rd (AccArgs.elemAddr a base k) (AccFmt.bytes a.fmt))
  (r.map fun p => BitVec.ofNat 96 p.1, flAll (r.map (·.2)))

/-- The bytes that ACCST writes, by address; where rows overlap the later row stands. -/
def accStore (a : AccArgs) (base : Nat) (acc : List (BitVec 96)) : List (Nat × Byte) × Fl :=
  let r := (upTo 256).map fun k => accStoreElem a.fmt a.rm a.sat (acc.getD k 0).toNat
  (r.zipIdx.flatMap fun p =>
    ((leBytes (AccFmt.bytes a.fmt) p.1.1).zipIdx.map fun q => (AccArgs.elemAddr a base p.2 + q.2, q.1)), flAll (r.map (·.2)))

/-- The multiplicand of R152: every element converted to FA. -/
def convertTile (a : MmaArgs) (acc : List (BitVec 96)) : List Nat × Fl :=
  let r := (upTo 256).map fun k => froundV (MFmt.fmt a.fa) .rne a.asat (unpack fmtACC96 (acc.getD k 0).toNat)
  (r.map (·.1), flAll (r.map (·.2)))

/-- A tile as it is bound to a group (R147). -/
def Tile.fresh : Tile := { acc := List.replicate 256 0, steps := 0, running := false, poison := false }

end Sys2Proof.Machine
end

