-- ==== Sys2Proof/Machine/Matrix.lean ====
section
/-! DEFINITION. Class T: GANG, MMA, ACCZ, ACCLD, ACCST and ACCRD as a warp issues them (R146 to R166). What an engine
does with a released operation is in Engine. -/

namespace Sys2Proof.Machine

/-- GANG (R153). -/
def execGang (a : GangArgs) (s : State) : Host.Outcome State Fault Refusal :=
  issue
    { g := a.g
      check := fun l w => decide (a.mask.toNat < 2 ^ l.fields.warps) && a.mask.getLsbD w.warp }
    (fun i => .ok ((i.log [.gang]).mapArch fun x =>
      { x with gang := a.mask, poison := clearPoison [.gang] 0 x.poison })) s

/-- A queued tile operation as its chunk issues it. -/
def TileOp.queued (k : TileKind) (vals : List Word) (mask : Word) : TileOp :=
  { kind := k, vals := vals, mask := mask, step := 0, snap := [], tags := [], replays := 0, flags := 0 }

/-- The value of an s register, zero where the field names none (R154). -/
def Iss.sval (i : Iss) (r : Reg) : Word := if r.isS then i.reg r 0 else 0

/-- The first of some ranges that does not lie within the group's portion (R150), named by its first byte, which
ADDR records. DESIGN CHOICE: log 64. -/
def Iss.outside (i : Iss) (rs : List (Nat × Nat)) : Option Nat :=
  (rs.find? fun r => decide (i.l.portion < r.1 + r.2)).map (·.1)

/-- MMA: the operands are checked at the issue, and the operation is queued with the gang's mask (R150, R154, R161). -/
def execMma (a : MmaArgs) (s : State) : Host.Outcome State Fault Refusal :=
  let regs := ([a.ar, a.br, a.sa, a.sb].filter Reg.isS).map fun r => (r, 1)
  issue
    { g := a.g, size := 16, srcs := regs, reads := [.gang], forbidden := true
      check := fun l _ => decide (a.dt.val < l.fields.tiles) && (!a.asrc || decide (a.ar.num < l.fields.tiles)) }
    (fun i =>
      let vals := [if a.asrc then 0 else i.sval a.ar, i.sval a.br, i.sval a.sa, i.sval a.sb]
      let ops := mmaOperands a vals
      match (ops.map (·.base)).find? fun x => x % 16 ≠ 0 with
      | some x => i.fault .misaligned i.lane x
      | none =>
        match (ops.filterMap (·.scale)).find? fun x => x % 2 ≠ 0 with
        | some x => i.fault .misaligned i.lane x
        | none =>
          match i.outside (ops.flatMap MOperand.ranges) with
          | some x => i.fault .address i.lane x
          | none =>
            let (j, n) := i.newRec a.h.val
            .ok (j.queue (.tile (TileOp.queued (.mma a) vals i.w.arch.gang) (some n) i.pc i.lane))) s

/-- ACCZ: one operation for each named tile (R162). -/
def execAccz (a : AcczArgs) (s : State) : Host.Outcome State Fault Refusal :=
  issue { g := a.g, check := fun l _ => decide (a.mask.toNat < 2 ^ l.fields.tiles), forbidden := true }
    (fun i =>
      .ok (((upTo 16).filter fun t => a.mask.getLsbD t).foldl
        (fun j t => j.queue (.tile (TileOp.queued (.accz a t) [] 0) none i.pc i.lane)) i)) s

/-- ACCLD and ACCST at their issue (R163). -/
def accMove (a : AccArgs) (k : TileKind) (s : State) : Host.Outcome State Fault Refusal :=
  issue
    { g := a.g, srcs := [(a.a, 1)], check := fun l _ => decide (a.tile.val < l.fields.tiles), forbidden := true }
    (fun i =>
      let base := (i.reg a.a 0).toNat
      if base % 16 ≠ 0 then i.fault .misaligned i.lane base
      else
        match i.outside [AccArgs.range a base] with
        | some x => i.fault .address i.lane x
        | none =>
          let (j, n) := i.newRec a.h.val
          .ok (j.queue (.tile (TileOp.queued k [i.reg a.a 0, 0, 0, 0] 0) (some n) i.pc i.lane))) s

/-- ACCLD (R164). -/
def execAccld (a : AccArgs) (s : State) : Host.Outcome State Fault Refusal := accMove a (.accld a) s

/-- ACCST (R164). -/
def execAccst (a : AccArgs) (s : State) : Host.Outcome State Fault Refusal := accMove a (.accst a) s

/-- The group tile that an operation writes or, for ACCST, reads. -/
def TileKind.tile : TileKind → Nat
  | .mma a => a.dt.val
  | .accz _ t => t
  | .accld a | .accst a => a.tile.val

/-- Released operations on a tile that have not completed (R165). -/
def State.tileOps (s : State) (launch group tile : Nat) : List Op :=
  s.ops.filter fun o =>
    o.launch == launch && o.group == group && (match o.kind with | .tile t => TileKind.tile t.kind == tile | _ => false)

/-- Elements of a row half, converted (R165). -/
def accReadLane (a : AccrdArgs) (acc : List (BitVec 96)) (l : Nat) : List (Nat × Fl) :=
  (upTo 8).map fun c =>
    froundV (if a.f64 then fmtF64 else fmtF32) a.rm a.sat
      (unpack fmtACC96 (acc.getD (16 * (l / 2) + 8 * (l % 2) + c) 0).toNat)

/-- ACCRD reads one snapshot of the tile; in reproducible mode it first waits for every released operation on it
(R165, R166). -/
def execAccrd (a : AccrdArgs) (s : State) : Host.Outcome State Fault Refusal :=
  let w := if a.f64 then 2 else 1
  issue
    { g := a.g, dsts := [(a.d, 8 * w), (a.b, 1)], check := fun l _ => decide (a.tile.val < l.fields.tiles) }
    (fun i =>
      let ops := i.s.tileOps i.wid.launch i.wid.group a.tile.val
      if i.repro && !ops.isEmpty then .error .pass
      else
        match i.g.tiles[a.tile.val]? with
        | none => .ok i
        | some t =>
          if t.poison then i.fault .poison i.lane 0
          else
            let out (l : Nat) : List (Nat × Fl) := accReadLane a t.acc l
            let j := i.write a.d (8 * w) fun l =>
              (out l).zipIdx.foldl (fun n p => n + p.1.1 * 2 ^ (32 * w * p.2)) 0
            let j := j.raise (flAll (i.activeLanes.map fun l => flAll ((out l).map (·.2))))
            .ok (j.write a.b 1 fun _ => t.steps % 2 ^ 16 + ops.length % 2 ^ 16 * 2 ^ 16)) s

end Sys2Proof.Machine
end

