-- ==== Sys2Proof/Machine/Async.lean ====
section
/-! DEFINITION. Class A as a warp issues it: COPY, handles, tokens and arrival words (R233 to R245). What the engines do
with a released operation is in Copy. -/

namespace Sys2Proof.Machine

/-! ### COPY -/

/-- Destination bytes of a row (R234). -/
def CopyOp.dstRow (c : CopyOp) : Nat :=
  match c.xf with
  | 2 | 3 => 2 * c.rowBytes
  | 4 | 5 => c.rowBytes / 2
  | 6 => c.outLen
  | _ => c.rowBytes

/-- Start of the scales of XF 1, and the blocks of a row (R237). -/
def CopyOp.scaleBase (c : CopyOp) : Nat := alignUp (c.dst + (c.rows - 1) * c.dstPitch + c.rowBytes) 16
def CopyOp.blocks (c : CopyOp) : Nat := c.rowBytes / 32

/-- One past the last destination byte, scales included. -/
def CopyOp.dstEnd (c : CopyOp) : Nat :=
  if c.xf = 1 then c.scaleBase + 2 * c.rows * c.blocks else c.dst + (c.rows - 1) * c.dstPitch + c.dstRow

def CopyOp.srcEnd (c : CopyOp) : Nat := c.src + (c.rows - 1) * c.srcPitch + c.rowBytes

/-- The command that a COPY word gives with the values of its registers (R233, R234). -/
def CopyArgs.command (a : CopyArgs) (i : Iss) : CopyOp :=
  let v (r : Reg) (sp : Bool) : Nat := i.val r 0 (if sp then 1 else 2)
  let rb := (i.reg a.gr 0).toNat
  let odd := (i.reg (a.gr.nth 1) 0).toNat
  let c : CopyOp :=
    { xf := a.xf.val, src := v a.sa a.ssp, dst := v a.da a.dsp, rows := if a.xf.val = 6 then 1 else odd, rowBytes := rb
      outLen := if a.xf.val = 6 then odd else 0, srcPitch := rb, dstPitch := 0, srcSpad := a.ssp, dstSpad := a.dsp
      col := a.col, replica := if a.ra.isS then some (i.val a.ra 0 2) else none
      aw := if a.aw.isS then some (i.reg a.aw 0).toNat else none }
  if a.pr.isS then { c with srcPitch := (i.reg a.pr 0).toNat, dstPitch := (i.reg (a.pr.nth 1) 0).toNat }
  else { c with dstPitch := c.dstRow }

/-- Every row start is a multiple. -/
def rowsAligned (base pitch rows n : Nat) : Bool := base % n == 0 && (decide (rows ≤ 1) || pitch % n == 0)

/-- The requirements of R234. -/
def CopyOp.aligned (c : CopyOp) : Bool :=
  match c.xf with
  | 1 => c.rowBytes % 32 == 0 && rowsAligned c.src c.srcPitch c.rows 32
  | 2 | 3 => c.dst % 2 == 0 && c.dstPitch % 2 == 0
  | 4 | 5 => c.rowBytes % 2 == 0 && c.src % 2 == 0 && c.srcPitch % 2 == 0
  | _ => true

/-- The first row start that R213 refuses under COL: not in a transposable region, or rows shorter than an element. -/
def CopyOp.badColumn (c : CopyOp) (s : State) (p : Nat) : Bool :=
  c.col && (upTo c.rows).any fun k =>
    let va := (c.src + k * c.srcPitch) % 2 ^ 64
    match (if canonical va then s.regionAt p (va % 2 ^ 57) else none) with
    | some (_, r) => !r.trans || decide (c.rowBytes < r.esBytes)
    | none => true

/-- R235's size limits. -/
def CopyOp.sizesOk (c : CopyOp) : Bool :=
  decide (0 < c.rowBytes) && decide (c.rowBytes ≤ 2 ^ 24)
    && (if c.xf = 6 then decide (0 < c.outLen) && decide (c.outLen ≤ 2 ^ 24)
        else decide (0 < c.rows) && decide (c.rows ≤ 65536))

/-- The distinct pages of rows in memory. -/
def rowPages (base pitch rows n : Nat) : List Nat :=
  (upTo rows).foldl (fun l k =>
    let a := base + k * pitch
    (upTo ((a % 65536 + n + 65535) / 65536)).foldl (fun l j => insertNew ((a / 65536 + j) % 2 ^ 48) l) l) []

/-- Distinct pages that source and destination touch together (R235). -/
def CopyOp.pageCount (c : CopyOp) : Nat :=
  (distinct ((if c.srcSpad then [] else rowPages c.src c.srcPitch c.rows c.rowBytes)
    ++ (if c.dstSpad then [] else rowPages c.dst c.dstPitch c.rows c.dstRow))).length

/-- The scratchpad areas lie within the portion. -/
def CopyOp.within (c : CopyOp) (portion : Nat) : Bool :=
  (!c.srcSpad || decide (c.srcEnd ≤ portion)) && (!c.dstSpad || decide (c.dstEnd ≤ portion))

/-- The core has a copy engine that is owned (R312); the firmware context owns no partition's. -/
def State.hasCopyEngine (s : State) (c : CtxKey) (core : Nat) : Bool :=
  if c.fw then s.parts.any fun p => p.ceng.getLsbD core else (s.part c.part).ceng.getLsbD core

/-- COPY: a core without an owned engine refuses it (R312); then the checks of R235 in its order, and the command is queued
(R236). ADDR of its MISALIGNED is the source base, whichever rule of R234 is broken. DESIGN CHOICE: log 64. -/
def execCopy (a : CopyArgs) (s : State) : Host.Outcome State Fault Refusal :=
  let srcs := [(a.sa, if a.ssp then 1 else 2), (a.da, if a.dsp then 1 else 2), (a.gr, 2)]
    ++ ([a.pr, a.ra].filter Reg.isS).map (fun r => (r, 2)) ++ ([a.aw].filter Reg.isS).map (fun r => (r, 1))
  issue { g := a.g, size := 16, srcs := srcs, forbidden := true }
    (fun i =>
      let c := CopyArgs.command a i
      if !i.s.hasCopyEngine i.ctx i.core then i.fault .protection i.lane 0
      else if !c.aligned || c.badColumn i.s i.ctx.part then i.fault .misaligned i.lane c.src
      else if !c.sizesOk then i.fault .address i.lane 0
      else if !c.within i.l.portion then i.fault .address i.lane (if c.srcSpad && i.l.portion < c.srcEnd then c.src else c.dst)
      else if 4096 < c.pageCount then i.fault .address i.lane c.src
      else
        let (j, n) := i.newRec a.h.val
        .ok (j.queue (.copy c n i.pc i.lane))) s

/-! ### Handles -/

/-- State of the operation that a handle register names (R241): a record is made at the commit that releases it. -/
def Launch.handleState (l : Launch) (r : HReg) : HState :=
  if r.cancelled then .cancelled else match l.rec? r.num with | some x => x.state | none => .pending

/-- What HWAIT and HTEST write when the state is no longer Pending: the flags at the first such instruction (R101), and
the predicate. -/
def Arch.handleEnd (a : Arch) (r : HReg) (st : HState) (fl : Fl) (m : LaneMask) (pd : Option Nat) (test : Bool) : Arch :=
  let merges := (st == .done || st == .failed) && !a.merged.contains r.num
  let a := if merges then { a.raise fl with merged := r.num :: a.merged } else a
  match pd with
  | some p => { a.setPred p m (fun _ => test || st == .done) with poison := clearPoison [.p p] m a.poison }
  | none => a

/-- HWAIT without a predicate faults on a failed operation (R242). -/
def handleFails (st : HState) (pd : Option Nat) (test : Bool) : Bool := st == .failed && pd.isNone && !test

/-- Flags of a record that reach a warp: an MMA's go to the warps of its gang alone (R101, R164). -/
def Launch.recFlags (l : Launch) (w : WarpId) (n : Nat) : Fl :=
  match l.rec? n with
  | some x => if x.gang.contains (w.group, w.warp) then x.flags else 0
  | none => 0

/-- Items that the end of a handle wait writes: flags.fp only where it changes (R100). -/
def Arch.handleItems (a : Arch) (r : HReg) (st : HState) (fl : Fl) (pd : Option Nat) : List Item :=
  (if (a.handleEnd r st fl 0 none false).flags = a.flags then [] else [.flags])
    ++ (match pd with | some p => [.p p] | none => [])

/-- HWAIT and HTEST (R242): on a handle written in the same chunk the chunk ends first (R172). -/
def Iss.handleWait (i : Iss) (h : Nat) (pd : Option Nat) (test : Bool) : Eff Iss :=
  match i.w.arch.h.getD h none with
  | none => i.fault .handleInvalid i.lane 0
  | some r =>
    if i.w.chunk.logged.contains (.h h) then .error .before
    else
      let st := i.l.handleState r
      if st == .pending && (!test || i.repro) then .ok (i.wait i.lanes (.handle r h pd test))
      else if st == .pending then
        .ok (match pd with | some p => i.writePred p fun _ => false | none => i)
      else if handleFails st pd test then i.fault .transformFailed i.lane 0
      else
        let fl := i.l.recFlags i.wid r.num
        .ok ((i.log (i.w.arch.handleItems r st fl pd)).mapArch fun a => a.handleEnd r st fl i.active pd test)

/-- HWAIT (R242). -/
def execHwait (a : HwaitArgs) (s : State) : Host.Outcome State Fault Refusal :=
  issue { g := a.g, reads := [.h a.h.val], forbidden := true }
    (fun i => i.handleWait a.h.val (if a.pw then some a.pd.p.val else none) false) s

/-- HTEST (R242). -/
def execHtest (a : HtestArgs) (s : State) : Host.Outcome State Fault Refusal :=
  issue { g := a.g, reads := [.h a.h.val], forbidden := true } (fun i => i.handleWait a.h.val (some a.pd.val) true) s

/-- HCANCEL takes effect at the commit (R243). -/
def execHcancel (a : HandleArgs) (s : State) : Host.Outcome State Fault Refusal :=
  issue { g := a.g, reads := [.h a.h.val], once := true }
    (fun i =>
      match i.w.arch.h.getD a.h.val none with
      | none => i.fault .handleInvalid i.lane 0
      | some r => .ok (i.queue (.cancel a.h.val r.num))) s

/-- Tokens that chunks of the launch have made and not committed yet: record and token. -/
def State.madeTokens (s : State) (l : Launch) : List (Nat × Word) :=
  (s.allWarps.filter fun p => p.1.launch == l.num).flatMap fun p => p.2.chunk.queued.filterMap fun q => match q with
    | .token n t => some (n, t)
    | _ => none

/-- A token for an operation: the first, from a value that the device chooses, that no other operation of the launch has been
given (R242). DEDUCED: log 17. -/
def Iss.newToken (i : Iss) (n : Nat) : Word :=
  let made := i.s.madeTokens i.l ++ i.w.chunk.queued.filterMap fun q => match q with | .token m t => some (m, t) | _ => none
  let used := (i.l.recs.filter fun r => r.num != n).flatMap (fun r => r.named) ++ (made.filter fun p => p.1 != n).map fun p => p.2
  let at_ (k : Nat) : Word := Config.tokenBase ^^^ BitVec.ofNat 32 (n + k)
  at_ (((upTo (used.length + 1)).find? fun k => !used.contains (at_ k)).getD 0)

/-- HTOK (R242). -/
def execHtok (a : HandleArgs) (s : State) : Host.Outcome State Fault Refusal :=
  issue { g := a.g, reads := [.h a.h.val], dsts := [(a.r, 1)], once := true, onceReg := some a.r }
    (fun i =>
      match i.w.arch.h.getD a.h.val none with
      | none => i.fault .handleInvalid i.lane 0
      | some r =>
        let t := i.newToken r.num
        .ok ((i.write a.r 1 fun _ => t.toNat).queue (.token r.num t))) s

/-- Tokens of a record that HADOPT may still take: those outstanding, with the chunk's own HTOKs and HADOPTs counted. -/
def Iss.tokensLeft (i : Iss) (tok : Word) (n : Nat) : Nat :=
  let own := (i.w.chunk.queued.filter fun q => match q with | .token r t => r == n && t == tok | _ => false).length
  let used := (i.w.chunk.queued.filter fun q => match q with | .adopt r t => r == n && t == tok | _ => false).length
  let held := match i.l.rec? n with | some x => (x.tokens.filter fun t => t == tok).length | none => 0
  held + own - used

/-- The record of a token. -/
def Iss.tokenRec (i : Iss) (tok : Word) : Option Nat :=
  let own := i.w.chunk.queued.filterMap fun q => match q with | .token r t => if t = tok then some r else none | _ => none
  ((i.l.recs.map fun r => r.num) ++ own).find? fun n => decide (0 < i.tokensLeft tok n)

/-- HADOPT (R242). -/
def execHadopt (a : HandleArgs) (s : State) : Host.Outcome State Fault Refusal :=
  issue { g := a.g, srcs := [(a.r, 1)], once := true }
    (fun i =>
      let tok := i.reg a.r 0
      match i.tokenRec tok with
      | none => i.fault .handleInvalid i.lane 0
      | some n => .ok ((i.setHandle a.h.val (some { num := n })).queue (.adopt n tok))) s

/-! ### Arrival words (R244, R245) -/

/-- One credit of n bytes. -/
def awCredit (w n : Nat) : Nat :=
  let t := if bits w 24 23 = 0 then 2 ^ 23 else bits w 24 23
  let sum := bits w 0 23 + n
  (w / 2 ^ 23 % 2 ^ 25) * 2 ^ 23 + sum % t + (bits w 48 16 + sum / t) % 2 ^ 16 * 2 ^ 48

/-- The word that AWINIT writes: GEN and the reserved bit stay. -/
def awInit (w b : Nat) : Nat :=
  bits w 48 16 * 2 ^ 48 + bits b 31 1 * 2 ^ 47 + bits b 0 23 * 2 ^ 24 + bits w 23 1 * 2 ^ 23

/-- An access of the chunk to an arrival word. -/
def Iss.awUpdate (i : Iss) (r : Reg) (f : Nat → Nat) : Eff Iss :=
  let ea := (i.reg r 0).toNat
  (i.scratch i.lane ea 8).bind fun (j, xs) =>
    (j.load j.lane ea xs).bind fun (k, w) => .ok (k.store k.lane xs (leBytes 8 (f w)))

/-- AWINIT (R245): bits 30:23 of b must be 0. -/
def execAwinit (a : TwoRegArgs) (s : State) : Host.Outcome State Fault Refusal :=
  issue { g := a.g, srcs := [(a.d, 1), (a.a, 1)], once := true }
    (fun i =>
      let b := (i.reg a.a 0).toNat
      let ea := (i.reg a.d 0).toNat
      if ea % 8 ≠ 0 then i.fault .misaligned i.lane ea
      else if bits b 23 8 ≠ 0 then i.fault .address i.lane ea
      else i.awUpdate a.d fun w => awInit w b) s

/-- ARRIVE (R245). -/
def execArrive (a : TwoRegArgs) (s : State) : Host.Outcome State Fault Refusal :=
  issue { g := a.g, srcs := [(a.d, 1), (a.a, 1)], once := true }
    (fun i => i.awUpdate a.d fun w => awCredit w (bits (i.reg a.a 0).toNat 0 23)) s

/-- The arrival word as committed. -/
def State.arrivalWord (s : State) (x : Loc) : Nat := leNat (s.bytesAt x 8)

/-- AWAIT (R245): waits until GEN differs from b[15:0]. -/
def execAwait (a : TwoRegArgs) (s : State) : Host.Outcome State Fault Refusal :=
  issue { g := a.g, srcs := [(a.d, 1), (a.a, 1)], endsBefore := true, forbidden := true }
    (fun i =>
      let ea := (i.reg a.d 0).toNat
      (i.scratch i.lane ea 8).bind fun (j, xs) =>
        let x := xs.headD { space := .spad i.wid.launch i.wid.group, addr := ea }
        if xs.any fun y => j.s.isPoisoned y then j.fault .poison j.lane ea
        else .ok (j.wait j.lanes (.word x ((i.reg a.a 0).toNat % 2 ^ 16)))) s

end Sys2Proof.Machine
end

