-- ==== Sys2Proof/Machine/Ordering.lean ====
section
/-! DEFINITION. Class O: CHUNK, the transaction instructions, SETTLE and BEAT (R190, R227 to R232). -/

namespace Sys2Proof.Machine

/-- CHUNK ends the chunk after itself; inside a transaction it has no effect (R227). -/
def execChunk (g : Guard) (s : State) : Host.Outcome State Fault Refusal :=
  issue { g := g, endsAfter := true } (fun i => .ok i) s

/-- Target of a word offset (R46): relative to the next word. -/
def wordTarget (pc : Nat) (imm : Word) : Nat := wrapInt 64 ((pc : Int) + 8 + 8 * signed 32 imm.toNat)

/-- A lane of a transaction that has just entered it. -/
def TxLane.enter (l : Nat) : TxLane :=
  { lane := l, entered := true, depth := 1, trace := [], shared := true, done := false, stopped := false }

/-- The transaction that TXBEGIN opens (R229). -/
def Tx.opened (fallback : Nat) (active : LaneMask) (sregs : List Word) : Tx :=
  { fallback := fallback, lanes := (lanesOf active).map TxLane.enter, initial := active, first := lowestLane active, lead := []
    sEnd := sregs, clocks := [] }

/-- TXBEGIN of a lane inside an open transaction: one deeper, or an entering lane from here on (R229). -/
def Tx.deepen (t : Tx) (l : Nat) : Tx :=
  match t.lane? l with
  | none => { t with lanes := t.lanes ++ [{ TxLane.enter l with shared := false }] }
  | some _ =>
    { t with lanes := t.lanes.map fun x =>
        if x.lane = l then
          if x.entered then { x with depth := x.depth + 1 } else { x with entered := true, depth := 1, shared := false }
        else x }

/-- TXBEGIN (R228, R229): a depth of 8 aborts with NESTING (R230). -/
def execTxbegin (a : OffArgs) (s : State) : Host.Outcome State Fault Refusal :=
  issue { g := a.g, endsBefore := true }
    (fun i =>
      match i.w.arch.tx with
      | none => .ok (i.mapArch fun x => { x with tx := some (Tx.opened (wordTarget i.pc a.imm) i.active x.s) })
      | some t =>
        if i.activeLanes.any fun l => t.entered l && decide (7 ≤ t.depth l) then .error (.abort 4 0)
        else .ok (i.mapArch fun x => { x with tx := some (i.activeLanes.foldl Tx.deepen t) })) s

/-- The lowest active lane outside any transaction (R229). -/
def Iss.untransacted (i : Iss) : Option Nat :=
  i.activeLanes.find? fun l => match i.w.arch.tx with | none => true | some t => t.depth l == 0

/-- TXEND of one lane. -/
def Tx.rise (t : Tx) (l : Nat) : Tx :=
  { t with lanes := t.lanes.map fun x =>
      if x.lane = l then { x with depth := x.depth - 1, done := x.entered && x.depth == 1 } else x }

/-- TXEND: a lane whose depth reaches 0 waits for the commit (R229, R254). -/
def execTxend (g : Guard) (s : State) : Host.Outcome State Fault Refusal :=
  issue { g := g }
    (fun i =>
      match i.untransacted with
      | some l => i.fault .txNesting l 0
      | none =>
        match i.w.arch.tx with
        | none => .ok i
        | some t =>
          let t' := i.activeLanes.foldl Tx.rise t
          let done := i.active &&& maskOf t'.done
          let j := i.mapArch fun x => { x with tx := some t' }
          .ok (if done = 0 then j else j.wait done .txend)) s

/-- TXABORT acts for the whole warp (R228, R230). -/
def execTxabort (a : TxAbortArgs) (s : State) : Host.Outcome State Fault Refusal :=
  issue { g := a.g }
    (fun i =>
      match i.untransacted with
      | some l => i.fault .txNesting l 0
      | none => .error (.abort 2 a.code.toNat)) s

/-- Operations that a warp has released and that have not been applied or published (R190): a gang's MMA belongs to each of
its warps. -/
def State.opsOf (s : State) (w : WarpId) : List Nat :=
  (s.ops.filter fun o => o.launch == w.launch && o.group == w.group
    && (o.warp == w.warp || o.recs.any fun r => r.1 == w.warp)).map fun o => o.num

/-- Records of a warp's MMAs that wait at an open rendezvous (R154). -/
def State.arrivalsOf (s : State) (w : WarpId) : List Nat :=
  match s.group? w.launch w.group with
  | none => []
  | some g => g.gangs.flatMap fun r => (r.arrivals.filter fun a => a.warp == w.warp).map fun a => a.hrec

/-- SETTLE (R190). -/
def execSettle (g : Guard) (s : State) : Host.Outcome State Fault Refusal :=
  issue { g := g, endsBefore := true, forbidden := true } (fun i => .ok (i.wait i.lanes (.settle (i.s.opsOf i.wid) (i.s.arrivalsOf i.wid)))) s

/-- The context's beat: commit rounds in reproducible mode (R189). -/
def State.beatOf (s : State) (c : CtxKey) : Nat :=
  match s.context? c with
  | some x => if x.repro then x.rounds else s.beat
  | none => s.beat

/-- BEAT: waits for the next tick, then for what the context released before the previous one (R190). -/
def execBeat (g : Guard) (s : State) : Host.Outcome State Fault Refusal :=
  issue { g := g, endsBefore := true, forbidden := true } (fun i => .ok (i.wait i.lanes (.beat (i.s.beatOf i.ctx)))) s

end Sys2Proof.Machine
end

