-- ==== Sys2Proof/Machine/Control.lean ====
section
/-! DEFINITION. Class B: branches, the return stack, EXIT, WSYNC, barriers, YIELD and SLEEP (R254 to R269). -/

namespace Sys2Proof.Machine

/-- NOP (R260). -/
def execNop (g : Guard) (s : State) : Host.Outcome State Fault Refusal := issue { g := g } (fun i => .ok i) s

/-! ### Branches -/

/-- BRA moves the active lanes (R260). -/
def execBra (a : OffArgs) (s : State) : Host.Outcome State Fault Refusal :=
  issue { g := a.g, branch := true } (fun i => .ok (i.jump i.active fun _ => wordTarget i.pc a.imm)) s

/-- The lowest active lane whose target is not a multiple of 8 (R42, R78). -/
def Iss.badTarget (i : Iss) (r : Reg) : Option Nat := i.activeLanes.find? fun l => i.val r l 2 % 8 ≠ 0

/-- JMP (R260). ADDR of a misaligned transfer is its target. DESIGN CHOICE: log 64. -/
def execJmp (a : RegArgs) (s : State) : Host.Outcome State Fault Refusal :=
  issue { g := a.g, srcs := [(a.r, 2)], branch := true }
    (fun i =>
      match i.badTarget a.r with
      | some l => i.fault .misaligned l (i.val a.r l 2)
      | none => .ok (i.jump i.active fun l => i.val a.r l 2)) s

/-- One table word of BRX: an ordinary load (R261). -/
def brxLoad (a : BrxArgs) (i : Iss) (l : Nat) : Eff (Iss × Nat) :=
  let va := ea64 (i.val a.b l 2) (4 * (i.reg a.a l).toNat : Nat)
  (i.device l va 4 false .read).bind fun (j, xs) => j.load l va xs

/-- BRX for some lanes in turn: each moves to the target that its table word gives. -/
def brxLanes (a : BrxArgs) (i : Iss) (whole : LaneMask) : List Nat → Eff Iss
  | [] => .ok i
  | l :: ls =>
    (brxLoad a i l).bind fun (j, x) =>
      brxLanes a (j.jump (if a.a.isS then whole else laneBit l) fun _ => wordTarget i.pc (BitVec.ofNat 32 x)) whole ls

/-- BRX (R261). The lanes of a transaction load their own table words, since a lane before them may have stored there (R232). -/
def execBrx (a : BrxArgs) (s : State) : Host.Outcome State Fault Refusal :=
  issue { g := a.g, srcs := [(a.a, 1), (a.b, 2)], branch := true }
    (fun i =>
      match i.activeLanes.find? fun l => decide (a.n.toNat ≤ (i.reg a.a l).toNat) with
      | some l => i.fault .jtableBound l 0
      | none => brxLanes a i i.active (i.accessLanes a.a.isS)) s

/-! ### The return stack (R256, R257): the top entry comes first -/

/-- Place of an entry from the bottom, which names it in the undo log. -/
def retItem (st : List RetEntry) (k : Nat) : Item := .ret (st.length - 1 - k)

/-- The push of CALL and CALLR, none when the stack is full. -/
def pushRet (r : Nat) (m : LaneMask) (st : List RetEntry) : Option (List RetEntry × Item) :=
  match st with
  | e :: rest =>
    if e.addr = r && e.mask &&& m == 0 then some ({ e with mask := e.mask ||| m } :: rest, retItem st 0)
    else if st.length = 32 then none
    else some ({ addr := r, mask := m } :: st, .ret st.length)
  | [] => some ([{ addr := r, mask := m }], .ret 0)

/-- CALL and CALLR: the return stack first, then the lanes move (R262). -/
def Iss.call (i : Iss) (target : Nat → Nat) : Eff Iss :=
  match pushRet ((i.pc + 8) % 2 ^ 64) i.active i.w.arch.rstack with
  | none => i.fault .stackOverflow i.lane 0
  | some (st, x) => .ok (((i.log [x]).mapArch fun a => { a with rstack := st }).jump i.active target)

/-- CALL (R262). -/
def execCall (a : OffArgs) (s : State) : Host.Outcome State Fault Refusal :=
  issue { g := a.g } (fun i => i.call fun _ => wordTarget i.pc a.imm) s

/-- CALLR (R262): STACK_OVERFLOW is a warp fault and comes before the lanes' alignment (R77). ADDR of a misaligned transfer is its
target. DESIGN CHOICE: log 64. -/
def execCallr (a : RegArgs) (s : State) : Host.Outcome State Fault Refusal :=
  issue { g := a.g, srcs := [(a.r, 2)], branch := true }
    (fun i =>
      (i.call fun l => i.val a.r l 2).bind fun j =>
        match i.badTarget a.r with
        | some l => i.fault .misaligned l (i.val a.r l 2)
        | none => .ok j) s

/-- The topmost entry whose mask holds the lane. -/
def ownRet (st : List RetEntry) (l : Nat) : Option (Nat × RetEntry) :=
  (st.zipIdx.find? fun p => laneOn p.1.mask l).map fun p => (p.2, p.1)

/-- The stack after some lanes have returned: each leaves its own entry, and empty entries go. -/
def popRet (st : List RetEntry) (m : LaneMask) : List RetEntry :=
  let own (l k : Nat) : Bool := match ownRet st l with | some (n, _) => n == k | none => false
  (st.zipIdx.map fun p => { p.1 with mask := p.1.mask &&& ~~~(m &&& maskOf fun l => own l p.2) }).filter fun e => e.mask ≠ 0

/-- RET (R257). ADDR of a misaligned transfer is its target. DESIGN CHOICE: log 64. -/
def execRet (a : RegBitArgs) (s : State) : Host.Outcome State Fault Refusal :=
  issue { g := a.g, srcs := if a.bit then [(a.r, 2)] else [] }
    (fun i =>
      let st := i.w.arch.rstack
      match i.activeLanes.find? fun l => (ownRet st l).isNone with
      | some l => i.fault .stackUnderflow l 0
      | none =>
        let target (l : Nat) : Nat :=
          if a.bit then i.val a.r l 2 else match ownRet st l with | some (_, e) => e.addr | none => 0
        match if a.bit then i.badTarget a.r else none with
        | some l => i.fault .misaligned l (target l)
        | none =>
          let items := i.activeLanes.filterMap fun l => (ownRet st l).map fun p => retItem st p.1
          .ok (((i.log items).mapArch fun x => { x with rstack := popRet st i.active }).jump i.active target)) s

/-! ### EXIT and WSYNC -/

/-- EXIT: its lanes leave at the commit (R255, R263). -/
def execExit (g : Guard) (s : State) : Host.Outcome State Fault Refusal :=
  issue { g := g, endsAfter := true, forbidden := true }
    (fun i => .ok (i.mapChunk fun c => { c with exiting := c.exiting ||| i.active })) s

/-- The lanes that a WSYNC names (R264). -/
def RegBitArgs.wsyncMask (a : RegBitArgs) (i : Iss) : LaneMask := if a.bit then ~~~(0 : LaneMask) else i.reg a.r 0

/-- Some lanes of the issue wait at the WSYNC. -/
def Iss.meet (i : Iss) (stay m : LaneMask) : Iss :=
  if stay = 0 then i
  else (i.wait stay (.wsync m)).mapArch fun x => { x with waits := x.waits.map fun w => { w with active := w.active &&& w.lanes } }

/-- WSYNC (R264). In a transaction the entering lanes, which run one after another, meet in its sequence, and another lane waits
for them (R232; log 16). -/
def execWsync (a : RegBitArgs) (s : State) : Host.Outcome State Fault Refusal :=
  issue { g := a.g, srcs := if a.bit then [] else [(a.r, 1)], meets := fun i => some (RegBitArgs.wsyncMask a i) }
    (fun i =>
      let m := RegBitArgs.wsyncMask a i
      let stay := i.active &&& m
      .ok (match i.w.arch.tx with
        | none => if stay = 0 then i else (i.meet stay m).mapArch Arch.wsyncRelease
        | some t => (if stay = 0 then i else i.log [.lanes]).meet (stay &&& ~~~maskOf t.entered) m)) s

/-! ### Barriers -/

/-- R21, R266: the level is one that the span gives, and a core barrier's number lies below BARS. -/
def BarArgs.legal (a : BarArgs) (l : Launch) : Bool :=
  match a.lv with
  | .core => decide (a.id.val < l.fields.bars)
  | .quad => l.fields.span == 1
  | .tier => l.fields.span == 2
  | .pkg => l.fields.span == 3

def Barrier.fresh : Barrier := { phase := 0, arrived := [], least := none }

/-- The barrier that a group names, fresh before its first use. -/
def State.barrier (s : State) (launch group : Nat) (lv : Level) (id : Nat) : Barrier :=
  match s.launch? launch with
  | none => Barrier.fresh
  | some l =>
    match l.group? group with
    | none => Barrier.fresh
    | some g =>
      match lv with
      | .core => g.bars.getD id Barrier.fresh
      | .quad => (getKey (g.index / 4, id) l.quadBars).getD Barrier.fresh
      | .tier => (getKey id l.tierBars).getD Barrier.fresh
      | .pkg => l.pkgBars.getD id Barrier.fresh

def State.setBarrier (s : State) (launch group : Nat) (lv : Level) (id : Nat) (b : Barrier) : State :=
  s.mapLaunch launch fun l =>
    match l.group? group with
    | none => l
    | some g =>
      match lv with
      | .core => l.mapGroup group fun x => { x with bars := x.bars.set id b }
      | .quad => { l with quadBars := setKey (g.index / 4, id) b l.quadBars }
      | .tier => { l with tierBars := setKey id b l.tierBars }
      | .pkg => { l with pkgBars := l.pkgBars.set id b }

/-- A warp's bit of a barrier: its number in its group for a core barrier, else in its launch. -/
def memberBit (lv : Level) (w : WarpId) : Nat := match lv with | .core => w.warp | _ => w.group * 32 + w.warp

/-- An arrival; a count of 0 stands for every live warp and bounds nothing (R266). -/
def Barrier.arrive (b : Barrier) (bit : Nat) (cnt : Option Nat) : Barrier :=
  { b with
    arrived := insertNew bit b.arrived
    least := match cnt with
      | none => b.least
      | some 0 => b.least
      | some n => match b.least with | some m => some (min m n) | none => some n }

/-- BARA and the first half of BAR for the issue: an arrival, or a wait for the phase where the bit is set already. -/
def Iss.barArrive (i : Iss) (a : BarArgs) (thenWait : Bool) : Eff Iss :=
  let b := i.s.barrier i.wid.launch i.wid.group a.lv a.id.val
  let cnt := if a.cnt then some ((i.reg a.a 0).toNat % 64) else none
  let bit := memberBit a.lv i.wid
  if b.arrived.contains bit then .ok (i.wait i.lanes (.barArrive a.lv a.id.val cnt b.phase thenWait))
  else
    let j := { i with s := i.s.setBarrier i.wid.launch i.wid.group a.lv a.id.val (b.arrive bit cnt) }
    .ok (if thenWait then j.wait j.lanes (.barWait a.lv a.id.val b.phase) else j)

/-- How a barrier word issues. -/
def BarArgs.kind (a : BarArgs) : Kind :=
  { g := a.g, srcs := if a.cnt then [(a.a, 1)] else [], check := fun l _ => BarArgs.legal a l
    endsBefore := true, forbidden := true }

/-- BAR (R266). -/
def execBar (a : BarArgs) (s : State) : Host.Outcome State Fault Refusal :=
  issue (BarArgs.kind a) (fun i => i.barArrive a true) s

/-- BARA (R266). -/
def execBara (a : BarArgs) (s : State) : Host.Outcome State Fault Refusal :=
  issue (BarArgs.kind a) (fun i => i.barArrive a false) s

/-- BARW (R266). -/
def execBarw (a : BarArgs) (s : State) : Host.Outcome State Fault Refusal :=
  issue (BarArgs.kind a)
    (fun i =>
      let b := i.s.barrier i.wid.launch i.wid.group a.lv a.id.val
      .ok (if b.arrived.contains (memberBit a.lv i.wid) then i.wait i.lanes (.barWait a.lv a.id.val b.phase) else i)) s

/-! ### YIELD and SLEEP -/

/-- YIELD is a hint; with ROT the next issue is a fairness issue, unless every Ready lane holds this address (R268). -/
def execYield (a : YieldArgs) (s : State) : Host.Outcome State Fault Refusal :=
  issue { g := a.g, rot := a.rot }
    (fun i =>
      .ok (if a.rot && i.w.arch.tx.isNone && i.w.arch.ready &&& ~~~i.lanes != 0 then i.mapArch Arch.fairIssue else i)) s

/-- SLEEP (R269): a count of cycles, or of commit rounds in reproducible mode; SLEEP 0 only ends the chunk. -/
def execSleep (a : OffArgs) (s : State) : Host.Outcome State Fault Refusal :=
  issue { g := a.g, endsBefore := true, forbidden := true }
    (fun i =>
      let n := a.imm.toNat
      .ok (if n = 0 then i
        else if i.repro then i.wait i.lanes (.sleep (i.s.beatOf i.ctx + (n + 1023) / 1024) true)
        else i.wait i.lanes (.sleep (i.s.cycle + n) false))) s

end Sys2Proof.Machine
end

