-- ==== Sys2Proof/Machine/LaunchOps.lean ====
section
/-! DEFINITION. Class S: LAUNCH, DEPDONE, YDONE and YRET (R300 to R303). -/

namespace Sys2Proof.Machine

/-- An 8-byte access to a word of a queue header, as one of the chunk's (R301, R224). -/
def Iss.headerWord (i : Iss) (va : Nat) (acc : Access) : Eff (Iss × List Loc) := i.device i.lane (va % 2 ^ 64) 8 false acc true

def Iss.loadWord (i : Iss) (va : Nat) : Eff (Iss × Nat) :=
  (i.headerWord va .read).bind fun (j, xs) => j.load j.lane va xs

/-- LAUNCH (R301): LOGCAP, TAIL and HEAD are read, TAIL is raised in the chunk, and the notify is queued. -/
def execLaunch (a : TwoRegArgs) (s : State) : Host.Outcome State Fault Refusal :=
  issue { g := a.g, srcs := [(a.a, 2)], dsts := [(a.d, 1)], once := true }
    (fun i =>
      let h := i.val a.a 0 2
      (i.loadWord (h + 8)).bind fun (j, cap) =>
      (j.loadWord (h + 16)).bind fun (j, tail) =>
      (j.loadWord (h + 24)).bind fun (j, head) =>
        match j.s.queues.find? fun q => q.ctx == j.ctx && q.header == h with
        | none => j.fault .protection j.lane 0
        | some q =>
          if 2 ^ (cap % 256) ≤ (tail + 2 ^ 64 - head) % 2 ^ 64 then .ok (j.write a.d 1 fun _ => 2 ^ 32 - 1)
          else
            (j.headerWord (h + 16) .write).bind fun (k, xs) =>
              let n := (tail + 1) % 2 ^ 64
              let k := k.store k.lane xs (leBytes 8 n)
              .ok ((k.write a.d 1 fun _ => q.key.idx * 2 ^ 24 + tail % 2 ^ 24).queue (.notify q.key n))) s

/-- DEPDONE (R302): a second one by the same warp has no effect. -/
def execDepdone (g : Guard) (s : State) : Host.Outcome State Fault Refusal :=
  issue { g := g, endsBefore := true, forbidden := true }
    (fun i => .ok (if i.w.depArrived then i else i.wait i.lanes (.depdone (i.s.opsOf i.wid) (i.s.arrivalsOf i.wid)))) s

/-- YDONE (R303): outside a yield handler it only ends the chunk. -/
def execYdone (g : Guard) (s : State) : Host.Outcome State Fault Refusal :=
  issue { g := g, endsBefore := true, forbidden := true }
    (fun i => .ok (if i.w.arch.yrec.isNone then i else i.wait i.lanes (.ydone (i.s.opsOf i.wid) (i.s.arrivalsOf i.wid)))) s

/-- The lanes, waits, fairness state and return stack of a yield record; a lane that has exited since stays so (R255). -/
def Arch.resume (a : Arch) (y : YieldRec) : Arch :=
  let live := a.live
  { a with
    pc := a.pc.zipIdx.map fun p => if laneOn live p.2 then y.pc.getD p.2 0 else p.1
    st := a.st.zipIdx.map fun p => if laneOn live p.2 then y.st.getD p.2 .exited else p.1
    waits := dropWaiters (~~~live) y.waits
    rstack := (y.rstack.map fun e => { e with mask := e.mask &&& live }).filter fun e => e.mask ≠ 0
    fairF := y.fairF
    fairC := y.fairC
    fairNext := y.fairNext
    yrec := none }

/-- YRET (R303): with no record it is a NOP. -/
def execYret (g : Guard) (s : State) : Host.Outcome State Fault Refusal :=
  issue { g := g }
    (fun i =>
      match i.w.arch.yrec with
      | none => .ok i
      | some y =>
        let n := max y.rstack.length i.w.arch.rstack.length
        .ok ((i.log (.lanes :: (upTo n).map .ret)).mapArch fun a => a.resume y)) s

end Sys2Proof.Machine
end

