-- ==== Sys2Proof/Machine/Effects.lean ====
section
/-! DEFINITION. Effects on committed state, each a place in the one order: conflicts and squashes (R177 to R179), allocation,
release and writes (R180 to R184, R216 to R221), the pre-grant's holds (R178), poison clearing (R352), and translation
changes (R326). -/

namespace Sys2Proof.Machine

/-! ### Conflicts -/

/-- What an effect changes: the words it writes, the pages that PGRESET wipes whole, and the pages whose backing changes. -/
structure Touch where
  words : List Loc
  wiped : List Loc
  states : List Loc
  deriving DecidableEq, Repr

/-- Words of some bytes. -/
def wordsOf (l : List Loc) : List Loc := distinct (l.map Loc.word)

/-- The touched words meet some words. -/
def Touch.hits (t : Touch) (l : List Loc) : Bool := l.any fun x => t.words.contains x || t.wiped.contains x.page

/-- The effect overlaps what a running chunk has read (R177, R219). DEDUCED: log 52. -/
def Touch.conflicts (t : Touch) (c : Chunk) : Bool := t.hits c.reads || t.states.any c.pageReads.contains

/-- Squashes every running chunk that read what the effect changes, but for one warp and for holders (R177, R178). -/
def State.squashReaders (s : State) (skip : Option WarpId) (t : Touch) : State :=
  let hit (l : Launch) (g : Group) (n : Nat) (w : Warp) : Bool :=
    skip != some ⟨l.num, g.index, n⟩ && w.chunk.pregrant != .held && t.conflicts w.chunk
  { s with launches := s.launches.map fun l =>
      let n := (l.groups.map fun g => (g.warps.zipIdx.filter fun p => hit l g p.2 p.1).length).sum
      { l with
        squash := l.squash + n
        groups := l.groups.map fun g =>
          { g with warps := g.warps.zipIdx.map fun p => if hit l g p.2 p.1 then p.1.squashConflict else p.1 } } }

/-- The effect overlaps what a running chunk has written: the words of its stores, and every word of a page that it has reset
(R178, R220). -/
def Touch.meetsWrites (t : Touch) (c : Chunk) : Bool :=
  t.hits (c.writes.map fun x => x.1.word)
    || c.resets.any fun x => t.words.any (fun y => y.page == x) || t.wiped.contains x || t.states.contains x

/-- The effect meets a bit of the chunk (R178). -/
def Touch.meets (t : Touch) (c : Chunk) : Bool := t.conflicts c || t.meetsWrites c

/-- Another warp that holds a pre-grant whose bits the effect meets (R178). -/
def State.blocker (s : State) (skip : Option WarpId) (t : Touch) : Option WarpId :=
  (s.allWarps.find? fun p => skip != some p.1 && p.2.chunk.pregrant == .held && t.meets p.2.chunk).map fun p => p.1

/-- There is such a warp: the effect waits. -/
def State.heldBack (s : State) (skip : Option WarpId) (t : Touch) : Bool := (s.blocker skip t).isSome

/-! ### Backing -/

/-- TLB entries of a partition's contexts over a page are dropped. -/
def State.dropPage (s : State) (part page : Nat) : State :=
  { s with tlb := s.tlb.filter fun t => !(t.ctx.part == part && !t.ctx.fw && t.page == page) }

/-- A page of device memory filled with a region's default. -/
def fillPage (m : List Host.Cell) (pg : Nat) (r : Region) : List Host.Cell :=
  let z := memZero m (pg * 65536) 65536
  if r.default = 0 then z else memPutBytes z (pg * 65536) ((upTo 65536).map r.defaultByte)

/-- Binds a page of a region to a physical page, filled with the default (R216, R411). -/
def State.bindPage (s : State) (x : Loc) (pg : Nat) : State :=
  match x.space with
  | .region p => match s.regionAt p x.addr with
    | some (i, r) =>
      (({ s with mem := fillPage s.mem pg r }).mapRegion p i fun y =>
        { y with backed := setKey ((x.addr - y.base) / 65536) pg y.backed }).dropPage p (x.addr / 65536)
    | none => s
  | _ => s

/-- Allocation of an unbacked page: an external region's own page, or one of the partition's pool; none where the pool is
empty (R216, R217). DESIGN CHOICE: log 9. -/
def State.allocate (s : State) (x : Loc) : Option State :=
  match x.space with
  | .region p => match s.regionAt p x.addr with
    | some (_, r) =>
      if r.ext then some (s.bindPage x (r.fpa / 65536 + (x.addr - r.base) / 65536))
      else match (s.part p).pool with
        | [] => none
        | pg :: rest => some ((s.mapPart p fun y => { y with pool := rest }).bindPage x pg)
    | none => some s
  | _ => some s

/-- Release of a page: its backing goes back to the pool, an external region keeps its own (R218, R411); its poison goes with
it. -/
def State.unbind (s : State) (x : Loc) : State :=
  match x.space with
  | .region p => match s.regionAt p x.addr with
    | some (i, r) =>
      let k := (x.addr - r.base) / 65536
      match r.backing k with
      | none => s
      | some pg =>
        let s := (s.mapRegion p i fun y => { y with backed := dropKey k y.backed }).dropPage p (x.addr / 65536)
        let s := { s with poison := s.poison.filter fun y => y.page ≠ x.page, dirty := s.dirty.filter fun d => d.line.page ≠ x.page
                          mem := memZero s.mem (pg * 65536) 65536 }
        if r.ext then s else s.mapPart p fun y => { y with pool := y.pool ++ [pg] }
    | none => s
  | .dev => { s with mem := memZero s.mem (x.addr / 65536 * 65536) 65536, poison := s.poison.filter fun y => y.page ≠ x.page }
  | _ => s

/-- The region pages among some writes that are unbacked, or will be once the resets are done, and receive a byte other than
the default (R216, R220). -/
def State.toAllocate (s : State) (resets : List Loc) (ws : List (Loc × Byte)) : List Loc :=
  distinct ((ws.filter fun p =>
    (!s.isBacked p.1 || (resets.contains p.1.page && (match p.1.space with | .region _ => true | _ => false)))
      && p.2 != s.defaultAt p.1).map fun p => p.1.page)

/-- Allocates pages in turn. -/
def State.allocateAll (s : State) : List Loc → Option State
  | [] => some s
  | x :: xs => (s.allocate x).bind fun t => t.allocateAll xs

/-- What a set of resets and writes touches. -/
def State.touchOf (s : State) (resets : List Loc) (ws : List (Loc × Byte)) : Touch :=
  { words := wordsOf (ws.map (·.1)), wiped := resets
    states := s.toAllocate resets ws ++ resets.filter fun x => s.isBacked x }

/-! ### Writes -/

/-- Clears the poison of every unit whose bytes are all written (R352). -/
def State.healUnits (s : State) (locs : List Loc) : State :=
  let size (x : Loc) : Nat := if x.space.isSpad then 4 else 64
  let full (u : Loc) : Bool := (upTo (size u)).all fun n => locs.contains (u.plus n)
  { s with poison := s.poison.filter fun u => !(locs.any (fun x => x.unit = u) && full u) }

/-- Default tags of scratchpad units that are written (R157, R239). -/
def State.clearTags (s : State) (locs : List Loc) : State :=
  (distinct (locs.filterMap fun x => match x.space with
    | .spad l g => some (l, g, x.addr / 256)
    | _ => none)).foldl (fun s t => s.mapGroup t.1 t.2.1 fun g => { g with tags := g.tags.filter fun u => u ≠ t.2.2 }) s

/-- A launch has written a line: it becomes one of those with dirty data in it, and its core owns the line, with what earlier
launches have left in it (R177, R360). -/
def dirtyLine (core launch : Nat) (l : List Dirty) (x : Loc) : List Dirty :=
  { line := x, core := core, launch := launch }
    :: (l.filter fun d => d.line != x || d.launch != launch).map fun d => if d.line = x then { d with core := core } else d

/-- Lines of device memory become dirty lines with their owner. -/
def State.markDirty (s : State) (core launch : Nat) (locs : List Loc) : State :=
  let lines := distinct ((locs.filter fun x => !x.space.isSpad && !x.space.irrevocable).map Loc.line)
  { s with dirty := lines.foldl (dirtyLine core launch) s.dirty }

/-- Lines that a bypass store's commit writes to DRAM hold no dirty data (R209). -/
def State.writeLines (s : State) (lines : List Loc) : State := { s with dirty := s.dirty.filter fun d => !lines.contains d.line }

/-- Stores bytes in order. A byte of a page that stays unbacked is dropped (R216). -/
def State.putBytes (s : State) (ws : List (Loc × Byte)) : State := ws.foldl (fun s p => s.putByte p.1 p.2) s

/-- Fills, resets, allocation and writes of one effect (R112, R181, R216, R220); none where the pool is short. Some lines are
written past L2 (R209). -/
def State.place (s : State) (resets : List Loc) (ws : List (Loc × Byte)) (past : List Loc := []) : Option State :=
  let need := s.toAllocate resets ws
  let locs := ws.map (·.1)
  ((resets.foldl State.unbind (s.fillLines (locs.filter fun x => !past.contains x.line))).allocateAll need).map fun t =>
    ((t.putBytes ws).healUnits locs).clearTags locs

/-- Answers of a singleton's attempt (R178, R217). -/
inductive Placed where
  | done (s : State)
  | held
  | noPool
  deriving DecidableEq, Repr

/-- A singleton effect in the order: it waits for a pre-grant's holder and for backing, squashes readers, and takes a new number
unless it writes scratchpad alone (R176, R177, R181). What a peer refuses is not written (R397). -/
def State.singleton (s : State) (ws : List (Loc × Byte)) : Placed :=
  let t := s.touchOf [] ws
  if s.heldBack none t then .held
  else match s.place [] (ws.filter fun p => !s.refuses p.1) with
    | none => .noPool
    | some s' => .done ({ s' with seq := s'.seq + (if ws.all (fun p => p.1.space.isSpad) then 0 else 1) }.squashReaders none t)

/-- The device has written some bytes at their home: no host caches their halves, and no core's dirty copy of their lines is newer
(R177, R187). -/
def State.ownWrites (s : State) (locs : List Loc) : State :=
  { s with
    halves := s.halves.filter fun h => !locs.any fun x => x.half = h.1
    dirty := s.dirty.filter fun d => !locs.any fun x => x.line = d.line }

/-- A write by the device itself; none while it must wait for a holder, for backing, or for a half that the host owns (R178,
R187, R217). -/
def State.writeNow (s : State) (ws : List (Loc × Byte)) : Option State :=
  if ws.any fun p => s.hostOwns p.1 then none
  else match s.singleton ws with
    | .done t => some (t.ownWrites (ws.map (·.1)))
    | _ => none

/-- Release of a page that holds only defaults (R218, R221): the page reads the same before and after (R411), and only a
chunk that read the page's state is squashed. -/
def State.releasePage (s : State) (skip : Option WarpId) (x : Loc) : State :=
  ({ s.unbind x with seq := s.seq + 1 }).squashReaders skip { words := [], wiped := [], states := [x.page] }

/-- Every byte of a backed page equals the default (R218). -/
def State.pageDefault (s : State) (x : Loc) : Bool :=
  match s.physOf x.page with
  | none => false
  | some pa =>
    (s.mem.all fun c => decide (c.1 < pa) || decide (pa + 65536 ≤ c.1) || c.2 == s.defaultAt (x.page.plus (c.1 - pa)))
      && (match x.space with
        | .region p => (match s.regionAt p x.addr with
          | some (_, r) => decide (r.default = 0) || (upTo 65536).all fun n => memGet s.mem (pa + n) == r.defaultByte n
          | none => false)
        | _ => false)

/-- A page that holds only defaults may be released, but never a poisoned one (R352). -/
def State.releasable (s : State) (x : Loc) : Bool := s.pageDefault x && !(s.poison.any fun y => y.page = x.page)

/-- An operation or a run has pinned the page (R327, R374). -/
def State.pinnedPage (s : State) (x : Loc) : Bool :=
  (s.ops.any fun o => o.pins.contains x.page) || s.runs.any fun r => r.locs.any fun l => l.any fun y => y.page = x.page

/-! ### Translation changes (R326) -/

/-- A squash for a cause other than a conflict. -/
def State.squashWarps (s : State) (f : WarpId → Warp → Bool) : State :=
  { s with launches := s.launches.map fun l =>
      let hit (g : Group) (p : Warp × Nat) : Bool := f ⟨l.num, g.index, p.2⟩ p.1
      { l with
        squash := l.squash + (l.groups.map fun g => (g.warps.zipIdx.filter (hit g)).length).sum
        groups := l.groups.map fun g => { g with warps := g.warps.zipIdx.map fun p => if hit g p then p.1.squash else p.1 } } }

/-- The context of a warp. -/
def State.ctxOf (s : State) (w : WarpId) : Option CtxKey := (s.launch? w.launch).map fun l => l.ctx

/-- A translation change over the pages of some contexts: its entries are dropped, and running chunks that used one of them
are squashed; `skip` is the warp whose own instruction makes the change. -/
def State.translationChange (s : State) (skip : Option WarpId) (ctxs : CtxKey → Bool) (pages : Nat → Bool) : State :=
  let t := { s with tlb := s.tlb.filter fun e => !(ctxs e.ctx && pages e.page) }
  t.squashWarps fun id w =>
    skip != some id && (match s.ctxOf id with | some c => ctxs c | none => false) && w.chunk.pages.any pages

end Sys2Proof.Machine
end

