-- ==== Sys2Proof/Machine/NbProgram.lean ====
section
/-! DEFINITION. The checks that NBLOAD makes on a block of microinstructions (R368 to R371). Positions are store indexes. -/

namespace Sys2Proof.Machine

/-- Cycles of a microinstruction (R369). -/
def nbCost : Instr → Nat
  | .nopen _ | .nopens _ => 16
  | .nclose => 8
  | .nrd _ | .nwr _ => 32
  | .nadd _ _ _ | .nsub _ _ _ | .nmul _ _ _ | .nfma _ _ _ | .naxpy _ _ _ | .nscale _ _ _ | .nmax _ _ _ | .nmin _ _ _
  | .nrsq _ _ | .nchk _ | .nmovb _ _ => 64
  | _ => 1

/-- The words that may follow a word at position `k`. -/
def nbNext (i : Instr) (k : Nat) : List Nat :=
  match i with
  | .nbra t => [t.toNat]
  | .nloop _ t | .nbrz _ t => [k + 1, t.toNat]
  | .ndone => []
  | _ => [k + 1]

/-- The branch target of a word. -/
def nbTarget : Instr → Option Nat
  | .nbra t | .nloop _ t | .nbrz _ t => some t.toNat
  | _ => none

/-- The open-row state that a word needs: `some true` for open (R371 check 5). -/
def nbNeeds : Instr → Option Bool
  | .nopen _ | .nopens _ | .npoint | .ndone | .nbra _ | .nloop _ _ | .nbrz _ _ => some false
  | .nrd _ | .nwr _ | .nclose => some true
  | _ => none

/-- The open-row state after a word. -/
def nbAfter (i : Instr) (opened : Bool) : Bool :=
  match i with
  | .nopen _ | .nopens _ => true
  | .nclose => false
  | _ => opened

def isNpoint : Instr → Bool
  | .npoint => true
  | _ => false

def isNdone : Instr → Bool
  | .ndone => true
  | _ => false

/-- A block: decoded words from position `off`. -/
structure NbBlock where
  off : Nat
  words : List Instr
  deriving DecidableEq, Repr

/-- Positions of the block. -/
def NbBlock.idx (b : NbBlock) : List Nat := (upTo b.words.length).map fun k => b.off + k
def NbBlock.at_ (b : NbBlock) (k : Nat) : Instr := b.words.getD (k - b.off) .nnop
def NbBlock.has (b : NbBlock) (k : Nat) : Bool := decide (b.off ≤ k) && decide (k < b.off + b.words.length)
def NbBlock.next (b : NbBlock) (k : Nat) : List Nat := nbNext (b.at_ k) k

/-- Checks 3 and 4: targets in the block, and no path past its last word. -/
def NbBlock.closed (b : NbBlock) : Bool :=
  b.idx.all fun k => (b.next k).all b.has

/-- Entry words: the first, and those that no other word reaches (check 5). -/
def NbBlock.entries (b : NbBlock) : List Nat :=
  b.idx.filter fun k => k == b.off || !(b.idx.any fun j => j != k && (b.next j).contains k)

/-- States reached so far, by position; a position may hold both. -/
abbrev NbStates := List (Nat × Bool)

/-- One round of propagation. -/
def NbBlock.spread (b : NbBlock) (st : NbStates) : NbStates :=
  st.foldl (fun acc p => (b.next p.1).foldl (fun acc k => insertNew (k, nbAfter (b.at_ p.1) p.2) acc) acc) st

def NbBlock.spreadN (b : NbBlock) : Nat → NbStates → NbStates
  | 0, st => st
  | n + 1, st => b.spreadN n (b.spread st)

/-- The states of check 5; `none` where a word has two states or one that it may not have. -/
def NbBlock.states (b : NbBlock) : Option NbStates :=
  let st := b.spreadN (2 * b.words.length) (b.entries.map fun k => (k, false))
  if st.all fun p => !st.contains (p.1, !p.2) && (match nbNeeds (b.at_ p.1) with | some x => x == p.2 | none => true)
  then some st else none

/-- Words that still lie on a cycle free of NPOINT after `n` rounds of removing words that lead nowhere else. -/
def NbBlock.cyclic (b : NbBlock) : Nat → List Nat → List Nat
  | 0, l => l
  | n + 1, l => b.cyclic n (l.filter fun k => (b.next k).any l.contains)

/-- Check 6. -/
def NbBlock.acyclic (b : NbBlock) : Bool :=
  (b.cyclic b.words.length (b.idx.filter fun k => !isNpoint (b.at_ k))).isEmpty

/-- Longest costs to the next NPOINT or NDONE, by position from the block's start. -/
def NbBlock.longest (b : NbBlock) : Nat → List Nat
  | 0 => b.words.map fun _ => 0
  | n + 1 =>
    let prev := b.longest n
    b.idx.map fun k =>
      let i := b.at_ k
      if isNpoint i || isNdone i then nbCost i
      else nbCost i + ((b.next k).map fun j => prev.getD (j - b.off) 0).foldl max 0

/-- Check 7. -/
def NbBlock.short (b : NbBlock) : Bool :=
  let l := b.longest b.words.length
  let starts := b.entries ++ (b.idx.filter fun k => isNpoint (b.at_ k)).map fun k => k + 1
  starts.all fun k => l.getD (k - b.off) 0 ≤ 256

/-- Check 2: an assigned opcode, zero reserved fields, and NLDS's argument. -/
def nbWordOk (w : Nat) : Option Instr :=
  match decodeNb w with
  | .error _ => none
  | .ok (.nlds d k) => if k.toNat ≤ 15 then some (.nlds d k) else none
  | .ok i => some i

/-- The words and start bits that a block puts into the store, none where NBLOAD rejects it (R371). -/
def nbCheck (off : Nat) (ws : List Nat) : Option (List (Word × Bool)) :=
  if 256 < off + ws.length then none
  else
    match ws.mapM nbWordOk with
    | none => none
    | some is =>
      let b : NbBlock := { off := off, words := is }
      if !b.closed then none
      else
        match b.states with
        | none => none
        | some st =>
          if b.acyclic && b.short then
            some (ws.zipIdx.map fun p => (BitVec.ofNat 32 p.1, st.contains (off + p.2, false)))
          else none

end Sys2Proof.Machine
end

