-- ==== Sys2Proof/Machine/NearIssue.lean ====
section
/-! DEFINITION. NBLOAD, NBRUN, COLL, STEPOPEN and STEPEND as a warp issues them (R370 to R373, R381 to R383). -/

namespace Sys2Proof.Machine

/-- A load of `n` bytes in the chunk, as one access checked by R203. -/
def Iss.block (i : Iss) (va n : Nat) : Eff (Iss × Nat) :=
  (i.device i.lane va n false .read).bind fun (j, xs) => j.load j.lane va xs

/-! ### NBLOAD -/

/-- The words of a block, as loads in turn. -/
def Iss.blockWords (i : Iss) (va : Nat) : Nat → Eff (Iss × List Nat)
  | 0 => .ok (i, [])
  | n + 1 =>
    (i.block va 4).bind fun (j, w) => (j.blockWords ((va + 4) % 2 ^ 64) n).bind fun (k, ws) => .ok (k, w :: ws)

/-- NBLOAD (R370, R371): the block is checked at the issue, and the stores change at the commit. -/
def execNbload (a : TwoRegArgs) (s : State) : Host.Outcome State Fault Refusal :=
  issue { g := a.g, srcs := [(a.d, 2), (a.a, 1)], forbidden := true }
    (fun i =>
      let va := i.val a.d 0 2
      let b := (i.reg a.a 0).toNat
      let off := bits b 0 8
      let len := bits b 8 9
      if va % 4 ≠ 0 then i.fault .misaligned i.lane va
      else if b / 2 ^ 17 ≠ 0 || len = 0 || 256 < len || 256 < off + len then i.fault .nbProgram i.lane 0
      else
        (i.blockWords va len).bind fun (j, ws) =>
          match nbCheck off ws with
          | none => j.fault .nbProgram j.lane 0
          | some st => .ok (j.queue (.nbload off st))) s

/-! ### NBRUN -/

/-- A descriptor's fields (R372). -/
def runDesc (at_ d : Nat) : RunDesc :=
  { at_ := at_, entry := bits d 0 8, streams := bits d 8 2 + 1, wmask := bits d 12 4, rows := bits d 32 32
    bases := (upTo 4).map fun k => bits d (64 + 64 * k) 64
    args := (upTo 16).map fun k => BitVec.ofNat 32 (bits d (512 + 32 * k) 32) }

/-- Every BASE is a multiple of 2,048. -/
def RunDesc.aligned (r : RunDesc) : Bool := r.bases.all fun b => b % 2048 == 0

/-- A written stream overlaps another. -/
def RunDesc.overlaps (r : RunDesc) : Bool :=
  (upTo r.streams).any fun x => (upTo r.streams).any fun y =>
    let bx := r.bases.getD x 0
    let by_ := r.bases.getD y 0
    x != y && r.wmask.testBit x && decide (bx < by_ + 2048 * r.rows) && decide (by_ < bx + 2048 * r.rows)

/-- The ADDRESS conditions on the fields of a descriptor (R372, R373). -/
def RunDesc.ok (r : RunDesc) (d : Nat) : Bool :=
  bits d 10 2 == 0 && bits d 16 16 == 0 && bits d 0x140 128 == 0 && bits d 0x1E0 32 == 0
    && decide (0 < r.rows) && decide (r.rows ≤ 131072)
    && ((upTo 4).all fun k => decide (k < r.streams) || (r.bases.getD k 0 == 0 && !r.wmask.testBit k))
    && !r.overlaps

/-- Tiers whose stall group a partition owns (R311). -/
def Partition.tiers (p : Partition) : List Nat := (upTo 8).filter fun t => p.stalls.getLsbD t

/-- A run may begin at a store word (R371, R373). -/
def State.canStart (s : State) (p entry : Nat) : Bool :=
  (s.part p).tiers.all fun t => ((s.nbStore.getD t []).getD entry (0, false)).2

/-- NBRUN (R373). -/
def execNbrun (a : HandleArgs) (s : State) : Host.Outcome State Fault Refusal :=
  issue { g := a.g, srcs := [(a.r, 2)], forbidden := true }
    (fun i =>
      let va := i.val a.r 0 2
      (i.block va 128).bind fun (j, d) =>
        let r := runDesc va d
        if !r.aligned then j.fault .misaligned j.lane va
        else if !r.ok d || !j.s.canStart j.ctx.part r.entry then j.fault .address j.lane va
        else
          let (k, n) := j.newRec a.h.val
          .ok (k.queue (.run r n i.pc i.lane))) s

/-! ### COLL -/

/-- A collective's descriptor (R383). -/
def collDesc (d : Nat) : CollOp :=
  { op := bits d 0 2, isInt := flag d 2, flagIn := flag d 4, count := bits d 32 32, src := bits d 64 64, dst := bits d 128 64
    result := bits d 192 64, peers := BitVec.ofNat 64 (bits d 256 64), tag := BitVec.ofNat 32 (bits d 320 32) }

/-- The ADDRESS conditions on the fields of a collective's descriptor. -/
def CollOp.ok (c : CollOp) (d pkg : Nat) : Bool :=
  bits d 5 27 == 0 && bits d 0x160 160 == 0 && c.op != 3 && !flag d 3 && decide (0 < c.count)
    && decide (c.count ≤ 2 ^ 28) && c.peers.getLsbD pkg

/-- COLL (R383). -/
def execColl (a : HandleArgs) (s : State) : Host.Outcome State Fault Refusal :=
  issue { g := a.g, srcs := [(a.r, 2)], forbidden := true }
    (fun i =>
      let va := i.val a.r 0 2
      (i.block va 64).bind fun (j, d) =>
        let c := collDesc d
        if c.src % 4 ≠ 0 || c.dst % 4 ≠ 0 || c.result % 8 ≠ 0 then j.fault .misaligned j.lane va
        else if !c.ok d j.s.pkg then j.fault .address j.lane va
        else
          let (k, n) := j.newRec a.h.val
          .ok (k.queue (.coll c n i.pc i.lane))) s

/-! ### Step transactions (R381, R382) -/

/-- The physical address, without VOFF, of page k of a versioned region: that of its entry, or the fixed page of an external one
(R214, R381). -/
def State.versPage (s : State) (c : CtxKey) (r : Region) (k : Nat) : Option Nat :=
  if r.ext then some (r.fpa + k * 65536)
  else match s.walkEntry c (r.base + k * 65536) with
  | .ok e => some (bits e 16 36 * 65536)
  | .error _ => none

def userCtx (p c : Nat) : CtxKey := { part := p, ctx := c, fw := false }

/-- Physical pages behind a region. -/
def State.regionPages (s : State) (p : Nat) (r : Region) : List Nat :=
  distinct ((r.backed.map fun b => b.2) ++ (if r.ext then (upTo r.pages).map fun k => r.fpa / 65536 + k else [])
    ++ (if r.vers then (upTo r.pages).flatMap (fun k => match s.versPage (userCtx p r.ctx) r k with
      | some pa => [pa / 65536, (pa + r.voff) / 65536]
      | none => []) else []))

/-- The versioned region at an address. -/
def State.versRegion (s : State) (c : CtxKey) (va : Nat) : Option (Nat × Region) :=
  if !canonical va then none
  else match s.regionAt c.part (va % 2 ^ 57) with
    | some (n, r) => if r.vers then some (n, r) else none
    | none => none

/-- Copies `n` bytes of device memory with their poison. -/
def State.copyBytes (s : State) (src dst n : Nat) : State :=
  let m := memPutBytes (memZero s.mem dst n) dst (memBytes s.mem src n)
  let halves := (upTo (n / 64)).map fun k => k * 64
  let clean := s.poison.filter fun x => !halves.any fun o => x = { space := .dev, addr := dst + o }
  let dirtied := (halves.filter fun o => s.poison.contains { space := .dev, addr := src + o }).map fun o =>
    ({ space := .dev, addr := dst + o } : Loc)
  { s with mem := m, poison := clean ++ dirtied }

/-- Rows of a page of a versioned region that no run wrote are copied to the shadow version. -/
def State.copyRows (s : State) (c : CtxKey) (r : Region) (k : Nat) : State :=
  match s.versPage c r k with
  | none => s
  | some pa =>
    let cur := pa + (if r.cur then r.voff else 0)
    let shadow := pa + (if r.cur then 0 else r.voff)
    ((upTo 32).filter fun n => !r.written.contains (32 * k + n)).foldl
      (fun s n => s.copyBytes (cur + 2048 * n) (shadow + 2048 * n) 2048) s

/-- Pages of a region. -/
def Region.holds (r : Region) (page : Nat) : Bool := decide (r.base / 65536 ≤ page) && decide (page < r.base / 65536 + r.pages)

/-- The contexts of a partition other than the firmware's. -/
def inPart (p : Nat) (c : CtxKey) : Bool := c.part == p && !c.fw

/-- The location lies in a page of one of a versioned region's versions: of both, or of the shadow alone. -/
def State.inVersions (s : State) (c : CtxKey) (r : Region) (both : Bool) (x : Loc) : Bool :=
  x.space == .dev && ((upTo r.pages).filterMap (s.versPage c r)).any fun pa =>
    ((both || r.cur) && x.addr / 65536 == pa / 65536) || ((both || !r.cur) && x.addr / 65536 == (pa + r.voff) / 65536)

/-- Committed dirty lines of a versioned region are written back. -/
def State.cleanRegion (s : State) (c : CtxKey) (r : Region) : State :=
  { s with dirty := s.dirty.filter fun d => !s.inVersions c r true d.line }

/-- STEPOPEN's effect: the state and the answer. -/
def State.stepOpen (s : State) (w : WarpId) (c : CtxKey) (n : Nat) (r : Region) : State × Bool :=
  if r.open_ then (s, false)
  else
    let t := ((s.cleanRegion c r).mapRegion c.part n fun y => { y with open_ := true, fail := false, written := [] })
    ({ t with seq := t.seq + 1 }.translationChange (some w) (inPart c.part) r.holds, true)

/-- A stream of a descriptor has a row in a region. -/
def RunDesc.reaches (d : RunDesc) (k : Nat) (v : Region) : Bool :=
  let b := d.bases.getD k 0 % 2 ^ 57
  decide (b < v.base + v.pages * 65536) && decide (v.base < b + 2048 * d.rows)

/-- A run with a stream in the region is queued or running, or its release has not been pinned yet. -/
def State.runsOver (s : State) (p : Nat) (r : Region) : Bool :=
  s.runs.any fun x => x.part == p && (upTo x.desc.streams).any fun k => x.desc.reaches k r

/-- A STEPEND must wait: for the region's runs (R382), and, where it copies rows, for halves of either version that the host owns
(R187). -/
def State.stepWaits (s : State) (c : CtxKey) (r : Region) (flag : Word) : Bool :=
  s.runsOver c.part r
    || (r.open_ && flag == 0 && !r.fail && s.halves.any fun h => h.2 == .owned && s.inVersions c r true h.1)

/-- STEPEND's effect once no run is over the region; the rows that it copies are the host's no longer (R187). -/
def State.stepEnd (s : State) (w : WarpId) (c : CtxKey) (n : Nat) (flag : Word) : State × Bool :=
  match getKey n (s.part c.part).regions with
  | none => (s, false)
  | some r =>
    if !r.open_ then (s, false)
    else if flag = 0 && !r.fail then
      let t := (upTo r.pages).foldl (fun s k => s.copyRows c r k) s
      let t := t.mapRegion c.part n fun y => { y with cur := !y.cur, open_ := false }
      let t := { t with seq := t.seq + 1, halves := t.halves.filter fun h => !s.inVersions c r false h.1 }
      (t.translationChange (some w) (inPart c.part) r.holds, true)
    else (s.mapRegion c.part n fun y => { y with open_ := false }, false)

/-- STEPOPEN (R382). -/
def execStepopen (a : PAddrArgs) (s : State) : Host.Outcome State Fault Refusal :=
  issue { g := a.g, srcs := [(a.a, 2)], endsBefore := true, forbidden := true }
    (fun i =>
      match i.s.versRegion i.ctx (i.val a.a 0 2) with
      | none => i.fault .protection i.lane (i.val a.a 0 2)
      | some (n, r) =>
        let (t, ok) := i.s.stepOpen i.wid i.ctx n r
        .ok ({ i with s := t, irrev := true }.writePred a.pd.val fun _ => ok)) s

/-- STEPEND (R382): it waits for the region's runs. -/
def execStepend (a : PAddrArgs) (s : State) : Host.Outcome State Fault Refusal :=
  issue { g := a.g, srcs := [(a.a, 2), (a.b, 1)], endsBefore := true, forbidden := true }
    (fun i =>
      match i.s.versRegion i.ctx (i.val a.a 0 2) with
      | none => i.fault .protection i.lane (i.val a.a 0 2)
      | some (n, r) =>
        let flag := i.reg a.b 0
        if i.s.stepWaits i.ctx r flag then .ok ({ i with irrev := true }.wait i.lanes (.stepend n flag a.pd.val))
        else
          let (t, ok) := i.s.stepEnd i.wid i.ctx n flag
          .ok ({ i with s := t, irrev := true }.writePred a.pd.val fun _ => ok)) s

end Sys2Proof.Machine
end

