-- ==== Sys2Proof/Machine/Records.lean ====
section
/-! DEFINITION. What the device's agents share: reads and writes of context memory, operation records (R241), source and
destination ranges of released operations (R156, R183), faults attributed to the launch (R80, R344), and queue headers with
their notifies (R270 to R272). -/

namespace Sys2Proof.Machine

/-! ### Context memory, as the device's own agents reach it -/

/-- A core number that no core has: translations for the device's own agents use no core's TLB. -/
def deviceCore : Nat := 8 * Config.coresPerTier

/-- Where an address of a context leads. -/
def State.look (s : State) (c : CtxKey) (va : Nat) (acc : Access) : Except Code Loc :=
  match s.xlate c deviceCore va acc with
  | .ok x => .ok x.loc
  | .error e => .error e

/-- Ranges behind an address, page by page. -/
def State.lookRange (s : State) (c : CtxKey) (va n : Nat) (acc : Access) : Except Code (List (Loc × Nat)) :=
  match s.xlateRange c deviceCore va acc (n / 65536 + 2) n with
  | .ok x => .ok x.2
  | .error e => .error e

/-- The ranges where the translation stands, none otherwise. -/
def State.peekRange (s : State) (c : CtxKey) (va n : Nat) (acc : Access) : List (Loc × Nat) :=
  match s.lookRange c va n acc with
  | .ok l => l
  | .error _ => []

/-- Bytes of a context's memory as committed; poisoned bytes, and those that a peer refuses to give, are not read as data (R203,
R341, R397). -/
def State.readCtx (s : State) (c : CtxKey) (va n : Nat) : Except Code (List Byte) :=
  match s.lookRange c va n .read with
  | .ok l => if (rangeLocs l).any fun x => s.isPoisoned x || s.refuses x then .error .poison else .ok (s.rangeBytes l)
  | .error e => .error e

/-- The page-table entries that lead to some bytes. -/
def State.walksOf (s : State) (c : CtxKey) (va n : Nat) : List Loc :=
  (upTo ((va % 65536 + n + 65535) / 65536)).flatMap fun j => s.walked c deviceCore (if j = 0 then va else (va / 65536 + j) * 65536)

/-- The walks that lead to some bytes read page-table halves that the host owns (R187). -/
def State.walkHeld (s : State) (c : CtxKey) (va n : Nat) : Bool := (s.walksOf c va n).any s.hostOwns

/-- The way to some bytes is closed: a walk reads a half that the host owns (R187), or no request can be sent to them (R397). -/
def State.pathOwned (s : State) (c : CtxKey) (va n : Nat) : Bool :=
  s.walkHeld c va n || (rangeLocs (s.peekRange c va n .read)).any (s.unreachable deviceCore)

/-- The walks that lead to some bytes fill lines of windows (R112). -/
def State.fillPath (s : State) (c : CtxKey) (va n : Nat) : State := s.fillLines (s.walksOf c va n)

/-- The host holds a newer copy of some of a context's bytes, or of the page-table entries on the way to them, which it gives
back before they are read (R187). -/
def State.ctxOwned (s : State) (c : CtxKey) (va n : Nat) : Bool :=
  s.pathOwned c va n || (rangeLocs (s.peekRange c va n .read)).any s.hostOwns

/-- Such a read fills the lines of windows, those of the page table's walk among them (R112). -/
def State.fillCtx (s : State) (c : CtxKey) (va n : Nat) : State :=
  (s.fillLines (rangeLocs (s.peekRange c va n .read))).fillPath c va n

/-- What became of a write of the device into a context's memory: done, impossible, or to be tried again, since it must wait
for its place in the order (R178, R181). -/
inductive Wrote where
  | done (s : State)
  | failed
  | waits
  deriving DecidableEq, Repr

/-- What follows a write that is done. -/
def Wrote.bind : Wrote → (State → Wrote) → Wrote
  | .done s, f => f s
  | .failed, _ => .failed
  | .waits, _ => .waits

/-- A write of the device into a context's memory, at one place in the order. -/
def State.writeCtx (s : State) (c : CtxKey) (va : Nat) (bs : List Byte) : Wrote :=
  if s.pathOwned c va bs.length then .waits
  else match s.lookRange c va bs.length .write with
  | .ok l => (match (s.fillPath c va bs.length).writeNow ((rangeLocs l).zip bs) with | some t => .done t | none => .waits)
  | .error _ => .failed

/-- The same, where an impossible write leaves the memory alone: none while it must wait. -/
def State.tryWrite (s : State) (c : CtxKey) (va : Nat) (bs : List Byte) : Option State :=
  match s.writeCtx c va bs with
  | .done t => some t
  | .failed => some (s.fillPath c va bs.length)
  | .waits => none

/-! ### Ranges -/

def rangesMeet (a b : Loc × Nat) : Bool :=
  a.1.space == b.1.space && decide (a.1.addr < b.1.addr + b.2) && decide (b.1.addr < a.1.addr + a.2)

def meetAny (xs : List (Loc × Nat)) (ys : List (Loc × Nat)) : Bool := xs.any fun x => ys.any (rangesMeet x)

/-- The operation is a near-bank run that has not been pinned. -/
def State.runWaits (s : State) (o : Op) : Bool :=
  match o.kind with
  | .run => s.runs.any fun r => r.op == some o.num && !r.pinned
  | _ => false

/-- A chunk's commit waits for the publish of every operation whose sources it writes, and for near-bank runs over the bytes
(R156, R183, R378). DEDUCED: log 36. -/
def State.commitHeld (s : State) (c : Chunk) : Bool :=
  let xs := c.writes.map (·.1)
  s.ops.any (fun o => touchesAny xs o.sources) || s.runs.any fun r => r.op.isNone && xs.any r.covers

/-- The bytes that a squash of the chunk would discard (R178); what an irrevocable issue left stays (log 20). -/
def Chunk.loose (c : Chunk) : List Loc := (c.writes.filter fun p => (getKey p.1 c.kept).isNone).map (·.1)

/-- An earlier operation of the same warp with an overlapping destination has not published (R183). -/
def State.behind (s : State) (o : Op) : Bool :=
  s.ops.any fun p => decide (p.num < o.num) && p.launch == o.launch && p.group == o.group && p.warp == o.warp
    && meetAny p.dests o.dests

/-- In reproducible mode an operation publishes no earlier than its round (R192). -/
def State.due (s : State) (o : Op) : Bool :=
  match o.publishRound with
  | none => true
  | some q =>
    match s.launch? o.launch with
    | none => true
    | some l => match s.context? l.ctx with | some c => decide (q ≤ c.rounds) | none => true

/-- The context of a launch runs, and has not been pre-empted: its matrix engines take steps (R169, R292). -/
def State.engineRuns (s : State) (launch : Nat) : Bool :=
  match (s.launch? launch).bind fun l => s.context? l.ctx with
  | some c => c.phase == .running
  | none => false

/-- The context of a launch runs, or is in the cooperative phase of a pre-emption: operations that have ended publish, and its
copies, which take their whole source at one step, are never between two of R240's boundaries (R240, R292, R379). -/
def State.running (s : State) (launch : Nat) : Bool :=
  match s.launch? launch with
  | none => false
  | some l => match s.context? l.ctx with
    | some c => c.phase == .running || c.phase == .yielding
    | none => false

/-! ### Operation records -/

/-- A handle register, a wait, or the chunk's start names the record. -/
def Warp.names (w : Warp) (n : Nat) : Bool :=
  let inH (a : Arch) : Bool := a.h.any fun x => match x with | some r => r.num == n | none => false
  inH w.arch || inH w.chunk.start || w.arch.waits.any fun x => match x.kind with
    | .handle r _ _ _ => r.num == n
    | _ => false

/-- A warp whose lanes have all exited. -/
def Warp.ended (w : Warp) : Bool := w.arch.live == 0

/-- Frees the records that nothing needs any more (R241). DEDUCED: log 45. -/
def Launch.gcRecs (l : Launch) : Launch :=
  { l with recs := l.recs.filter fun r =>
      r.state == .pending || !r.tokens.isEmpty
        || l.groups.any fun g => g.warps.any fun w => !w.ended && w.names r.num }

def State.addRec (s : State) (l n : Nat) (ext : Bool) : State :=
  s.mapLaunch l fun x => { x with recs := x.recs ++ [{ num := n, state := .pending, external := ext, flags := 0, tokens := [], named := [] }] }

/-- Flags that a warp merges at its wait on the handle: those of MMA, ACCLD and ACCST (R101, R164). -/
def OpKind.merged (k : OpKind) (fl : Fl) : Fl := match k with | .tile _ => fl | _ => 0

/-- Flags that join the completion record as the operation ends: those of MMAs and near-bank runs (R101). -/
def OpKind.recorded (k : OpKind) (fl : Fl) : Fl :=
  match k with
  | .tile t => (match t.kind with | .mma _ => fl | _ => 0)
  | .run => fl
  | _ => 0

/-- The records of an operation leave Pending and hold the flags that the warps of its gang merge (R101, R241). -/
def State.endRecs (s : State) (l : Nat) (recs : List Nat) (st : HState) (fl : Fl) (gang : List (Nat × Nat)) : State :=
  s.mapLaunch l fun x =>
    { x with recs := x.recs.map fun r =>
        if recs.contains r.num && r.state == .pending then { r with state := st, flags := fl, gang := gang } else r }

/-- An operation ends: its records, its flags in the launch, then the operation itself goes (R101, R241). -/
def State.endOp (s : State) (o : Op) (st : HState) (fl : Fl) : State :=
  ((s.endRecs o.launch (o.recs.map (·.2)) st (o.kind.merged fl) (o.recs.map fun r => (o.group, r.1))).mapLaunch o.launch fun l =>
    { l with flags := l.flags ||| o.kind.recorded fl }).dropOp o.num

/-! ### Faults of operations -/

/-- The group's context counts faults of the launch at the end of its round (R344). -/
def State.launchFault (s : State) (l : Nat) (f : FaultInfo) : State :=
  match s.launch? l with
  | none => s
  | some x =>
    if s.reproOf x.ctx then
      s.mapLaunch l fun y => { y with endFault := some (y.endFault.getD f) }
    else s.latchFault l f

/-- A fault attributed to the instruction that issued an operation (R80). -/
def Op.fault (o : Op) (c : Code) (addr : Nat) : FaultInfo :=
  { code := c, lane := o.lane, warp := o.warp, group := o.group, pc := o.pc, addr := addr }

/-- The launch of an operation runs in reproducible mode, where the operation's end has a place in the order of turns (R192). -/
def State.opRepro (s : State) (o : Op) : Bool := match s.launch? o.launch with | some l => s.reproOf l.ctx | none => false

/-- The fault of an operation ends its launch; the operation goes, and nothing of it is visible. -/
def State.dropFault (s : State) (o : Op) (f : FaultInfo) : State := (s.dropOp o.num).latchFault o.launch f

/-- An operation ends its launch with a fault. In reproducible mode the fault of a RED is taken where the RED is applied, and another
operation's waits for the operation's publish round, so that what commits before it is fixed (R191, R192, R344). DEDUCED: log 71. -/
def State.opFault (s : State) (o : Op) (c : Code) (addr : Nat) : State :=
  match o.kind with
  | .red _ => s.dropFault o (o.fault c addr)
  | _ => if s.opRepro o then s.mapOp o.num fun x => { x with stop := some (o.fault c addr) } else s.dropFault o (o.fault c addr)

/-- An operation due in this round whose engine has not done its work yet, or which holds a fault: later operations of its launch
publish after it. -/
def State.unready (s : State) (p : Op) : Bool :=
  p.publishRound.isSome && s.due p && (p.stop.isSome || (match p.kind with
    | .copy _ => p.shadow.isNone
    | .tile _ => !p.finished
    | .red _ => true
    | _ => false))

/-- The operation's place among those of its launch that are due in the same round: in the order of their issue points (R344).
DEDUCED: log 71. -/
def State.publishTurn (s : State) (o : Op) : Bool :=
  !s.opRepro o || s.ops.all fun p => !(p.launch == o.launch && decide (p.num < o.num) && s.unready p)

/-- Faults of operations whose round has come are taken (R192, R344). -/
def State.takeStops (s : State) : State :=
  s.ops.foldl (fun s o => match o.stop with
    | some f => if s.due o && s.running o.launch && s.publishTurn o then s.dropFault o f else s
    | none => s) s

/-! ### Queue headers -/

/-- Offsets of a header's words (R270). -/
def hdrBase : Nat := 0
def hdrCap : Nat := 8
def hdrTail : Nat := 16
def hdrHead : Nat := 24
def hdrPend : Nat := 32
def hdrStat : Nat := 64

/-- A header word as committed, none where it cannot be read (R413). -/
def State.headerWord (s : State) (q : Queue) (off : Nat) : Option Nat :=
  match s.readCtx q.ctx (q.header + off) 8 with
  | .ok bs => some (leNat bs)
  | .error _ => none

def State.setHeader (s : State) (q : Queue) (off v : Nat) : Wrote := s.writeCtx q.ctx (q.header + off) (leBytes 8 v)

/-- Sets the pending-notify word of an unmapped queue, which takes its place among the queues that wait for a slot (R272,
R317). -/
def State.pendNotify (s : State) (q : Queue) (n : Nat) : Wrote :=
  match s.headerWord q hdrPend with
  | none => .failed
  | some v =>
    (s.setHeader q hdrPend (2 ^ 63 + max (v % 2 ^ 63) n)).bind fun t =>
      .done (t.mapQueue q.key fun x => if v < 2 ^ 63 then { x with asked := t.steps } else x)

/-- A notify that TAIL is now n (R271, R272, R413); one that must wait is tried again, since a notify is never lost. -/
def State.raiseTail (s : State) (k : QueueKey) (n : Nat) : State :=
  match s.queue? k with
  | none => s
  | some q =>
    if s.ctxOwned q.ctx q.header 40 then s.later (.notify k 0 n)
    else
    let old := s
    let s := s.mapQueue k fun x => { x with blocked := false }
    let t := s.fillCtx q.ctx q.header 40
    match s.headerWord q hdrHead, s.headerWord q hdrCap with
    | some head, some cap =>
      if n ≤ head then t
      else if head + 2 ^ (cap % 256) < n then
        t.notifyPart k.part 7 0x7FF (BitVec.ofNat 64 (k.idx + 256)) (BitVec.ofNat 64 n)
      else if q.slot.isSome then t.mapQueue k fun x => { x with target := max x.target n }
      else match s.pendNotify q n with
        | .done u => u
        | .failed => t
        | .waits => old.later (.notify k 0 n)
    | _, _ => (t.mapQueue k fun x => { x with blocked := true, target := max x.target n }).notifyPart k.part 7 0x7FF
        (BitVec.ofNat 64 (k.idx + 512)) 0

/-- The byte of STAT that holds a position's entry (R270, R283). -/
def statAddr (q : Queue) (pos : Nat) : Nat := q.header + hdrStat + pos % 1024 / 4

/-- A position's status entry (R283). -/
def State.setStatus (s : State) (q : Queue) (pos v : Nat) : Wrote :=
  let a := statAddr q pos
  match s.readCtx q.ctx a 1 with
  | .ok [b] =>
    let sh := 2 ^ (2 * (pos % 4))
    let old := b.toNat
    s.writeCtx q.ctx a [BitVec.ofNat 8 (old - old / sh % 4 * sh + v * sh)]
  | _ => .failed

/-- The status entry of a position. -/
def State.statusOf (s : State) (q : Queue) (pos : Nat) : Nat :=
  match s.readCtx q.ctx (statAddr q pos) 1 with
  | .ok [b] => b.toNat / 2 ^ (2 * (pos % 4)) % 4
  | _ => 0

end Sys2Proof.Machine
end

