-- ==== Sys2Proof/Machine/Release.lean ====
section
/-! DEFINITION. What a chunk's commit releases (R148, R154, R155, R174, R183, R192, R221, R236, R240 to R243, R371 to R374,
R384): the conditions under which it must wait, and the release itself. -/

namespace Sys2Proof.Machine

/-! ### Operations -/

/-- An operation as it is released at the commit of a warp's chunk. -/
def State.newOp (s : State) (w : WarpId) (kind : OpKind) (recs : List (Nat × Nat)) (pc lane seq : Nat) (quota : Nat) : Op :=
  { num := s.nextOp, launch := w.launch, group := w.group, warp := w.warp, kind := kind, recs := recs, pc := pc, lane := lane
    publishRound := match s.launch? w.launch with
      | none => none
      | some l => match s.context? l.ctx with
        | some c => if c.repro then some (c.rounds + quota) else none
        | none => none
    beat := (match s.launch? w.launch with | some l => s.beatOf l.ctx | none => s.beat), seq := seq, sources := [], dests := []
    data := [], pins := [], shadow := none, setTags := [], credit := 0, failed := false, finished := false, poolSince := none }

/-- The round in which an operation may publish: not before an earlier one of its warp with an overlapping destination, which it
waits for (R183, R192). DEDUCED: log 19. -/
def State.publishFrom (s : State) (o : Op) : Option Nat :=
  let before := s.ops.filter fun p => p.launch == o.launch && p.group == o.group && p.warp == o.warp && meetAny p.dests o.dests
  o.publishRound.map fun q => before.foldl (fun n p => max n (p.publishRound.getD 0)) q

def State.pushOp (s : State) (o : Op) : State :=
  { s with ops := s.ops ++ [{ o with publishRound := s.publishFrom o }], nextOp := s.nextOp + 1 }

def ceilDiv (n d : Nat) : Nat := (n + d - 1) / d

/-- Publish quotas of R192. The bytes of a COPY are those that it writes, its scales apart. DESIGN CHOICE: log 61. -/
def copyQuota (c : CopyOp) : Nat := 1 + ceilDiv (c.rows * c.dstRow) 65536
def mmaQuota (a : MmaArgs) : Nat := 1 + ceilDiv (MmaArgs.steps a) 16
def runQuota (d : RunDesc) : Nat := 1 + ceilDiv d.rows 32
def collQuota (c : CollOp) : Nat := 2 + ceilDiv (4 * c.count) 1048576

/-- Scratchpad range of a group. -/
def spadRange (w : WarpId) (r : Nat × Nat) : Loc × Nat := ({ space := .spad w.launch w.group, addr := r.1 }, r.2)

/-- The byte comes from an unbacked page whose default is zero. -/
def State.zeroSource (s : State) (x : Loc) : Bool :=
  match x.space with
  | .region p => (match s.regionAt p x.addr with | some (_, r) => decide (r.default = 0) | none => false) && !s.isBacked x
  | _ => false

/-- The window that holds all of some locations, when it belongs to the partition (R237). -/
def State.oneWindow (s : State) (p : Nat) (xs : List Loc) : Option FWin :=
  s.fwins.find? fun w => w.en && w.part == p && xs.all fun x => match s.physOf x with
    | some pa => decide (w.base ≤ pa) && decide (pa < w.limit)
    | none => false

/-- Location of the scale of the block at a location of a window (R111). -/
def State.scaleLoc (s : State) (w : FWin) (x : Loc) : Loc :=
  match s.physOf x with | some pa => s.devLoc (w.scale + 2 * ((pa - w.base) / 32)) | none => x

/-- The scales of the rows' blocks (R237). -/
def State.scaleRows (s : State) (w : FWin) (c : CopyOp) (rows : List (List Loc)) : List Loc :=
  rows.flatMap fun r => (upTo c.blocks).flatMap fun b => match r[32 * b]? with
    | some x => [s.scaleLoc w x, (s.scaleLoc w x).plus 1]
    | none => []

/-- Source rows of a COPY; under COL whole sectors, since a column view spreads over its sector (R212). -/
def State.sourceRows (s : State) (w : WarpId) (c : CtxKey) (o : CopyOp) : List (Loc × Nat) :=
  (upTo o.rows).flatMap fun k =>
    let a := o.src + k * o.srcPitch
    if o.srcSpad then [spadRange w (a, o.rowBytes)]
    else
      let lo := if o.col then a / 1024 * 1024 else a
      let hi := if o.col then alignUp (a + o.rowBytes) 1024 else a + o.rowBytes
      s.peekRange c (lo % 2 ^ 64) (hi - lo) .read

/-- All that a COPY reads as of its issue point (R236): its rows, the scales of XF 1 (R237), and the replica of XF 6 (R238). -/
def State.copySources (s : State) (w : WarpId) (c : CtxKey) (o : CopyOp) : List (Loc × Nat) :=
  let rows := (upTo o.rows).map fun k => rangeLocs (s.peekRange c ((o.src + k * o.srcPitch) % 2 ^ 64) o.rowBytes .read)
  let scales := if o.xf = 1 && !o.srcSpad then
      (match s.oneWindow c.part rows.flatten with | some x => s.scaleRows x o rows | none => [])
    else []
  s.sourceRows w c o ++ scales.map (fun x => (x, 1))
    ++ (match o.replica with | some a => if o.xf = 6 then s.peekRange c a o.rowBytes .read else [] | none => [])

/-- Source pages that are unbacked with a default of zero (R239). -/
def State.zeroPages (s : State) (src : List (Loc × Nat)) : List Loc :=
  distinct ((src.filter fun r => s.zeroSource r.1).map fun r => r.1.page)

/-- Destination rows, and the scales of XF 1. -/
def State.copyDests (s : State) (w : WarpId) (c : CtxKey) (o : CopyOp) : List (Loc × Nat) :=
  if o.dstSpad then
    (upTo o.rows).map (fun k => spadRange w (o.dst + k * o.dstPitch, o.dstRow))
      ++ (if o.xf = 1 then [spadRange w (o.scaleBase, 2 * o.rows * o.blocks)] else [])
  else (upTo o.rows).flatMap fun k => s.peekRange c ((o.dst + k * o.dstPitch) % 2 ^ 64) o.dstRow .write

/-- Ranges of a tile operation (R156, R164). -/
def tileSources (w : WarpId) (t : TileOp) : List (Loc × Nat) :=
  match t.kind with
  | .mma a => ((mmaOperands a t.vals).flatMap MOperand.ranges).map (spadRange w)
  | .accld a => [spadRange w (AccArgs.range a (t.vals.getD 0 0).toNat)]
  | _ => []

def tileDests (w : WarpId) (t : TileOp) : List (Loc × Nat) :=
  match t.kind with
  | .accst a => [spadRange w (AccArgs.range a (t.vals.getD 0 0).toNat)]
  | _ => []

def tileQuota (t : TileOp) : Nat := match t.kind with | .mma a => mmaQuota a | _ => 2

/-! ### Engines (R146, R148) -/

def Engine.fresh (id : EngineId) : Engine :=
  { id := id, queue := [], running := false, since := 0, reset := false, mismatched := false }

def State.engine (s : State) (id : EngineId) : Engine := (s.engines.find? fun e => e.id == id).getD (Engine.fresh id)

def State.setEngine (s : State) (e : Engine) : State :=
  { s with engines := (s.engines.filter fun x => x.id ≠ e.id) ++ [e] }

/-- The engine of a group's tile: tiles of one parity share one (R146). -/
def Group.engineOf (g : Group) (tile : Nat) : EngineId :=
  { core := g.core, eng := if tile % 2 = 0 then g.evenEngine else 1 - g.evenEngine }

def TileOp.tile (t : TileOp) : Nat := TileKind.tile t.kind

/-- Appends an operation to the queue of its tile's engine. -/
def State.enqueue (s : State) (o : Op) (t : TileOp) : State :=
  match s.group? o.launch o.group with
  | none => s
  | some g =>
    let e := s.engine (g.engineOf t.tile)
    s.setEngine { e with queue := e.queue ++ [o.num] }

/-! ### Gangs (R154, R155) -/

/-- Why an arrival does not join. -/
inductive GangStop where
  | wait
  | fault (c : Code) (f : Arrival)
  deriving DecidableEq, Repr

/-- Warps of a mask. -/
def maskWarps (m : Word) : List Nat := (upTo 32).filter fun k => m.getLsbD k

def Rendezvous.joined (r : Rendezvous) (w : Nat) : Bool := r.arrivals.any fun a => a.warp == w

/-- Joins the first rendezvous of the mask that the warp has not joined. -/
def joinFirst (mask : Word) (x : Arrival) : List Rendezvous → Option (List Rendezvous × Rendezvous)
  | [] => none
  | r :: rs =>
    if r.mask = mask && !r.joined x.warp then
      let r' := { r with arrivals := r.arrivals ++ [x] }
      some (r' :: rs, r')
    else (joinFirst mask x rs).map fun p => (r :: p.1, p.2)

def Rendezvous.complete (r : Rendezvous) : Bool := (maskWarps r.mask).all r.joined

/-- One arrival: the group's rendezvous after it, and the one that it completed. -/
def arriveGang (g : Group) (gangs : List Rendezvous) (mask : Word) (x : Arrival) :
    Except GangStop (List Rendezvous × Option Rendezvous) :=
  if (maskWarps mask).any fun w => match g.warps[w]? with | some y => w != x.warp && y.ended | none => false then
    .error (.fault .gangBroken x)
  else
    let mine := gangs.filter fun r => r.mask == mask
    let count (w : Nat) : Nat := (mine.filter fun r => r.joined w).length
    let slowest := (maskWarps mask).foldl (fun n w => min n (count w)) (count x.warp)
    let opens := mine.all fun r => r.joined x.warp
    if slowest + 4 ≤ count x.warp && mask != BitVec.ofNat 32 (2 ^ x.warp) then .error .wait
    else if opens && mask != BitVec.ofNat 32 (2 ^ x.warp) && mine.isEmpty
        && decide (8 ≤ (distinct (gangs.map fun r => r.mask)).length) then .error .wait
    else
      let gangs := if opens then gangs ++ [{ mask := mask, arrivals := [] }] else gangs
      match joinFirst mask x gangs with
      | none => .error .wait
      | some (gs, r) =>
        match r.arrivals with
        | first :: _ =>
          if first.mma ≠ x.mma || first.vals ≠ x.vals then .error (.fault .gangMismatch x)
          else if r.complete then .ok (gs.filter fun y => y ≠ r, some r) else .ok (gs, none)
        | [] => .ok (gs, none)

/-- Arrivals of a chunk's releases in order, without effect. -/
def dryGangs (g : Group) (w : WarpId) : List Rendezvous → List Release → Except GangStop (List Rendezvous)
  | gs, [] => .ok gs
  | gs, q :: qs =>
    match q with
    | .tile t (some h) pc lane =>
      match t.kind with
      | .mma a =>
        match arriveGang g gs t.mask { warp := w.warp, mma := a, vals := t.vals, hrec := h, pc := pc, lane := lane, beat := 0 } with
        | .error e => .error e
        | .ok (gs', _) => dryGangs g w gs' qs
      | _ => dryGangs g w gs qs
    | _ => dryGangs g w gs qs

/-- The tile operations that a chunk's releases put into engines' queues: an MMA where its arrival completes a rendezvous
(R148, R154). -/
def releasedTiles (g : Group) (w : WarpId) : List Rendezvous → List Release → List TileOp
  | _, [] => []
  | gs, q :: qs =>
    match q with
    | .tile t h pc lane =>
      match t.kind, h with
      | .mma a, some n =>
        match arriveGang g gs t.mask { warp := w.warp, mma := a, vals := t.vals, hrec := n, pc := pc, lane := lane, beat := 0 } with
        | .error _ => []
        | .ok (gs', some _) => t :: releasedTiles g w gs' qs
        | .ok (gs', none) => releasedTiles g w gs' qs
      | _, _ => t :: releasedTiles g w gs qs
    | _ => releasedTiles g w gs qs

/-! ### Near-bank runs (R372, R374) -/

/-- The stall that a row belongs to: a fixed and unpublished function of its place (R372). An unbacked row takes that of its
virtual address (log 9). -/
def State.stallOf (s : State) (x : Loc) : Nat :=
  let a := match s.physOf x with | some pa => pa | none => x.addr
  Config.bankGroup (a / 2048) % (8 * Config.stallsPerTier)

/-- A partition's regions with their steps shut: R382 stops stores, and not the runs of the step. -/
def State.stepsShut (s : State) (p : Nat) : State :=
  s.mapPart p fun x => { x with regions := x.regions.map fun r => (r.1, { r.2 with open_ := false }) }

/-- The rows of a run's streams, none where a translation fails. -/
def State.runRows (s : State) (c : CtxKey) (d : RunDesc) : Except Code (List (List Loc)) :=
  (upTo d.streams).mapM fun k =>
    match (s.stepsShut c.part).lookRange c (d.bases.getD k 0) (2048 * d.rows) (if d.wmask.testBit k then .write else .read) with
    | .ok l => .ok (l.flatMap fun p => (upTo (p.2 / 2048)).map fun n => p.1.plus (2048 * n))
    | .error e => .error e

/-- The first address of a run's streams, page by page, whose translation fails. -/
def State.runBad (s : State) (c : CtxKey) (d : RunDesc) : Option Nat :=
  (upTo d.streams).findSome? fun k =>
    let va := d.bases.getD k 0
    (upTo (ceilDiv (va % 65536 + 2048 * d.rows) 65536)).findSome? fun j =>
      let a := if j = 0 then va else (va / 65536 + j) * 65536
      match (s.stepsShut c.part).lookRange c a 1 (if d.wmask.testBit k then .write else .read) with
      | .ok _ => none
      | .error _ => some a

/-- Rows that share a stall: row k of every stream lies with row k of stream 0 (R374). -/
def State.runStalls (s : State) (rows : List (List Loc)) : List Nat := distinct ((rows.headD []).map s.stallOf)

def Run.stall? (r : Run) (k : Nat) : Option StallRun := r.stalls.find? fun x => x.stall == k

/-- Stalls that a descriptor's run uses, none where its translation fails. -/
def State.descStalls (s : State) (c : CtxKey) (d : RunDesc) : List Nat :=
  match s.runRows c d with
  | .ok rows => s.runStalls rows
  | .error _ => []

/-- Stalls that a run uses. -/
def State.stallsOf (s : State) (r : Run) : List Nat :=
  if r.pinned then r.stalls.map fun x => x.stall else s.descStalls r.ctx r.desc

/-- Ranges of a run's rows. -/
def rowRanges (rows : List (List Loc)) : List (Loc × Nat) := rows.flatten.map fun x => (x, 2048)

/-- Rows of a run's streams: those that it has pinned, else those that its addresses lead to, none where one fails. -/
def State.rowsNow (s : State) (r : Run) : List (Loc × Nat) :=
  if r.pinned then rowRanges r.locs else match s.runRows r.ctx r.desc with | .ok rows => rowRanges rows | .error _ => []

/-- Runs in a stall's queue (R374). -/
def State.stallQueue (s : State) (k : Nat) : Nat :=
  (s.runs.filter fun r => (s.stallsOf r).contains k && (match r.stall? k with | some x => x.phase != .done | none => true)).length

/-- A stall's queue would hold more than its 16 runs (R374). Which runs share a stall hangs on where their pages lie, so that in
reproducible mode the round waits with the commit (R4). -/
def State.stallsFull (s : State) (c : CtxKey) (ds : List RunDesc) : Bool :=
  let want := ds.flatMap (s.descStalls c)
  (distinct want).any fun k => decide (Config.engineQueue < s.stallQueue k + (want.filter fun x => x == k).length)

/-! ### Conditions -/

/-- COPYs of a group that have not published (R240). -/
def State.copiesOf (s : State) (w : WarpId) : Nat :=
  (s.ops.filter fun o => o.launch == w.launch && o.group == w.group && (match o.kind with | .copy _ => true | _ => false)).length

def Release.isCopy : Release → Bool
  | .copy _ _ _ _ => true
  | _ => false

def Release.hrec? : Release → Option Nat
  | .copy _ h _ _ | .run _ h _ _ | .coll _ h _ _ => some h
  | .tile _ h _ _ => h
  | _ => none

/-- The descriptor that a release hands to the near-bank tier. -/
def Release.desc? : Release → Option RunDesc
  | .run d _ _ _ => some d
  | _ => none

/-- Engines that a chunk's releases would fill beyond their queues (R148). A chunk that alone releases more than 16
operations to one engine waits without end. DESIGN CHOICE: log 55. -/
def State.enginesFull (s : State) (w : WarpId) (g : Group) (qs : List Release) : Bool :=
  let tiles := releasedTiles g w g.gangs qs
  let used (e : EngineId) : Nat := (tiles.filter fun t => g.engineOf t.tile == e).length
  [0, 1].any fun n =>
    let e : EngineId := { core := g.core, eng := n }
    decide (0 < used e) && decide (Config.engineQueue < (s.engine e).queue.length + used e)

/-- The releases cannot all be made now: the commit waits. A record that its own chunk's start still names counts as held (R241).
DESIGN CHOICE: log 73. -/
def State.releaseWaits (s : State) (w : WarpId) (l : Launch) (g : Group) (qs : List Release) : Bool :=
  decide (Config.groupCopies < s.copiesOf w + (qs.filter Release.isCopy).length && (qs.any Release.isCopy))
    || (qs.any (fun q => q.hrec?.isSome)
        && decide (Config.opRecords < l.gcRecs.recs.length + (qs.filter fun q => q.hrec?.isSome).length))
    || s.enginesFull w g qs
    || qs.any fun q => match q with
      | .nbload _ _ => s.runs.any fun r => r.part == l.ctx.part
      | _ => false

/-- A collective reads its source at the commit: it waits for halves that the host owns (R187, R384). -/
def State.sourceOwned (s : State) (c : CtxKey) (qs : List Release) : Bool :=
  qs.any fun q => match q with
    | .coll o _ _ _ => s.ctxOwned c o.src (4 * o.count)
    | _ => false

/-- A token that the chunk adopts is no longer outstanding: another chunk has adopted it first (R242). -/
def Launch.adoptsStale (l : Launch) (qs : List Release) : Bool :=
  let given (n : Nat) (t : Word) : Nat :=
    (match l.rec? n with | some r => (r.tokens.filter fun x => x == t).length | none => 0)
      + (qs.filter fun q => match q with | .token m u => m == n && u == t | _ => false).length
  let taken (n : Nat) (t : Word) : Nat := (qs.filter fun q => match q with | .adopt m u => m == n && u == t | _ => false).length
  qs.any fun q => match q with
    | .adopt n t => decide (given n t < taken n t)
    | _ => false

/-! ### The release -/

/-- HCANCEL at its commit (R243): Cancelled stands in the register that it named, and the record of an abandoned COPY reads
Cancelled under every other name too. DESIGN CHOICE: log 73. -/
def State.cancelRec (s : State) (w : WarpId) (reg h : Nat) : State :=
  match s.launch? w.launch with
  | none => s
  | some l =>
    match l.rec? h with
    | none => s
    | some r =>
      if r.state ≠ .pending then s
      else
        let mark (a : Arch) : Arch :=
          { a with h := a.h.zipIdx.map fun p => match p.1 with
              | some y => if p.2 = reg && y.num = h then some { y with cancelled := true } else p.1
              | none => p.1 }
        let s := s.mapWarp w fun y =>
          { y with arch := mark y.arch, chunk := { y.chunk with start := mark y.chunk.start } }
        match s.ops.find? fun o => (o.recs.any fun p => p.2 == h) && (match o.kind with | .copy _ => true | _ => false) with
        | some o => s.endOp o .cancelled 0
        | none => s

/-- An MMA's arrival, and the tile operation that it completes (R154): attributed to the lowest-numbered gang warp. -/
def State.releaseMma (s : State) (w : WarpId) (t : TileOp) (a : MmaArgs) (h pc lane seq : Nat) : State :=
  match s.group? w.launch w.group with
  | none => s
  | some g =>
    match arriveGang g g.gangs t.mask
        { warp := w.warp, mma := a, vals := t.vals, hrec := h, pc := pc, lane := lane
          beat := (match s.launch? w.launch with | some l => s.beatOf l.ctx | none => s.beat) } with
    | .error _ => s
    | .ok (gs, done) =>
      let s := s.mapGroup w.launch w.group fun x => { x with gangs := gs }
      match done with
      | none => s
      | some r =>
        let low := r.arrivals.foldl (fun (b : Arrival) x => if x.warp < b.warp then x else b)
          { warp := w.warp, mma := a, vals := t.vals, hrec := h, pc := pc, lane := lane, beat := 0 }
        let o := s.newOp { w with warp := low.warp } (.tile { t with tags := g.tags })
          (r.arrivals.map fun x => (x.warp, x.hrec)) low.pc low.lane seq (mmaQuota a)
        let o := { o with sources := tileSources w t }
        (s.pushOp o).enqueue o t

/-- The commit releases one item; `seq` is the chunk's sequence number. A COPY counts as one of host or peer memory by its source
and destination ranges, whatever its replica. DESIGN CHOICE: log 67. An MMA takes a record for each arrival of its gang (R241).
DESIGN CHOICE: log 73. -/
def State.release (s : State) (w : WarpId) (c : CtxKey) (seq : Nat) : Release → State
  | .red r => s.pushOp (s.newOp w (.red r) [] r.pc r.lane seq 0)
  | .copy o h pc lane =>
    let src := s.copySources w c o
    let dst := s.copyDests w c o
    let s := s.addRec w.launch h ((s.sourceRows w c o ++ dst).any fun r => r.1.space.irrevocable)
    s.pushOp { s.newOp w (.copy o) [(w.warp, h)] pc lane seq (copyQuota o) with sources := src, dests := dst, zeros := s.zeroPages src }
  | .tile t h pc lane =>
    let s := match h with | some n => s.addRec w.launch n false | none => s
    match t.kind, h with
    | .mma a, some n => s.releaseMma w t a n pc lane seq
    | _, _ =>
      let o := { s.newOp w (.tile t) (match h with | some n => [(w.warp, n)] | none => []) pc lane seq (tileQuota t) with
        sources := tileSources w t, dests := tileDests w t }
      (s.pushOp o).enqueue o t
  | .run d h pc lane =>
    let s := s.addRec w.launch h false
    let o := { s.newOp w .run [(w.warp, h)] pc lane seq (runQuota d) with
      sources := (upTo d.streams).flatMap fun k => s.peekRange c (d.bases.getD k 0) (2048 * d.rows) .read
      dests := (((upTo d.streams).filter d.wmask.testBit).flatMap fun k => s.peekRange c (d.bases.getD k 0) (2048 * d.rows) .read)
        ++ s.peekRange c ((d.at_ + 0x38) % 2 ^ 64) 4 .write }
    let r : Run :=
      { num := s.nextRun, part := c.part, ctx := c, op := some o.num, launch := w.launch, desc := d, pinned := false, locs := []
        stalls := [], nf := false, flags := 0 }
    let s := s.pushOp o
    { s with runs := s.runs ++ [r], nextRun := s.nextRun + 1 }
  | .coll o h pc lane =>
    let s := (s.addRec w.launch h true).mapLaunch w.launch fun l => { l with peers := l.peers ||| (o.peers &&& ~~~(BitVec.ofNat 64 (2 ^ s.pkg))) }
    let src := s.peekRange c o.src (4 * o.count) .read
    (s.fillCtx c o.src (4 * o.count)).pushOp { s.newOp w (.coll o) [(w.warp, h)] pc lane seq (collQuota o) with
      sources := src, data := s.rangeBytes src
      stop := if (rangeLocs src).any s.refuses then
          some { code := .poison, lane := lane, warp := w.warp, group := w.group, pc := pc, addr := o.src } else none
      dests := s.peekRange c o.dst (4 * o.count) .write ++ s.peekRange c o.result 8 .write }
  | .notify q n => s.raiseTail q n
  | .cancel reg h => s.cancelRec w reg h
  | .flush _ => s
  | .sweep n =>
    match getKey n (s.part c.part).regions with
    | none => s
    | some r =>
      let pages := if r.sparse then [] else s.regionPages c.part r
      let mine (x : Loc) : Bool := if r.sparse then x.space == .region c.part && r.holds (x.addr / 65536)
        else x.space == .dev && pages.contains (x.addr / 65536)
      let s := { s with dirty := s.dirty.filter fun d => !mine d.line }
      if !r.sparse then s
      else (r.backed.map fun b => ({ space := .region c.part, addr := r.base + b.1 * 65536 } : Loc)).foldl
        (fun s x => if s.releasable x then s.releasePage (some w) x else s) s
  | .nbload off ws =>
    let tiers := (s.part c.part).tiers
    { s with nbStore := s.nbStore.zipIdx.map fun p =>
        if tiers.contains p.2 then p.1.zipIdx.map fun x =>
          if off ≤ x.2 && x.2 < off + ws.length then ws.getD (x.2 - off) x.1 else x.1
        else p.1 }
  | .token h t => s.mapLaunch w.launch fun l => l.mapRec h fun r => { r with tokens := r.tokens ++ [t], named := insertNew t r.named }
  | .adopt h t => s.mapLaunch w.launch fun l => l.mapRec h fun r => { r with tokens := r.tokens.erase t }

end Sys2Proof.Machine
end

