-- ==== Sys2Proof/Machine/Commit.lean ====
section
/-! DEFINITION. The commit of a chunk (R175 to R184, R229, R232, R255), the pre-grant (R178), the application of REDs (R182,
R191, R222, R353), the heartbeat (R189) and the end of a sleep (R269). -/

namespace Sys2Proof.Machine

/-! ### Exits (R255, R155) -/

/-- Lanes exit, and the WSYNCs that only waited for them go (R265). -/
def Arch.dropLanes (a : Arch) (m : LaneMask) : Arch :=
  { (a.setSt m LaneSt.exited) with
    waits := dropWaiters m a.waits
    rstack := (a.rstack.map fun e => { e with mask := e.mask &&& ~~~m }).filter fun e => e.mask ≠ 0 : Arch }.wsyncRelease

/-- The same in the yield record of a handler whose lanes exit (R292). -/
def YieldRec.dropLanes (y : YieldRec) (a : Arch) (m : LaneMask) : YieldRec :=
  let b := { a with pc := y.pc, st := y.st, waits := y.waits, rstack := y.rstack, tx := none }.dropLanes m
  { y with pc := b.pc, st := b.st, waits := b.waits, rstack := b.rstack }

/-- Lanes exit. -/
def Arch.exitLanes (a : Arch) (m : LaneMask) : Arch :=
  if m = 0 then a else { a.dropLanes m with yrec := a.yrec.map fun y => y.dropLanes a m }

/-- The MMA of the lowest-numbered warp that waits at an open rendezvous which the ended warp never joined (R155).
DEDUCED: log 35. -/
def Group.broken (g : Group) (w : Nat) : Option Arrival :=
  match g.gangs.find? fun r => r.mask.getLsbD w && !r.joined w && !r.arrivals.isEmpty with
  | none => none
  | some r => r.arrivals.foldl (fun b x => match b with
      | none => some x
      | some y => some (if x.warp < y.warp then x else y)) none

/-- What the end of a warp does: its flags join the launch's (R101), which ends with POISON where they are poisoned, at the address
of lane 0's last instruction (R341, R351; DESIGN CHOICE: log 75); and a rendezvous that it leaves open breaks, at the commit's
place in the order (R344). -/
def State.endWarp (s : State) (w : WarpId) : State :=
  match s.group? w.launch w.group, s.warp? w with
  | some g, some x =>
    if !x.ended then s
    else
      let s := if x.arch.poison.any fun p => p.1 == .flags then
          s.latchFault w.launch { code := .poison, warp := w.warp, group := w.group, pc := x.arch.pcOf 0 }
        else s.mapLaunch w.launch fun l => { l with flags := l.flags ||| x.arch.flags.setWidth 5 }
      match g.broken w.warp with
      | none => s
      | some a => s.latchFault w.launch { code := .gangBroken, lane := a.lane, warp := a.warp, group := w.group, pc := a.pc }
  | _, _ => s

/-! ### The commit -/

/-- Answers of a commit. -/
inductive Commit where
  | done (s : State)
  /-- The chunk does not commit, and a fault is taken (R155). -/
  | fault (s : State)
  /-- The chunk waits; in reproducible mode its turn passes. -/
  | pass
  /-- The chunk waits, and the round with it (R187, R362). -/
  | wait (s : State)
  deriving DecidableEq, Repr

/-- Pages as ranges. -/
def pageRanges (l : List Loc) : List (Loc × Nat) := l.map fun x => (x, 65536)

/-- A chunk that asked for backing earlier in the partition has precedence (R362). DEDUCED: log 43. -/
def State.poolBehind (s : State) (w : WarpId) (part : Nat) (c : Chunk) : Bool :=
  s.allWarps.any fun p => p.1 != w && (match s.ctxOf p.1 with | some k => k.part == part | none => false)
    && (match p.2.chunk.poolSince with
      | none => false
      | some n => match c.poolSince with | some m => decide (n < m) | none => true)

/-- Tier that holds a device location's DRAM, by its bank group (R372, R374). -/
def State.homeTier (s : State) (x : Loc) : Option Nat :=
  (s.physOf x).map fun pa => Config.bankGroup (pa / 2048) % (8 * Config.stallsPerTier) / Config.stallsPerTier

/-- The home slice of a device line: one of those on the line's tier that the page's owner held at its creation (R24). -/
def State.homeSlice (s : State) (x : Loc) : Option Nat :=
  match s.physOf x, s.homeTier x with
  | some pa, some t =>
    let own := (upTo 192).filter fun k => (s.part (s.rotOf (pa / 65536)).part).mapped.getLsbD (192 * t + k)
    own[Config.homeSlice (pa / 128) % own.length]?.map (192 * t + ·)
  | _, _ => none

/-- Cores are numbered tier by tier. DEDUCED: log 8. -/
def tierOf (core : Nat) : Nat := core / Config.coresPerTier

/-- The context owns quads on the changing tiers, or has a group there. -/
def State.onTiers (s : State) (diff : BitVec 8) (c : CtxKey) : Bool :=
  ((upTo (8 * Config.quadsPerTier)).any fun q => diff.getLsbD (q / Config.quadsPerTier) && !c.fw && (s.part c.part).quads.getLsbD q)
    || s.launches.any fun l => l.ctx == c && l.groups.any fun g => g.resident && diff.getLsbD (tierOf g.core)

/-- The contexts that a change drains are saved, or have nothing on its tiers. -/
def State.drained (s : State) (diff : BitVec 8) : Bool :=
  s.contexts.all fun c => !s.onTiers diff c.key || c.phase == .saved || c.phase == .halted

/-- From step 2 of a role change on, when its contexts are drained, grants are withheld from chunks that come to their commit and write
lines with homes on the tiers that change (R319, R320). DEDUCED: log 25. -/
def State.withheld (s : State) (xs : List Loc) : Bool :=
  match s.roleChange with
  | none => false
  | some r => s.drained (s.roles ^^^ r) && xs.any fun x => match s.homeTier x with | some t => (s.roles ^^^ r).getLsbD t | none => false

/-- The near-bank run of a launch record covers a byte of one of the pages. -/
def Run.coversPage (r : Run) (pages : List Loc) : Bool :=
  r.op.isNone && r.locs.any fun l => l.any fun x => pages.contains x.page

/-- Pages that the chunk's REGSWEEPs may release: those that hold only defaults, or that the chunk writes (R221). -/
def State.sweepPages (s : State) (p : Nat) (c : Chunk) : List Loc :=
  c.queued.flatMap fun q => match q with
    | .sweep n => (match getKey n (s.part p).regions with
      | some r => (r.backed.map fun b => ({ space := .region p, addr := r.base + b.1 * 65536 } : Loc)).filter fun x =>
          s.pageDefault x || c.writes.any fun y => y.1.page = x
      | none => [])
    | _ => []

/-- The warp whose pre-grant the commit must wait for (R178). -/
def State.grantAhead (s : State) (w : WarpId) (p : Nat) (c : Chunk) : Option WarpId :=
  let t := s.touchOf c.resets c.writes
  s.blocker (some w) { t with states := t.states ++ s.sweepPages p c }

/-- The chunk's pre-grant waits for a chunk of its own context, which then commits first (R178). -/
def State.grantOwn (s : State) (w : WarpId) (k : CtxKey) : Bool :=
  let p := s.part k.part
  (p.pregrant.toList ++ p.pregrantQueue.takeWhile fun x => x ≠ w).any fun x => s.ctxOf x == some k

/-- A page that draws on the pool as it is allocated: an external region's pages do not (R216). -/
def State.drawsPool (s : State) (x : Loc) : Bool :=
  match x.space with
  | .region p => (match s.regionAt p x.addr with | some (_, r) => !r.ext | none => false)
  | _ => false

/-- The chunk must wait at its commit for other agents (R156, R178, R183, R378). -/
def State.commitWaits (s : State) (w : WarpId) (p : Nat) (c : Chunk) : Bool :=
  s.commitHeld c || s.ops.any (fun o => meetAny (pageRanges c.resets) o.sources)
    || (s.runs.any fun r => r.coversPage c.resets) || (s.grantAhead w p c).isSome

/-- The host must give back a half first: one that the chunk writes, or one of a page that it resets (R187, R220). -/
def State.halfOwned (s : State) (c : Chunk) : Bool :=
  (c.writes.map (·.1)).any s.hostOwns || s.halves.any fun h => h.2 == .owned && c.resets.contains h.1.page

/-- The wait is for another context or for a role change: in reproducible mode it holds the round, since a warp passes its turn
only where it waits for a later turn (R191, R319). DEDUCED: log 19. -/
def State.waitsOutside (s : State) (w : WarpId) (k : CtxKey) (c : Chunk) : Bool :=
  s.withheld (memLocs (c.writes.map (·.1)))
    || (match s.grantAhead w k.part c with | some x => s.ctxOf x != some k | none => false)

/-- A pool wait begins: the driver is told (R217, R362). -/
def State.poolWait (s : State) (w : WarpId) (c : CtxKey) : State :=
  match s.warp? w with
  | none => s
  | some x =>
    if x.chunk.poolSince.isSome then s
    else (s.mapWarp w fun y => { y with chunk := { y.chunk with poolSince := some s.cycle } }).notifyPart c.part 1 (ctxId c) 0 0

/-- The warp as its chunk commits: the transaction ends, lanes exit, and a new chunk begins. -/
def Warp.committed (w : Warp) (seq : Nat) : Warp :=
  let a := match w.arch.tx with | some t => w.arch.txMerge w.chunk.start t | none => w.arch
  let a := a.exitLanes w.chunk.exiting
  { w with arch := a, chunk := Chunk.fresh a, seq := seq }

/-- The lines that LNFLUSH names are written back; what the chunk itself has written is not (R211). -/
def State.flushLines (s : State) (qs : List Release) : State :=
  { s with dirty := s.dirty.filter fun d => !qs.any fun q => match q with | .flush x => x == d.line | _ => false }

/-- Committed memory and the warp after the commit; `t` holds the writes already. DEDUCED: log 34. -/
def State.sealChunk (s t : State) (w : WarpId) (l : Launch) (g : Group) (c : Chunk) : State :=
  let locs := c.writes.map (·.1)
  let mem := !(memLocs locs).isEmpty || !c.resets.isEmpty
  let seq := if mem then s.seq + 1 else s.seq
  let halves := t.halves.filter fun h => !(locs.any fun x => x.half = h.1) && !c.resets.contains h.1.page
  let t := ({ t with seq := seq, halves := halves }.markDirty g.core l.num locs).writeLines c.bypass
  let t := t.squashReaders (some w) (s.touchOf c.resets c.writes)
  let t := (t.mapWarp w fun x => x.committed seq).releasePregrant w
  let t := t.mapContext l.ctx fun x => { x with watch := 0, extSent := 0 }
  t.mapLaunch l.num fun x => { x with seq := seq }

/-- What a committed BRK of a debugged launch starts (R348). -/
def State.haltFor (s : State) (k : CtxKey) : Option (Nat × Word) → State
  | none => s
  | some (pc, code) =>
    (s.mapContext k fun x => { x with phase := .halting }).notifyPart k.part 3 (ctxId k) (BitVec.ofNat 64 pc) (code.setWidth 64)

/-- A chunk holds lines, written or read, that a near-bank run or another recall waits for (R355, R357). -/
def State.holdsRows (s : State) (c : Chunk) : Bool :=
  (s.runs.any fun r => !r.pinned && (touchesAny c.loose (s.rowsNow r) || touchesAny c.reads (s.rowsNow r)))
    || s.recalls.any fun r => touchesAny c.loose [(r.at_, r.size)] || touchesAny c.reads [(r.at_, r.size)]

/-- A round that is held for room in the queues of stalls does not also keep back the runs in them: the context's chunks that hold
their lines squash (R357, R374). DEDUCED: log 19. -/
def State.freeRows (s : State) (c : CtxKey) : State :=
  (s.allWarps.filter fun p => s.ctxOf p.1 == some c && s.holdsRows p.2.chunk).foldl
    (fun s p => (s.mapWarp p.1 Warp.squash).countSquash p.1.launch) s

/-- The commit of a warp's ended chunk. A lost core commits nothing (R360). -/
def State.commitChunk (s : State) (w : WarpId) : Commit :=
  match s.launch? w.launch, s.group? w.launch w.group, s.warp? w with
  | some l, some g, some x =>
    let c := x.chunk
    if !c.ended || !g.resident || l.fault.isSome || l.saveInvalid || x.fault.isSome || s.lost.contains (.core g.core) then .pass
    else if c.pregrant == .waiting then (if s.grantOwn w l.ctx then .pass else .wait s)
    else match dryGangs g w g.gangs c.queued with
      | .error .wait => .pass
      | .error (.fault code a) =>
        .fault (s.takeFault w { code := code, lane := a.lane, warp := a.warp, group := w.group, pc := a.pc })
      | .ok _ =>
        if s.waitsOutside w l.ctx c then .wait s
        else if s.commitWaits w l.ctx.part c then (if (s.only l.ctx).commitWaits w l.ctx.part c then .pass else .wait s)
        else if s.halfOwned c then .wait s
        else if s.sourceOwned l.ctx c.queued then .wait s
        else if l.adoptsStale c.queued then .wait ((s.mapWarp w Warp.squashConflict).countSquash w.launch)
        else if s.enginesFull w g c.queued then .wait s
        else if s.stallsFull l.ctx (c.queued.filterMap Release.desc?) then .wait (if s.reproOf l.ctx then s.freeRows l.ctx else s)
        else if s.releaseWaits w l g c.queued then (if (s.only l.ctx).releaseWaits w l g c.queued then .pass else .wait s)
        else if (s.toAllocate c.resets c.writes).any s.drawsPool && s.poolBehind w l.ctx.part c then .wait (s.poolWait w l.ctx)
        else match s.place c.resets c.writes c.bypass with
          | none => .wait (s.poolWait w l.ctx)
          | some t =>
            let t := s.sealChunk (t.flushLines c.queued) w l g c
            let t := c.queued.foldl (fun t r => t.release w l.ctx t.seq r) t
            let t := t.endWarp w
            .done ((t.haltFor l.ctx c.halt).mapLaunch l.num Launch.gcRecs)
  | _, _, _ => .pass

/-- CHUNK_COMMIT in free mode (R175 to R178); in reproducible mode chunks commit in their turns (R191). -/
def execChunkCommit (w : WarpId) (s : State) : Host.Outcome State Fault Refusal :=
  .next (match s.ctxOf w with
    | none => s
    | some k =>
      if s.reproOf k then s
      else match s.commitChunk w with
        | .done t => t
        | .fault t => t
        | .wait t => t
        | .pass => s)

/-! ### Pre-grants (R178) -/

/-- PRE_GRANT: a request joins the queue of its partition, and is granted when it is first and none is live. -/
def execPreGrant (w : WarpId) (s : State) : Host.Outcome State Fault Refusal :=
  .next (match s.ctxOf w, s.warp? w with
    | some k, some x =>
      if x.chunk.pregrant != .waiting then s
      else
        let p := s.part k.part
        let q := insertNew w p.pregrantQueue
        if p.pregrant.isNone && q.head? == some w then
          (s.mapPart k.part fun y => { y with pregrant := some w, pregrantQueue := q.drop 1 }).mapWarp w fun y =>
            { y with chunk := { y.chunk with pregrant := .held } }
        else s.mapPart k.part fun y => { y with pregrantQueue := q }
    | _, _ => s)

/-! ### REDs -/

/-- The RED that may be applied now: in reproducible mode REDs are applied in their program order, before any later turn
(R191). -/
def State.redTurn (s : State) (o : Op) : Bool :=
  o.publishRound.isNone || !s.ops.any fun p => decide (p.num < o.num) && p.publishRound.isSome && (match p.kind with | .red _ => true | _ => false)
    && (match s.launch? o.launch, s.launch? p.launch with | some a, some b => a.ctx == b.ctx | _, _ => false)

/-- An operation that needs backing waits for it, and the driver is told once (R217). -/
def State.opPoolWait (s : State) (o : Op) : State :=
  if o.poolSince.isSome then s
  else
    let s := s.mapOp o.num fun x => { x with poolSince := some s.cycle }
    match s.launch? o.launch with
    | some l => s.notifyPart l.ctx.part 1 (ctxId l.ctx) 0 0
    | none => s

/-- One RED at its home slice: a singleton (R181, R182); a poisoned word stays so and the launch ends with POISON (R353).
DEDUCED: log 38. -/
def State.applyRed (s : State) (o : Op) (r : RedOp) : State :=
  if !s.redTurn o || r.locs.any s.hostOwns || s.sourceHeld (some o.num) r.locs then s
  else if r.locs.any s.isPoisoned then s.opFault o .poison r.va
  else
    let new := leBytes r.locs.length (aopApply r.op r.ty (leNat (r.locs.map s.byteAt)) r.value.toNat).1
    match s.singleton (r.locs.zip new) with
    | .held => s
    | .noPool => s.opPoolWait o
    | .done t => (t.ownWrites r.locs).dropOp o.num

/-- RED_APPLICATION (R182). -/
def execRedApplication (n : Nat) (s : State) : Host.Outcome State Fault Refusal :=
  .next (match s.op? n with
    | none => s
    | some o => match o.kind with | .red r => s.applyRed o r | _ => s)

/-! ### Time -/

/-- The context is resident: it is not descheduled (R298). -/
def CtxPhase.resident : CtxPhase → Bool
  | .running | .yielding | .halting => true
  | .saved | .halted => false

/-- Cycles pass; the no-commit watchdog counts them while its context is resident (R298). -/
def State.passTime (s : State) (n : Nat) : State :=
  { s with cycle := s.cycle + n
           contexts := s.contexts.map fun c => if c.phase.resident then { c with watch := c.watch + n } else c }

/-- HEARTBEAT_TICK: the Crier counts 1,024 cycles (R189). The cycle counter stands within the beat. -/
def execHeartbeatTick (s : State) : Host.Outcome State Fault Refusal :=
  .next (if s.devready then { s.passTime ((s.beat + 1) * 1024 - s.cycle) with beat := s.beat + 1 } else s)

/-- A sleep that is over. -/
def WaitKind.sleepOver (k : WaitKind) (cycle : Nat) : Bool :=
  match k with | .sleep d rounds => !rounds && decide (d ≤ cycle) | _ => false

/-- SLEEP_EXPIRY in free mode (R269): the cycle counter has reached the end of the sleep. -/
def execSleepExpiry (w : WarpId) (s : State) : Host.Outcome State Fault Refusal :=
  .next (s.mapWarp w fun x =>
    let wake (a : Arch) (ws : List Wait) : Arch :=
      ws.foldl (fun a y => if y.kind.sleepOver s.cycle then a.release y.lanes y.next else a) a
    { x with arch := wake x.arch x.arch.waits
             chunk := { x.chunk with start := wake x.chunk.start x.chunk.start.waits } })

end Sys2Proof.Machine
end

