-- ==== Sys2Proof/Machine/Engine.lean ====
section
/-! DEFINITION. The matrix engines at work: tile operations start, take K-steps and complete (R148, R152, R156, R161 to R164,
R353), replays (R167) and the engine watchdog (R168). -/

namespace Sys2Proof.Machine

/-! ### Helpers -/

/-- The tile operation at the head of an engine's queue. -/
def State.headOp (s : State) (e : EngineId) : Option (Op × TileOp) :=
  match (s.engine e).queue with
  | [] => none
  | n :: _ => match s.op? n with
    | some o => match o.kind with | .tile t => some (o, t) | _ => none
    | none => none

/-- The head leaves the queue. -/
def State.popHead (s : State) (e : EngineId) : State :=
  let x := s.engine e
  s.setEngine { x with queue := x.queue.drop 1, running := false, since := s.cycle }

def State.mapTile (s : State) (o : Op) (n : Nat) (f : Tile → Tile) : State :=
  s.mapGroup o.launch o.group fun g => { g with tiles := updAt f g.tiles n }

def State.tile? (s : State) (o : Op) (n : Nat) : Option Tile := (s.group? o.launch o.group).bind fun g => g.tiles[n]?

/-- A byte of the group's scratchpad. -/
def State.spadRead (s : State) (o : Op) : SpadRead := fun a => s.byteAt { space := .spad o.launch o.group, addr := a }

def State.spadPoison (s : State) (o : Op) (xs : List Nat) : Bool :=
  xs.any fun a => s.isPoisoned { space := .spad o.launch o.group, addr := a }

/-- The head's operation changes in place. -/
def State.setTileOp (s : State) (o : Op) (t : TileOp) : State := s.mapOp o.num fun x => { x with kind := .tile t }

/-- The head ends its launch (R80, R353), and its tile holds no result. ADDR of a POISON that a tile operation consumes is 0.
DESIGN CHOICE: log 64. -/
def State.headFault (s : State) (e : EngineId) (o : Op) (t : TileOp) (c : Code) : State :=
  (((s.popHead e).mapTile o t.tile fun x => { x with running := false, poison := true }).mapOp o.num fun x =>
    { x with finished := true }).opFault o c 0

/-- Saturating count of corrected events (R82, R288). -/
def State.countCorr (s : State) (l : Nat) : State := s.mapLaunch l fun x => { x with corr := x.corr + 1 }

/-! ### Start -/

/-- An earlier operation on a multiplicand tile has not completed (R152). -/
def State.tileBusy (s : State) (o : Op) (n : Nat) : Bool :=
  (s.tileOps o.launch o.group n).any fun p => decide (p.num < o.num) && !p.finished

/-- An MMA starts: its multiplicand is taken, and the tile counts no step yet (R152, R165). An operation on the multiplicand
tile with a later issue point is not held until then. DESIGN CHOICE: log 55. -/
def State.startMma (s : State) (e : EngineId) (o : Op) (t : TileOp) (a : MmaArgs) : State :=
  let src := a.ar.num
  if a.asrc && s.tileBusy o src then s
  else
    match s.tile? o a.dt.val, s.tile? o src with
    | some d, m =>
      let poisoned := d.poison || (a.asrc && (match m with | some x => x.poison | none => false))
      if poisoned then s.headFault e o t .poison
      else
        let t := if t.step = 0 && a.asrc then
            let (xs, f) := convertTile a (match m with | some x => x.acc | none => [])
            { t with snap := xs, flags := f }
          else t
        let s := (s.setTileOp o t).mapTile o a.dt.val fun x => { x with steps := t.step, running := true }
        s.setEngine { s.engine e with running := true, since := s.cycle }
    | none, _ => s

/-- TILE_OP_START (R148), unless the context has been pre-empted (R169). -/
def execTileOpStart (e : EngineId) (s : State) : Host.Outcome State Fault Refusal :=
  .next (match s.headOp e with
    | none => s
    | some (o, t) =>
      if (s.engine e).running || (s.engine e).reset || !s.engineRuns o.launch then s
      else match t.kind with
        | .mma a => s.startMma e o t a
        | _ => s.setEngine { s.engine e with running := true, since := s.cycle })

/-! ### K-steps -/

/-- Scratchpad bytes that a K-step consumes: the operands' slices and their scales. -/
def kstepBytes (a : MmaArgs) (vals : List Word) (step : Nat) : List Nat :=
  let n := MmaArgs.kstep a
  (mmaOperands a vals).flatMap fun o => o.slice n step ++ (match o.scale with
    | none => []
    | some p => (upTo 16).flatMap fun l =>
        let x := p + 2 * (l * o.blocks + step * n / MFmt.block o.fmt)
        [x, x + 1])

/-- Launches with a tile on an engine, and the lowest such group of each (R168, R288). -/
def State.tileHolders (s : State) (e : EngineId) : List (Nat × Nat) :=
  s.launches.filterMap fun l =>
    match (l.groups.filter fun g => g.resident && (upTo g.tiles.length).any fun t => g.engineOf t == e).map fun g => g.index with
    | [] => none
    | x :: xs => some (l.num, xs.foldl min x)

/-- An engine reset (R168): its queue is discarded, its tiles are cleared, and every launch with a tile on it ends;
`mismatch` when three replays of a K-step did not help (R167). -/
def State.resetEngine (s : State) (e : EngineId) (mismatch : Bool) : State :=
  let ends := s.tileHolders e
  let q := (s.engine e).queue
  let clear (g : Group) : Group :=
    if g.resident then { g with tiles := g.tiles.zipIdx.map fun p => if g.engineOf p.2 = e then Tile.fresh else p.1 } else g
  let s : State := { s with
    ops := s.ops.filter fun o => !q.contains o.num
    launches := s.launches.map fun l => { l with groups := l.groups.map clear } }
  let s := s.setEngine { Engine.fresh e with since := s.cycle, reset := true, mismatched := mismatch }
  ends.foldl (fun s p => s.launchFault p.1 { code := .engineReset, group := p.2 }) s

/-- One K-step of the MMA at the head (R157, R161). -/
def State.kstep (s : State) (e : EngineId) (o : Op) (t : TileOp) (a : MmaArgs) (exact : Bool) : State :=
  match s.tile? o a.dt.val with
  | none => s
  | some d =>
    let skip := kstepSkipped a t.vals t.tags exact t.step
    if !skip && s.spadPoison o (kstepBytes a t.vals t.step) then s.headFault e o t .poison
    else
      let base := if t.step = 0 && a.ovw then List.replicate 256 0 else d.acc
      let (acc, f) := if skip then (base, 0) else kstepApply a t.vals t.snap (s.spadRead o) t.step d.acc
      let s := (s.mapTile o a.dt.val fun x => { x with acc := acc, steps := t.step + 1 }).setTileOp o
        { t with step := t.step + 1, replays := 0, flags := t.flags ||| f }
      s.setEngine { s.engine e with since := s.cycle }

/-- MMA_KSTEP (R161, R167), unless the context has been pre-empted (R169): a residue mismatch replays the K-step, and
after three replays the engine is reset. -/
def execMmaKstep (e : EngineId) (mismatch : Bool) (s : State) : Host.Outcome State Fault Refusal :=
  .next (match s.headOp e with
    | none => s
    | some (o, t) =>
      match t.kind with
      | .mma a =>
        if !(s.engine e).running || !s.engineRuns o.launch || MmaArgs.steps a ≤ t.step then s
        else if mismatch then
          if 3 ≤ t.replays then s.resetEngine e true
          else (s.setTileOp o { t with replays := t.replays + 1 }).countCorr o.launch
        else s.kstep e o t a (match s.launch? o.launch with | some l => l.fields.exact | none => false)
      | _ => s)

/-! ### Completion -/

/-- What the engine does at the end of an operation: the tile changes, or the bytes of an ACCST are formed; the operation
is then finished, and leaves the queue. -/
def State.finishTile (s : State) (e : EngineId) (o : Op) (t : TileOp) : State :=
  let done (s : State) (t : TileOp) (sh : Option (List (Loc × Byte))) : State :=
    (s.popHead e).mapOp o.num fun x => { x with kind := .tile t, finished := true, shadow := sh }
  let base := (t.vals.getD 0 0).toNat
  match t.kind with
  | .mma a =>
    if t.step < MmaArgs.steps a then s
    else done (s.mapTile o a.dt.val fun x => { x with running := false }) t none
  | .accz _ n => done (s.mapTile o n fun _ => Tile.fresh) t none
  | .accld a =>
    if s.spadPoison o ((upTo 256).flatMap fun k => (upTo (AccFmt.bytes a.fmt)).map fun i => AccArgs.elemAddr a base k + i)
    then s.headFault e o t .poison
    else
      let (acc, f) := accLoad a base (s.spadRead o)
      done (s.mapTile o a.tile.val fun x => { x with acc := acc, steps := 0, poison := false }) { t with flags := f } none
  | .accst a =>
    match s.tile? o a.tile.val with
    | none => s
    | some d =>
      if d.poison then s.headFault e o t .poison
      else
        let (bs, f) := accStore a base d.acc
        done s { t with flags := f } (some (bs.map fun p => ({ space := .spad o.launch o.group, addr := p.1 }, p.2)))

/-- A finished operation that may end now: in its round, after earlier operations over its destination, and for an ACCST
not before the operations that still read the bytes (R156, R183, R192). -/
def State.tileReady (s : State) (o : Op) : Bool :=
  o.finished && o.stop.isNone && s.due o && s.running o.launch && !s.behind o && s.publishTurn o
    && !s.sourceHeld (some o.num) ((o.shadow.getD []).map (·.1))

/-- The end of a finished operation: an ACCST publishes as one singleton (R164), the handles become Done. -/
def State.publishTile (s : State) (o : Op) (t : TileOp) : State :=
  match o.shadow with
  | none => s.endOp o .done t.flags
  | some ws =>
    match s.singleton ws with
    | .done t' => t'.endOp o .done t.flags
    | _ => s

/-- The engine of an operation's group and tile. -/
def State.onEngine (s : State) (o : Op) (t : TileOp) (e : EngineId) : Bool :=
  match s.group? o.launch o.group with | some g => g.engineOf t.tile == e | none => false

/-- The operation may come to its end: at a pre-emption and at a halt, one that is not an MMA still does (R169). -/
def State.finishes (s : State) (o : Op) (t : TileOp) : Bool :=
  s.running o.launch || (match t.kind with | .mma _ => false | _ => true)

/-- TILE_OP_COMPLETE (R161, R164): the operation at the head finishes, and the first finished operation that may end does. -/
def execTileOpComplete (e : EngineId) (s : State) : Host.Outcome State Fault Refusal :=
  let s := match s.headOp e with
    | none => s
    | some (o, t) => if (s.engine e).running && s.finishes o t then s.finishTile e o t else s
  .next (match s.ops.findSome? fun o => match o.kind with
      | .tile t => if s.onEngine o t e && s.tileReady o then some (o, t) else none
      | _ => none with
    | none => s
    | some (o, t) => s.publishTile o t)

/-! ### Hangs -/

/-- ENGINE_WATCHDOG_EXPIRY (R168). -/
def execEngineWatchdogExpiry (e : EngineId) (s : State) : Host.Outcome State Fault Refusal :=
  .next (if (s.engine e).running && decide ((s.engine e).since + 2 ^ 24 ≤ s.cycle) then s.resetEngine e false else s)

/-- ENGINE_RETURN_TO_SERVICE (R359): unless the core has been declared lost. -/
def execEngineReturnToService (e : EngineId) (s : State) : Host.Outcome State Fault Refusal :=
  .next (if (s.engine e).reset && !s.lost.contains (.engine e) && !s.lost.contains (.core e.core) then
      s.setEngine { s.engine e with reset := false, mismatched := false }
    else s)

end Sys2Proof.Machine
end

