-- ==== Sys2Proof/Machine/Copy.lean ====
section
/-! DEFINITION. The copy engine and the Barrow at work (R212, R213, R234 to R240, R287, R353): fetching and transforming a
command's sources, the start and the publish of a COPY, and the publish of a group's fill. -/

namespace Sys2Proof.Machine

/-! ### LZ4 blocks (R238) -/

/-- Length bytes that follow a nibble of 15. -/
def lz4Len : List Byte → Nat → Nat × List Byte
  | [], n => (n, [])
  | b :: r, n => if b = 255 then lz4Len r (n + 255) else (n + b.toNat, r)

def lz4Field (n : Nat) (r : List Byte) : Nat × List Byte := if n = 15 then lz4Len r 15 else (n, r)

/-- A match of `n` bytes at an offset; the output is kept newest first. -/
def lz4Match (off : Nat) : Nat → List Byte → List Byte
  | 0, out => out
  | n + 1, out => lz4Match off n (out.getD (off - 1) 0 :: out)

/-- Sequences of a block; none where it is malformed. A match length that the block's end cuts off is taken as read so far, and one
byte after the stated length is not malformed. DESIGN CHOICE: log 62. -/
def lz4Run (len : Nat) : Nat → List Byte → List Byte → Option (List Byte)
  | 0, _, _ => none
  | _ + 1, [], out => if out.length = len then some out.reverse else none
  | fuel + 1, t :: r, out =>
    let (lit, r) := lz4Field (t.toNat / 16) r
    if len < out.length + lit || r.length < lit then none
    else
      let out := (r.take lit).reverse ++ out
      match r.drop lit with
      | [] => if out.length = len then some out.reverse else none
      | [_] => if out.length = len then some out.reverse else none
      | a :: b :: r =>
        let off := a.toNat + 256 * b.toNat
        let (m, r) := lz4Field (t.toNat % 16) r
        if off = 0 || out.length < off || len < out.length + m + 4 then none
        else lz4Run len fuel r (lz4Match off (m + 4) out)

def lz4 (bs : List Byte) (len : Nat) : Option (List Byte) := lz4Run len (bs.length + 1) bs []

/-! ### Transforms (R234) -/

/-- F8 to BF16 is exact. -/
def f8ToBf16 (e5 : Bool) (b : Byte) : List Byte :=
  leBytes 2 (froundV fmtBF16 .rne false (unpack (if e5 then fmtF8E5 else fmtF8E4) b.toNat)).1

/-- BF16 to F8 rounds to nearest and saturates. -/
def bf16ToF8 (e5 : Bool) (lo hi : Byte) : Byte :=
  BitVec.ofNat 8 (froundV (if e5 then fmtF8E5 else fmtF8E4) .rne true (unpack fmtBF16 (lo.toNat + 256 * hi.toNat))).1

/-- Halves a list into pairs. -/
def pairUp {α β : Type} (f : α → α → β) : List α → List β
  | a :: b :: r => f a b :: pairUp f r
  | _ => []

/-- The bytes of a row under XF 0 to 5, each with whether it comes only from unbacked zero pages (R239). -/
def transformRow (xf : Nat) (bs : List (Byte × Bool)) : List (Byte × Bool) :=
  match xf with
  | 2 | 3 => bs.flatMap fun p => (f8ToBf16 (xf == 3) p.1).map fun b => (b, p.2)
  | 4 | 5 => pairUp (fun a b => (bf16ToF8 (xf == 5) a.1 b.1, a.2 && b.2)) bs
  | _ => bs

/-! ### Fetching -/

/-- What a command fetches: destination bytes in order, default tags, whether it failed, whether it reaches host or peer
memory, the pages it pins, and the places it reads. -/
structure Fetched where
  bytes : List (Loc × Byte)
  tags : List Nat
  failed : Bool
  external : Bool
  pins : List Loc
  reads : List Loc
  deriving DecidableEq, Repr

inductive Fetch where
  | stop (c : Code) (addr : Nat)
  | wait
  | got (f : Fetched)
  deriving DecidableEq, Repr

/-- A location under column orientation: the row-view byte of its sector (R212). -/
def columnLoc (es : Nat) (x : Loc) : Loc := { x with addr := x.addr / 1024 * 1024 + columnByte es (x.addr % 1024) }

/-- Locations of the bytes at an address. -/
def State.rowLocs (s : State) (w : WarpId) (c : CtxKey) (spad col : Bool) (a n : Nat) (acc : Access) :
    Except (Code × Nat) (List Loc) :=
  if spad then .ok ((upTo n).map fun i => { space := .spad w.launch w.group, addr := a + i })
  else
    let va := a % 2 ^ 64
    match s.lookRange c va n acc with
    | .error e => .error (e, va)
    | .ok l =>
      let es := match s.regionAt c.part (va % 2 ^ 57) with | some (_, r) => r.esBytes | none => 1
      .ok (if col then (rangeLocs l).map (columnLoc es) else rangeLocs l)

/-- Rows in turn. -/
def State.rowsLocs (s : State) (w : WarpId) (c : CtxKey) (spad col : Bool) (base pitch n : Nat) (acc : Access) (rows : Nat) :
    Except (Code × Nat) (List (List Loc)) :=
  (upTo rows).mapM fun k => s.rowLocs w c spad col (base + k * pitch) n acc

/-- Whole 256-byte units of scratchpad that a command fills from unbacked zero pages (R239). -/
def zeroUnits (ws : List (Loc × Bool)) : List Nat :=
  (distinct (ws.map fun p => p.1.addr / 256)).filter fun u =>
    (upTo 256).all fun i => (ws.any fun p => p.1.addr = 256 * u + i) && ws.all fun p => p.1.addr ≠ 256 * u + i || p.2

/-- What a list of writes leaves: the last byte for each location, where rows of a destination overlap. -/
def finalBytes (ws : List (Loc × Byte)) : List (Loc × Byte) := ws.foldl (fun l p => setKey p.1 p.2 l) []

/-- The core of a group. -/
def State.coreOf (s : State) (l g : Nat) : Nat := match s.group? l g with | some x => x.core | none => deviceCore

/-- The bytes of a command whose sources have been found; a peer may refuse to give them (R397). `zero` tells the source bytes
of unbacked zero pages (R239). ADDR of a POISON is the source base. DESIGN CHOICE: log 64. -/
def State.fetchRows (s : State) (core : Nat) (k : CtxKey) (c : CopyOp) (zero : Loc → Bool) (src rep dst : List (List Loc))
    (sc : List Loc) : Fetch :=
  let flat := src.flatten
  let win := s.oneWindow k.part flat
  let scales := if c.xf = 1 then (match win with | some x => s.scaleRows x c src | none => []) else []
  let ext := (flat ++ dst.flatten).any fun x => x.space.irrevocable
  let pins := distinct ((memLocs (flat ++ rep.flatten ++ dst.flatten)).map Loc.page)
  let fail : Fetch := .got { bytes := [], tags := [], failed := true, external := ext, pins := pins, reads := flat ++ scales }
  let whole (ws : List (Loc × Byte)) : List (Loc × Byte) := if 1 < c.rows && c.dstPitch < c.dstRow then finalBytes ws else ws
  if (flat ++ scales ++ rep.flatten).any fun x => s.hostOwns x || s.unreachable core x then .wait
  else if (flat ++ scales).any fun x => s.isPoisoned x || s.refuses x then .stop .poison c.src
  else if c.xf = 1 && win.isNone then fail
  else if c.xf = 6 then
    let got (bs : List Byte) (reads : List Loc) : Fetch :=
      .got { bytes := dst.flatten.zip bs, tags := [], failed := false, external := ext, pins := pins, reads := reads }
    match lz4 (flat.map s.byteAt) c.outLen with
    | some bs => got bs flat
    | none =>
      if rep.flatten.any fun x => s.isPoisoned x || s.refuses x then .stop .poison c.src
      else match (if rep.flatten.isEmpty then none else lz4 (rep.flatten.map s.byteAt) c.outLen) with
        | some bs => got bs (flat ++ rep.flatten)
        | none => fail
  else
    let rows := src.map fun r => transformRow c.xf (r.map fun x => (s.byteAt x, zero x))
    let main := (dst.zip rows).flatMap fun p => p.1.zip p.2
    let extra := sc.zip (scales.map s.byteAt)
    .got { bytes := whole (main.map (fun p => (p.1, p.2.1)) ++ extra)
           tags := if c.dstSpad then zeroUnits (main.map (fun p => (p.1, p.2.2)) ++ extra.map fun p => (p.1, false)) else []
           failed := false, external := ext, pins := pins, reads := flat ++ scales }

/-- A command's pages are translated before the first byte moves (R236), then it is fetched. -/
def State.fetchCopy (s : State) (w : WarpId) (k : CtxKey) (c : CopyOp) (zero : Loc → Bool) : Fetch :=
  let walks (spad : Bool) (base pitch n : Nat) : List Loc :=
    if spad then [] else (upTo c.rows).flatMap fun j => s.walksOf k ((base + j * pitch) % 2 ^ 64) n
  let path := walks c.srcSpad c.src c.srcPitch c.rowBytes ++ walks c.dstSpad c.dst c.dstPitch c.dstRow
    ++ (match c.replica with | some a => s.walksOf k a c.rowBytes | none => [])
  let rep : Except (Code × Nat) (List (List Loc)) := match c.replica with
    | none => .ok []
    | some a => s.rowsLocs w k false false a 0 c.rowBytes .read 1
  if path.any s.hostOwns then .wait
  else match s.rowsLocs w k c.srcSpad c.col c.src c.srcPitch c.rowBytes .read c.rows,
    s.rowsLocs w k c.dstSpad false c.dst c.dstPitch c.dstRow .write c.rows, rep with
  | .error e, _, _ => .stop e.1 e.2
  | _, .error e, _ => .stop e.1 e.2
  | _, _, .error e => .stop e.1 e.2
  | .ok src, .ok dst, .ok rep =>
    let sc := if c.xf = 1 then
        (upTo (2 * c.rows * c.blocks)).map fun i => ({ space := .spad w.launch w.group, addr := c.scaleBase + i } : Loc)
      else []
    match s.fetchRows (s.coreOf w.launch w.group) k c zero src rep dst sc with
    | .got f => .got { f with reads := distinct (f.reads ++ path) }
    | r => r

/-! ### COPY -/

/-- Location of the arrival word. -/
def awLoc (w : WarpId) (a : Nat) : Loc := { space := .spad w.launch w.group, addr := a }

/-- The fetch of a COPY whose arrival word has been checked. -/
def State.fetchInto (s : State) (o : Op) (c : CopyOp) (l : Launch) (w : WarpId) : State :=
  match s.fetchCopy w l.ctx c fun x => o.zeros.contains x.page with
  | .stop code a => s.opFault o code a
  | .wait => s
  | .got f =>
    (s.fillLines f.reads).mapOp o.num fun x => { x with
      shadow := some f.bytes, setTags := f.tags, pins := f.pins, failed := f.failed
      credit := if f.failed then 0 else c.rows * c.dstRow }

/-- A COPY starts: pages are pinned, and sources are read into the shadow (R236). DEDUCED: log 37. -/
def State.startCopy (s : State) (o : Op) (c : CopyOp) : State :=
  match s.launch? o.launch with
  | none => s
  | some l =>
    let w : WarpId := ⟨o.launch, o.group, o.warp⟩
    if o.shadow.isSome || o.stop.isSome || !s.running o.launch || s.lost.contains (.copyEngine (s.coreOf o.launch o.group)) then s
    else match c.aw with
      | some a =>
        if a % 8 ≠ 0 then s.opFault o .misaligned a
        else if l.portion < a + 8 then s.opFault o .address a
        else s.fetchInto o c l w
      | none => s.fetchInto o c l w

/-- COPY_ENGINE_START (R236). -/
def execCopyEngineStart (n : Nat) (s : State) : Host.Outcome State Fault Refusal :=
  .next (match s.op? n with
    | none => s
    | some o => match o.kind with | .copy c => s.startCopy o c | _ => s)

/-- Sets default tags of a group (R239). -/
def State.setTags (s : State) (l g : Nat) (us : List Nat) : State :=
  if us.isEmpty then s
  else s.mapGroup l g fun x => { x with tags := us.foldl (fun t u => insertNew u t) x.tags }

/-- The credit of an arrival word: a singleton (R244). -/
def State.creditWord (s : State) (w : WarpId) (a n : Nat) : Option State :=
  let x := awLoc w a
  s.writeNow (((upTo 8).map x.plus).zip (leBytes 8 (awCredit (s.arrivalWord x) n)))

/-- One singleton of a COPY into host or peer memory: the bytes left of one 64-byte half (R181, R236). -/
def State.copySingleton (s : State) (o : Op) (x : Loc) (ws : List (Loc × Byte)) : State :=
  if s.unreachable (s.coreOf o.launch o.group) x then s
  else
    let mine (p : Loc × Byte) : Bool := p.1.half == x.half
    (if s.refuses x then s else s.putBytes (ws.filter mine)).mapOp o.num fun y => { y with shadow := some (ws.filter fun p => !mine p) }

/-- A COPY publishes: a destination in host or peer memory first as singletons, then its destination in one place of the
order, then the credit, then the handle (R181, R236, R244). Nothing comes from an engine that has been declared lost (R361). -/
def State.publishCopy (s : State) (o : Op) (c : CopyOp) : State :=
  let w : WarpId := ⟨o.launch, o.group, o.warp⟩
  match o.shadow with
  | none => s
  | some ws =>
    let locs := ws.map (·.1)
    let aw := match c.aw with | some a => (upTo 8).map (awLoc w a).plus | none => []
    if o.stop.isSome || !s.due o || !s.running o.launch || !s.publishTurn o
        || s.lost.contains (.copyEngine (s.coreOf o.launch o.group)) then s
    else if o.failed then s.endOp o .failed 0
    else if s.behind o || s.sourceHeld (some o.num) (locs ++ aw) || locs.any s.hostOwns
        || s.heldBack none { words := wordsOf aw, wiped := [], states := [] } then s
    else if aw.any s.isPoisoned then s.opFault o .poison (c.aw.getD 0)
    else if 1 < (distinct ((locs.filter fun x => x.space.irrevocable).map Loc.half)).length then
      (match locs.find? fun x => x.space.irrevocable with | some x => s.copySingleton o x ws | none => s)
    else if locs.any (s.unreachable (s.coreOf o.launch o.group)) then s
    else match s.singleton (if locs.any s.refuses then ws.filter fun p => !p.1.space.irrevocable else ws) with
      | .held => s
      | .noPool => s.opPoolWait o
      | .done t =>
        let t := (t.ownWrites locs).setTags o.launch o.group o.setTags
        let t := match c.aw with | some a => (t.creditWord w a o.credit).getD t | none => t
        t.endOp o .done 0

/-- COPY_PUBLISH (R236). -/
def execCopyPublish (n : Nat) (s : State) : Host.Outcome State Fault Refusal :=
  .next (match s.op? n with
    | none => s
    | some o => match o.kind with | .copy c => s.publishCopy o c | _ => s)

/-! ### The Barrow (R287) -/

/-- A binding as a COPY for a group. -/
def Bind.command (b : Bind) (g : Nat) : CopyOp :=
  let src := (b.src + g * b.stride) % 2 ^ 64
  { xf := b.xf, src := src, dst := b.dst, rows := 1, rowBytes := b.size, outLen := b.outLen, srcPitch := b.size, dstPitch := 0
    srcSpad := false, dstSpad := true, col := false
    replica := if b.repOff = 0 then none else some (wrapInt 64 (src + b.repOff)), aw := none }

/-- The bindings of a group in table order, as of its dispatch: they fill scratchpad that no instruction sees before the
publish. None where a source must wait for the host. -/
def State.fillGroup (s : State) (l : Launch) (g : Nat) : List Bind → Option State
  | [] => some s
  | b :: bs =>
    let c := b.command g
    let w : WarpId := ⟨l.num, g, 0⟩
    let fail (code : Code) : Option State := some (s.launchFault l.num { code := code, group := g })
    if !c.aligned then fail .misaligned
    else match s.fetchCopy w l.ctx c s.zeroSource with
      | .wait => none
      | .stop code _ => fail code
      | .got f =>
        if f.failed then fail .transformFailed
        else
          let t := ((((s.fillLines f.reads).putBytes f.bytes).clearTags (f.bytes.map (·.1))).setTags l.num g f.tags).mapGroup l.num g
            fun x => { x with pins := f.pins.foldl (fun p y => insertNew y p) x.pins }
          t.fillGroup l g bs

/-- BARROW_FILL_PUBLISH: the fills publish together before the group's first instruction (R287). DEDUCED: log 37. -/
def execBarrowFillPublish (l g : Nat) (s : State) : Host.Outcome State Fault Refusal :=
  .next (if s.running l then s.mapGroup l g fun x => { x with fill := .done, pins := [] } else s)

end Sys2Proof.Machine
end

