-- ==== Sys2Proof/Machine/FloatFn.lean ====
section
/-! DEFINITION. The correctly rounded functions of R132 and R139 (2^x, log2, sine, cosine, tanh, logistic) and the
approximate variants of R107. A result that is not exact is computed in fixed point with an error bound, at growing
precision until both ends of the bound round alike; inputs far outside the useful range get an equivalent result
directly. -/

namespace Sys2Proof.Machine

/-! ### Fixed point: integers in units of 2^-p -/

/-- Taylor series of e^r: sum and terms while they are nonzero. -/
def expTaylor (p : Nat) (r : Int) : Nat → Nat → Int → Int → Int
  | 0, _, _, acc => acc
  | n + 1, k, t, acc =>
    let t' := t * r / (2 ^ p : Nat) / k
    if t' = 0 then acc else expTaylor p r n (k + 1) t' (acc + t')

/-- e^r for |r| ≤ 1, within 8p + 64 units. -/
def expFix (p : Nat) (r : Int) : Int := expTaylor p r (2 * p) 1 (2 ^ p : Nat) (2 ^ p : Nat)

/-- ln 2 within p + 1 units. -/
def ln2Sum (p : Nat) : Nat → Nat → Nat
  | 0, _ => 0
  | n + 1, k => 2 ^ p / (k * 2 ^ k) + ln2Sum p n (k + 1)
def ln2Fix (p : Nat) : Nat := ln2Sum p p 1

/-- Odd powers of z over odd numbers, with alternating signs when `alt`: atan or atanh of z. -/
def oddSeries (p : Nat) (z2 : Int) (alt : Bool) : Nat → Nat → Int → Int → Int
  | 0, _, _, acc => acc
  | n + 1, k, t, acc =>
    let t' := (if alt then -t else t) * z2 / (2 ^ p : Nat)
    if t' = 0 then acc else oddSeries p z2 alt n (k + 2) t' (acc + t' / k)
def atanhFix (p : Nat) (z : Int) : Int := oddSeries p (z * z / (2 ^ p : Nat)) false (2 * p) 3 z z
def atanInv (p n : Nat) : Int :=
  let z : Int := (2 ^ p / n : Nat)
  oddSeries p (z * z / (2 ^ p : Nat)) true (2 * p) 3 z z

/-- π by Machin's formula. -/
def piFix (p : Nat) : Int := 16 * atanInv p 5 - 4 * atanInv p 239

/-- Terms of the sine and cosine series: each is the last times −y²/((k+1)(k+2)). -/
def trigTaylor (p : Nat) (y2 : Int) : Nat → Nat → Int → Int → Int
  | 0, _, _, acc => acc
  | n + 1, k, t, acc =>
    let t' := -(t * y2 / (2 ^ p : Nat) / ((k + 1) * (k + 2)))
    if t' = 0 then acc else trigTaylor p y2 n (k + 2) t' (acc + t')
def sinFix (p : Nat) (y : Int) : Int := trigTaylor p (y * y / (2 ^ p : Nat)) (2 * p) 1 y y
def cosFix (p : Nat) (y : Int) : Int := trigTaylor p (y * y / (2 ^ p : Nat)) (2 * p) 0 (2 ^ p : Nat) (2 ^ p : Nat)

/-- Bound on every error above, in units. -/
def fixErr (p : Nat) : Nat := 64 * p + 4096

/-- A value m × 2^e in units of 2^-p, rounded down. -/
def toFix (p : Nat) (neg : Bool) (m : Nat) (e : Int) : Int :=
  let x : Int := if 0 ≤ e + p then (m * 2 ^ (e + p).toNat : Nat) else (m : Int) / (2 ^ (-(e + p)).toNat : Nat)
  if neg then -x else x

/-- A fixed-point value as an inexact result, times 2^sh. -/
def ofFix (p : Nat) (x : Int) (sh : Int) : FX := .num (x < 0) x.natAbs (sh - p) true

/-- Rounds `f p` (value and scale) at precisions p, 2p, … until both ends of its error bound agree. -/
def zivRound (fm : Fmt) (rm : Rm) (sat : Bool) (f : Nat → Int × Int) : Nat → Nat → Nat × Fl
  | 0, p => let (x, sh) := f p; fround fm rm sat (ofFix p x sh)
  | n + 1, p =>
    let (x, sh) := f p
    let lo := fround fm rm sat (ofFix p (x - fixErr p) sh)
    let hi := fround fm rm sat (ofFix p (x + fixErr p) sh)
    if lo = hi then lo else zivRound fm rm sat f n (2 * p)

/-- A value just above or just below 1 or another power of two 2^k. -/
def nearPow (neg above : Bool) (k : Int) : FX := .num neg (if above then 2 ^ 200 else 2 ^ 200 - 1) (k - 200) true

/-- A nonzero value below every format's range, and one above. -/
def tinyFX (neg : Bool) : FX := .num neg 1 (-40000) true
def hugeFX (neg : Bool) : FX := .num neg 1 40000 true

/-- Exponent of a nonzero magnitude's leading bit. -/
def topExp (m : Nat) (e : Int) : Int := Nat.log2 m + e

/-- floor of ±m × 2^e as an integer. -/
def floorFin (neg : Bool) (m : Nat) (e : Int) : Int := toFix 0 neg m e - (if neg && e < 0 && m % 2 ^ (-e).toNat ≠ 0 then 1 else 0)

/-- The value is an integer. -/
def isIntegral (m : Nat) (e : Int) : Bool := decide (0 ≤ e) || decide (m % 2 ^ (-e).toNat = 0)

/-! ### 2^x -/

/-- 2^x for x = n + r with 0 ≤ r < 1: e^(r ln 2), scaled by 2^n. -/
def exp2Fix (neg : Bool) (m : Nat) (e : Int) (p : Nat) : Int × Int :=
  let x := toFix p neg m e
  let n := x / (2 ^ p : Nat)
  let r := x - n * (2 ^ p : Nat)
  (expFix p (r * ln2Fix p / (2 ^ p : Nat)), n)

def fexp2 (fm : Fmt) (rm : Rm) (sat : Bool) (a : FV) : Nat × Fl :=
  match a with
  | .nan s => (fm.nan, if s then flNV else 0)
  | .inf n => fround fm rm sat (if n then .num false 0 0 false else .inf false)
  | .fin n m e =>
    if m = 0 then fround fm rm sat (.num false 1 0 false)
    else if 15 ≤ topExp m e then fround fm rm sat (if n then tinyFX false else hugeFX false)
    else if isIntegral m e then fround fm rm sat (.num false 1 (toFix 0 n m e) false)
    else if topExp m e < -120 then fround fm rm sat (nearPow false (!n) 0)
    else zivRound fm rm sat (exp2Fix n m e) 5 256

/-! ### log2 -/

/-- log2 of t × 2^k with t in [3/4, 3/2): k + 2 atanh((t − 1)/(t + 1)) / ln 2. -/
def log2Fix (m : Nat) (e : Int) (p : Nat) : Int × Int :=
  let k := topExp m e
  let t := toFix p false m (e - k)
  let (t, k) := if 3 * (2 ^ p : Nat) ≤ 2 * t then (t / 2, k + 1) else (t, k)
  let z := (t - (2 ^ p : Nat)) * (2 ^ p : Nat) / (t + (2 ^ p : Nat))
  (k * (2 ^ p : Nat) + 2 * atanhFix p z * (2 ^ p : Nat) / ln2Fix p, 0)

def flog2 (fm : Fmt) (rm : Rm) (sat : Bool) (a : FV) : Nat × Fl :=
  match a with
  | .nan s => (fm.nan, if s then flNV else 0)
  | .inf n => if n then (fm.nan, flNV) else fround fm rm sat (.inf false)
  | .fin n m e =>
    if m = 0 then froundFl fm rm sat (.inf true, flDZ)
    else if n then (fm.nan, flNV)
    else if m = 2 ^ Nat.log2 m then
      let k := topExp m e
      fround fm rm sat (.num (k < 0) k.natAbs 0 false)
    else zivRound fm rm sat (log2Fix m e) 5 256

/-! ### sin(2πx), cos(2πx) -/

/-- x modulo 1 in units of 2^-p: exact for p at least −e. -/
def fracFix (p : Nat) (neg : Bool) (m : Nat) (e : Int) : Int := toFix p neg m e % (2 ^ p : Nat)

/-- Sine of `q` quarter turns plus the rest of the turn `f`, |rest| ≤ 1/8 turn. -/
def sinTurn (p : Nat) (f : Int) : Int :=
  let q := (f * 4 + (2 ^ (p - 1) : Nat)) / (2 ^ p : Nat)
  let y := (f - q * (2 ^ (p - 2) : Nat)) * (2 * piFix p) / (2 ^ p : Nat)
  match (q % 4).toNat with
  | 0 => sinFix p y
  | 1 => cosFix p y
  | 2 => -sinFix p y
  | _ => -cosFix p y

def fsincos (fm : Fmt) (rm : Rm) (sat : Bool) (cosine : Bool) (a : FV) : Nat × Fl :=
  match a with
  | .nan s => (fm.nan, if s then flNV else 0)
  | .inf _ => (fm.nan, flNV)
  | .fin n m e =>
    let quarter : Int := if cosine then 1 else 0
    if m = 0 || isIntegral m (e + 2) then
      let q := ((toFix 0 n m (e + 2) + quarter) % 4).toNat
      if q = 0 || q = 2 then fround fm rm sat (.num (if cosine then false else n) 0 0 false)
      else fround fm rm sat (.num (q == 3) 1 0 false)
    else if cosine && topExp m e < -120 then fround fm rm sat (nearPow false false 0)
    else
      let p0 := 256 + (max 0 (-(topExp m e))).toNat
      zivRound fm rm sat (fun p =>
        (sinTurn p (fracFix p n m e + quarter * (2 ^ (p - 2) : Nat)), 0)) 4 p0

/-! ### tanh and the logistic function (EXPR, R139) -/

/-- e^x as a fixed-point value and a power of two. -/
def expAny (neg : Bool) (m : Nat) (e : Int) (p : Nat) : Int × Int :=
  let x := toFix (2 * p) neg m e
  let n := x / (ln2Fix (2 * p) : Int)
  let r := (x - n * ln2Fix (2 * p)) / (2 ^ p : Nat)
  (expFix p r, n)

/-- tanh x = 1 − 2/(e^{2x} + 1) for x > 0. -/
def tanhFix (m : Nat) (e : Int) (p : Nat) : Int × Int :=
  let (t, n) := expAny false m (e + 1) p
  let t' := t * (2 ^ n.toNat : Nat)
  ((t' - (2 ^ p : Nat)) * (2 ^ p : Nat) / (t' + (2 ^ p : Nat)), 0)

def ftanh (fm : Fmt) (rm : Rm) (a : FV) : Nat × Fl :=
  match a with
  | .nan s => (fm.nan, if s then flNV else 0)
  | .inf n => fround fm rm false (.num n 1 0 false)
  | .fin n m e =>
    if m = 0 then fround fm rm false (.num n 0 0 false)
    else if topExp m e < -40 then fround fm rm false (.num n (m * 2 ^ 60 - 1) (e - 60) true)
    else if 6 ≤ topExp m e then fround fm rm false (nearPow n false 0)
    else zivRound fm rm false (fun p => let (x, s) := tanhFix m e p; (if n then -x else x, s)) 4 512

/-- 1/(1 + e^-x): for x ≥ 0 through e^-x, for x < 0 as e^x/(1 + e^x). -/
def sigmFix (neg : Bool) (m : Nat) (e : Int) (p : Nat) : Int × Int :=
  let (t, n) := expAny true m e p
  if neg then (t * (2 ^ p : Nat) / ((2 ^ p : Nat) + t / (2 ^ (-n).toNat : Nat)), n)
  else ((2 ^ (2 * p) : Nat) / ((2 ^ p : Nat) + t / (2 ^ (-n).toNat : Nat)), 0)

def fsigm (fm : Fmt) (rm : Rm) (a : FV) : Nat × Fl :=
  match a with
  | .nan s => (fm.nan, if s then flNV else 0)
  | .inf n => fround fm rm false (if n then .num false 0 0 false else .num false 1 0 false)
  | .fin n m e =>
    if m = 0 then fround fm rm false (.num false 1 (-1) false)
    else if topExp m e < -120 then fround fm rm false (nearPow false (!n) (-1))
    else if 7 ≤ topExp m e && !n then fround fm rm false (nearPow false false 0)
    else if 15 ≤ topExp m e then fround fm rm false (tinyFX false)
    else zivRound fm rm false (sigmFix n m e) 5 256

/-! ### Approximate variants (R107) -/

/-- Trunc(x, n): the n leading significant bits. -/
def truncSig (n : Nat) : FV → FV
  | .fin s m e =>
    let k := Nat.log2 m + 1
    if m = 0 || k ≤ n then .fin s m e else .fin s (m / 2 ^ (k - n)) (e + (k - n : Nat))
  | x => x

/-- FixTrunc(x, q): toward zero to a multiple of 2^-q; a value below one unit becomes a zero of its sign. -/
def fixTrunc (q : Nat) : FV → FV
  | .fin s m e => if -(q : Int) ≤ e then .fin s m e else .fin s (m / 2 ^ (-(q : Int) - e).toNat) (-(q : Int))
  | x => x

def apxN (fm : Fmt) : Nat := if fm.fb = 52 then 24 else 12

/-- The functions with an approximate variant. -/
inductive Fn where
  | sqrt | rcp | rsq | ex2 | lg2 | sin | cos | tanh | sigm
  deriving DecidableEq, Repr

/-- The input of the function: shortened under APX outside exact mode (R107, R109). -/
def reduceFn (fm : Fmt) (fn : Fn) (apx : Bool) (a : FV) : FV :=
  if !apx then a
  else
    match fn with
    | .ex2 => fixTrunc (apxN fm) a
    | .sin | .cos => fixTrunc (apxN fm + 4) a
    | _ => truncSig (apxN fm) a

/-- A function of one operand: correctly rounded value of the function at the reduced input (R132, R107, R108). -/
def fnElem (fm : Fmt) (fn : Fn) (apx : Bool) (rm : Rm) (sat : Bool) (x : Nat) : Nat × Fl :=
  let a := reduceFn fm fn apx (unpack fm x)
  match fn with
  | .sqrt => froundFl fm rm sat (xSqrt a)
  | .rcp => froundFl fm rm sat (xRcp a)
  | .rsq => froundFl fm rm sat (xRsqrt a)
  | .ex2 => fexp2 fm rm sat a
  | .lg2 => flog2 fm rm sat a
  | .sin => fsincos fm rm sat false a
  | .cos => fsincos fm rm sat true a
  | .tanh => ftanh fm rm a
  | .sigm => fsigm fm rm a

/-- FDIV, whose divisor is shortened under APX. -/
def fdivElem (fm : Fmt) (apx : Bool) (rm : Rm) (sat : Bool) (x y : Nat) : Nat × Fl :=
  let b := unpack fm y
  froundFl fm rm sat (xDiv (unpack fm x) (if apx then truncSig (apxN fm) b else b))

end Sys2Proof.Machine
end

