-- ==== Sys2Proof/Machine/NearBank.lean ====
section
/-! DEFINITION. The near-bank tier at work: dependences of blocks (R282, R380), pinning, recall and start of a run (R355, R374),
the microinstructions (R366 to R369), row commits (R376), suspension (R377), and the end of a run (R374, R375, R412). -/

namespace Sys2Proof.Machine

/-! ### Dependences (R277, R282) -/

/-- The launch at a position of a queue. -/
def State.launchAt (s : State) (q : QueueKey) (pos : Nat) : Option Launch := s.launches.find? fun l => l.queue == q && l.pos == pos

/-- Producer groups that a consumer group needs, from `lo` to before `hi`. -/
def Dep.range (d : Dep) (g groups : Nat) : Nat × Nat :=
  let x : Int := (d.mult * g : Nat) + d.offs
  (x.toNat, min (x + d.width).toNat groups)

/-- A dependence entry is met for a group. A producer that has left the machine has completed: one that fails ends its
dependents at once (R284). -/
def State.depMet (s : State) (l : Launch) (g : Nat) (d : Dep) : Bool :=
  match s.launchAt l.queue (l.pos - d.dist) with
  | none => true
  | some p =>
    if d.width = 0 then false
    else
      let (lo, hi) := d.range g p.fields.groups
      (upTo (hi - lo)).all fun k => p.bitmap.testBit (lo + k)

/-- A group's dependences are met, and no fault of the launch is latched or waits for the end of its round: with a producer that has
failed the launch has one (R277, R284). -/
def State.groupReady (s : State) (l : Launch) (g : Nat) : Bool :=
  l.live && l.fault.isNone && l.endFault.isNone && l.fields.deps.all (s.depMet l g)

/-- A block of a near-bank launch may be opened: it and every block below it are ready (R277, R380). -/
def State.blockReady (s : State) (r : Run) (row : Nat) : Bool :=
  match r.op, s.launch? r.launch with
  | none, some l => (upTo (row / 32 + 1)).all (s.groupReady l)
  | none, none => false
  | some _, _ => true

/-! ### Recall (R355 to R357) -/

/-- A recall of some ranges for a running chunk of free mode: a transaction that holds a line aborts with RECALL; a chunk
that has written one is cut, or squashed where its grant does not come in time. -/
def Warp.recall (w : Warp) (granted : Bool) (rs : List (Loc × Nat)) : Warp :=
  let wr := touchesAny w.chunk.loose rs
  if w.arch.tx.isSome then (if wr || touchesAny w.chunk.reads rs then w.txAbort 3 0 ((w.arch.tx.map Tx.deepest).getD 1) else w)
  else if !wr then w
  else if granted then { w with chunk := { w.chunk with ended := true } }
  else w.squash

/-- Recalls some ranges from every core; reproducible chunks are left alone until they commit (R357), and so are those that `spare`
names. -/
def State.recall (s : State) (granted : Bool) (rs : List (Loc × Nat)) (spare : Warp → Bool := fun _ => false) : State :=
  let free (id : WarpId) (w : Warp) : Bool := (match s.ctxOf id with | some c => !s.reproOf c | none => false) && !spare w
  let squashes (id : WarpId) (w : Warp) : Bool :=
    free id w && !granted && w.arch.tx.isNone && touchesAny w.chunk.loose rs
  let hits (l : Launch) : Nat :=
    (l.groups.map fun g => (g.warps.zipIdx.filter fun p => squashes ⟨l.num, g.index, p.2⟩ p.1).length).sum
  let s : State := { s with launches := s.launches.map fun l => { l with squash := l.squash + hits l } }
  s.mapWarps fun id w => if free id w then w.recall granted rs else w

/-- Committed dirty lines of the ranges are written back. -/
def State.cleanRanges (s : State) (rs : List (Loc × Nat)) : State :=
  { s with dirty := s.dirty.filter fun d => !rs.any fun r => rangesMeet (d.line, 128) r }

/-- Warps whose running chunks hold a range: its written lines, and in reproducible mode those that they have read. -/
def State.recallHolders (s : State) (r : Loc × Nat) : List WarpId :=
  let repro (id : WarpId) : Bool := match s.ctxOf id with | some c => s.reproOf c | none => false
  (s.allWarps.filter fun p =>
    touchesAny p.2.chunk.loose [r] || (repro p.1 && touchesAny p.2.chunk.reads [r])).map fun p => p.1

/-- A recall is complete once the chunks that held its lines have committed or were squashed: dirty lines are written back. -/
def State.finishRecalls (s : State) : State :=
  let rs := s.recalls.map fun (x : Recall) => { x with held := x.held.filter (s.recallHolders (x.at_, x.size)).contains }
  let complete := rs.filter fun (x : Recall) => x.held.isEmpty
  { s.cleanRanges (complete.map fun (x : Recall) => (x.at_, x.size)) with recalls := rs.filter fun (x : Recall) => !x.held.isEmpty }

/-- Recalls some ranges, and completes with the chunks that hold them. -/
def State.recallRanges (s : State) (granted : Bool) (rs : List (Loc × Nat)) (spare : Warp → Bool := fun _ => false) : State :=
  let t := s.recall granted rs spare
  let add := rs.map fun r => ({ at_ := r.1, size := r.2, held := t.recallHolders r } : Recall)
  { t with recalls := t.recalls ++ add }.finishRecalls

/-! ### Starting a run -/

/-- An earlier run of the partition streams over some of the same rows, whichever context released it (R374). -/
def State.runBefore (s : State) (r : Run) : Bool :=
  let mine := s.rowsNow r
  s.runs.any fun x => x.part == r.part && decide (x.num < r.num) && meetAny (s.rowsNow x) mine

/-- The walks to a run's rows read page-table halves that the host owns (R187). -/
def State.rowWalks (s : State) (c : CtxKey) (d : RunDesc) : Bool :=
  (upTo d.streams).any fun k => s.walkHeld c (d.bases.getD k 0) (2048 * d.rows)

/-- The open steps of the regions that some streams reach fail (R375, R412). -/
def State.failSteps (s : State) (r : Run) (all : Bool) : State :=
  s.mapPart r.part fun p => { p with regions := p.regions.map fun e =>
    if e.2.vers && e.2.open_ && (upTo r.desc.streams).any fun k => (all || r.desc.wmask.testBit k) && r.desc.reaches k e.2 then
      (e.1, { e.2 with fail := true })
    else e }

/-- A run stops on every stall; its committed rows stay (R375, R412). DEDUCED: log 36. -/
def State.stopRun (s : State) (r : Run) (all : Bool) : State :=
  let s := s.failSteps r all
  { s with runs := s.runs.filter fun x => x.num ≠ r.num }

/-- A run is gone, and the operation that released it. -/
def State.dropRun (s : State) (r : Run) (all : Bool) : State :=
  let s := s.stopRun r all
  match r.op with | some n => s.dropOp n | none => s

/-- A fault of a run, attributed to the launch (R80, R288). -/
def State.runFault (s : State) (r : Run) (c : Code) (block : Nat) : State :=
  let g := match r.op.bind s.op? with | some o => o.group | none => block
  (s.dropRun r true).launchFault r.launch { code := c, group := g }

/-- A fault attributed to the NBRUN, or to the launch for a near-bank record. -/
def State.runOpFault (s : State) (r : Run) (c : Code) (addr block : Nat) : State :=
  match r.op.bind s.op? with
  | some o => (s.stopRun r true).opFault o c addr
  | none => s.runFault r c block

/-- A stall's part of a run before it starts. -/
def StallRun.fresh (stall : Nat) (rows : List Nat) (entry : Nat) : StallRun :=
  { stall := stall, rows := rows, passed := 0, upc := entry, b := List.replicate 8 (List.replicate 512 0)
    n := BitVec.ofNat 32 rows.length :: List.replicate 15 0, open_ := none, phase := .waiting, poolSince := none }

/-- Row numbers that belong to a stall. -/
def State.rowsOf (s : State) (rows : List Loc) (k : Nat) : List Nat :=
  (upTo rows.length).filter fun n => match rows[n]? with | some x => s.stallOf x == k | none => false

/-- The first row of the streams on a tier whose stall group the partition does not own (R374). -/
def State.rowUnowned (s : State) (r : Run) (rows : List (List Loc)) : Option Nat :=
  rows.zipIdx.findSome? fun p =>
    (p.1.zipIdx.find? fun q => !(s.part r.part).stalls.getLsbD (s.stallOf q.1 / Config.stallsPerTier)).map fun q =>
      (r.desc.bases.getD p.2 0 + 2048 * q.2) % 2 ^ 64

/-- Pin and recall (R374): in reproducible mode chunks that have read the rows commit first (R357). DEDUCED: log 36. -/
def State.pinRun (s : State) (r : Run) : State :=
  if s.runBefore r || s.rowWalks r.ctx r.desc || (match r.op.bind s.op? with | some o => s.behind o | none => false) then s
  else match s.runRows r.ctx r.desc with
    | .error c => s.runOpFault r c ((s.runBad r.ctx r.desc).getD 0) 0
    | .ok rows =>
      let rs := rowRanges rows
      let ks := s.runStalls rows
      match s.rowUnowned r rows with
      | some va => s.runOpFault r .ownership va 0
      | none =>
        let s := s.recall (r.op.isNone && !Config.grantLate s.steps) rs
        if rs.any fun x => !(s.recallHolders x).isEmpty then s
        else
          let stalls := ks.map fun k => StallRun.fresh k (s.rowsOf (rows.headD []) k) r.desc.entry
          let s := (upTo r.desc.streams).foldl (fun s k => s.fillPath r.ctx (r.desc.bases.getD k 0) (2048 * r.desc.rows)) s
          let s := (s.cleanRanges rs).mapRun r.num fun x => { x with pinned := true, locs := rows, stalls := stalls }
          match r.op with | some n => s.mapOp n fun o => { o with sources := rs } | none => s

def State.mapStall (s : State) (r k : Nat) (f : StallRun → StallRun) : State :=
  s.mapRun r fun x => { x with stalls := x.stalls.map fun y => if y.stall = k then f y else y }

/-- The launch that a run belongs to is live and has no fault. -/
def State.runLive (s : State) (r : Run) : Bool :=
  match s.launch? r.launch with | some l => l.live && l.fault.isNone | none => false

/-- STALL_RUN_START (R374): the first start pins the run; a stall serves its runs in release order. -/
def execStallRunStart (run stall : Nat) (s : State) : Host.Outcome State Fault Refusal :=
  let s := match s.run? run with
    | some r => if !r.pinned && s.runLive r then s.pinRun r else s
    | none => s
  .next (match s.run? run with
    | none => s
    | some r => match r.stall? stall with
      | none => s
      | some x =>
        if x.phase != .waiting || !s.runLive r || s.lost.contains (.stall stall) then s
        else if s.runs.any fun y => decide (y.num < run) && (s.stallsOf y).contains stall
            && (match y.stall? stall with | some z => z.phase != .done | none => true) then s
        else s.mapStall run stall fun y => { y with phase := .running })

/-- STALL_RESUME (R377). -/
def execStallResume (run stall : Nat) (s : State) : Host.Outcome State Fault Refusal :=
  .next (match (s.run? run).bind fun r => r.stall? stall with
    | none => s
    | some x => if x.phase == .suspended then s.mapStall run stall fun y => { y with phase := .running } else s)

/-! ### Microinstructions -/

/-- What a microinstruction does to its stall: the stall, flags raised, and NF. -/
abbrev NbEff := StallRun → StallRun × Fl × Bool

/-- The run and stall that the machine runs, none where no stall is in focus or it is not running. -/
def State.focused (s : State) : Option (Run × StallRun) :=
  match s.focus with
  | none => none
  | some (n, k) => match s.run? n with
    | none => none
    | some r => match r.stall? k with
      | some x => if x.phase == .running then some (r, x) else none
      | none => none

/-- A microinstruction over the stall in focus, with the machine. -/
def nbOp (f : State → Run → StallRun → State) (s : State) : Host.Outcome State Fault Refusal :=
  match s.focused with
  | none => .fault .noIssuer
  | some (r, x) => .next (f { s with focus := none } r x)

/-- UPC advances by one (R369). -/
def StallRun.step (x : StallRun) : StallRun := { x with upc := (x.upc + 1) % 256 }

/-- A microinstruction that changes only its stall and the run's flags. -/
def nbPlain (f : NbEff) (s : State) : Host.Outcome State Fault Refusal :=
  nbOp (fun s r x =>
    let (y, fl, nf) := f x
    (s.mapStall r.num x.stall fun _ => y).mapRun r.num fun z => { z with flags := z.flags ||| fl, nf := z.nf || nf }) s

def StallRun.acc (x : StallRun) (k : Nat) : List Word := x.b.getD k []
def StallRun.sc (x : StallRun) (k : Nat) : Word := x.n.getD k 0
def StallRun.setSc (x : StallRun) (k : Nat) (v : Word) : StallRun := { x with n := x.n.set k v }

/-- An element-wise operation on the 512 elements (R367). -/
def nbElems (bd : Nat) (f : StallRun → Nat → Nat × Fl) (s : State) : Host.Outcome State Fault Refusal :=
  nbPlain (fun x =>
    let r := (upTo 512).map (f x)
    ({ x with b := x.b.set bd (r.map fun (p : Nat × Fl) => BitVec.ofNat 32 p.1) }.step, flAll (r.map (·.2)), false)) s

def StallRun.elem (x : StallRun) (k i : Nat) : Nat := ((x.acc k).getD i 0).toNat

/-- NNOP (R369). -/
def execNnop (s : State) : Host.Outcome State Fault Refusal := nbPlain (fun x => (x.step, 0, false)) s

/-- The row at the cursor. -/
def StallRun.row (x : StallRun) : Option Nat := x.rows[x.passed]?

/-- Address of a row of a stream. -/
def Run.rowVa (r : Run) (st row : Nat) : Nat := (r.desc.bases.getD st 0 + 2048 * row) % 2 ^ 64

/-- The versioned region of a row, and the row's number in it (R381). -/
def State.rowRegion (s : State) (r : Run) (st row : Nat) : Option (Nat × Region × Nat) :=
  (s.versRegion r.ctx (r.rowVa st row)).map fun p => (p.1, p.2, (r.rowVa st row % 2 ^ 57 - p.2.base) / 2048)

/-- The row lies in a versioned region with an open step. -/
def State.stepOver (s : State) (r : Run) (st row : Nat) : Bool :=
  match s.rowRegion r st row with
  | some (_, v, _) => v.open_
  | none => false

/-- NOPEN and NOPENS (R369, R375, R380): a block that is not yet dispatchable holds the stall. -/
def nbOpen (st : Nat) (shadow : Bool) (s : State) : Host.Outcome State Fault Refusal :=
  nbOp (fun s r x =>
    match x.row with
    | none => s.runFault r .nbProgram ((x.rows.getLast?.getD 0) / 32)
    | some row =>
      if r.desc.streams ≤ st || (shadow && !s.stepOver r st row) then s.runFault r .nbProgram (row / 32)
      else if !s.blockReady r row then s
      else s.mapStall r.num x.stall fun y => { y with open_ := some { stream := st, shadow := shadow, written := none } }.step) s

/-- NOPEN (R369). -/
def execNopen (st : Fin 4) (s : State) : Host.Outcome State Fault Refusal := nbOpen st.val false s

/-- NOPENS (R369, R381). -/
def execNopens (st : Fin 4) (s : State) : Host.Outcome State Fault Refusal := nbOpen st.val true s

/-- Location of the open row: the pinned row, or its shadow version (R381). -/
def State.openLoc (s : State) (r : Run) (x : StallRun) (o : OpenRow) : Option Loc :=
  match x.row with
  | none => none
  | some k => match (r.locs.getD o.stream [])[k]? with
    | none => none
    | some loc =>
      if !o.shadow then some loc
      else match s.rowRegion r o.stream k with
        | some (_, v, _) => some { loc with addr := if v.cur then loc.addr - v.voff else loc.addr + v.voff }
        | none => none

/-- Where the open row is read: a shadow row that the step has not written reads as the row of version CUR (R388). -/
def State.readLoc (s : State) (r : Run) (x : StallRun) (o : OpenRow) : Option Loc :=
  match x.row.bind fun k => s.rowRegion r o.stream k with
  | some (_, v, n) => s.openLoc r x { o with shadow := o.shadow && v.written.contains n }
  | none => s.openLoc r x o

/-- The words of a row. -/
def State.rowWords (s : State) (x : Loc) : List Word :=
  (upTo 512).map fun i => BitVec.ofNat 32 (leNat (s.bytesAt (x.plus (4 * i)) 4))

/-- NRD: the open row's present contents, with a host's data taken first (R187); poisoned data ends the run (R369, R375). -/
def execNrd (bd : Fin 8) (s : State) : Host.Outcome State Fault Refusal :=
  nbOp (fun s r x =>
    match x.open_ with
    | none => s.mapStall r.num x.stall StallRun.step
    | some o => match o.written, s.readLoc r x o with
      | some ws, _ => s.mapStall r.num x.stall fun y => { y with b := y.b.set bd.val ws }.step
      | none, none => s.mapStall r.num x.stall StallRun.step
      | none, some loc =>
        if (upTo 32).any fun k => s.hostOwns (loc.plus (64 * k)) then s
        else if (upTo 32).any fun k => s.isPoisoned (loc.plus (64 * k)) then
          s.runOpFault r .poison ((r.desc.bases.getD o.stream 0) + 2048 * x.row.getD 0) (x.row.getD 0 / 32)
        else s.mapStall r.num x.stall fun y => { y with b := y.b.set bd.val (s.rowWords loc) }.step) s

/-- NWR (R369, R375). -/
def execNwr (ba : Fin 8) (s : State) : Host.Outcome State Fault Refusal :=
  nbOp (fun s r x =>
    match x.open_ with
    | none => s.mapStall r.num x.stall StallRun.step
    | some o =>
      if !r.desc.wmask.testBit o.stream || (!o.shadow && s.stepOver r o.stream (x.row.getD 0)) then
        s.runFault r .nbProgram (x.row.getD 0 / 32)
      else s.mapStall r.num x.stall fun y => { y with open_ := some { o with written := some (y.acc ba.val) } }.step) s

/-- A committed shadow row sets its written bit (R382). -/
def State.markRow (s : State) (r : Run) (o : OpenRow) (row : Nat) : State :=
  if !o.shadow then s
  else match s.rowRegion r o.stream row with
    | none => s
    | some (n, _, k) => s.mapRegion r.part n fun y => { y with written := insertNew k y.written }

/-- The commit of a written row: one singleton; it waits for backing with the row open (R217, R376). -/
def State.commitRow (s : State) (r : Run) (x : StallRun) (o : OpenRow) (loc : Loc) (ws : List Word) : State :=
  let locs := (upTo 2048).map loc.plus
  let bs := ws.flatMap fun w => leBytes 4 w.toNat
  if locs.any s.hostOwns || s.sourceHeld r.op locs then s
  else match s.singleton (locs.zip bs) with
    | .held => s
    | .noPool =>
      if x.poolSince.isSome then s
      else (s.mapStall r.num x.stall fun y => { y with poolSince := some s.cycle }).notifyPart r.part 1 (ctxId r.ctx) 0 0
    | .done t =>
      let t := { t with halves := t.halves.filter fun h => !locs.any fun y => y.half = h.1 }
      (t.markRow r o (x.row.getD 0)).mapStall r.num x.stall fun y => { y with open_ := none, poolSince := none }.step

/-- NCLOSE (R376). A written row of version CUR whose region has opened a step since ends the run, as its NWR then would
(R375, R387). DESIGN CHOICE: log 56. -/
def execNclose (s : State) : Host.Outcome State Fault Refusal :=
  nbOp (fun s r x =>
    match x.open_ with
    | none => s.mapStall r.num x.stall StallRun.step
    | some o => match o.written, s.openLoc r x o with
      | some ws, some loc =>
        if !o.shadow && s.stepOver r o.stream (x.row.getD 0) then s.runFault r .nbProgram (x.row.getD 0 / 32)
        else s.commitRow r x o loc ws
      | _, _ => s.mapStall r.num x.stall fun y => { y with open_ := none }.step) s

/-- NADD (R369). -/
def execNadd (bd ba bb : Fin 8) (s : State) : Host.Outcome State Fault Refusal :=
  nbElems bd.val (fun x i => fadd fmtF32 .rne false (x.elem ba.val i) (x.elem bb.val i)) s

/-- NSUB (R369). -/
def execNsub (bd ba bb : Fin 8) (s : State) : Host.Outcome State Fault Refusal :=
  nbElems bd.val (fun x i => fsub fmtF32 .rne false (x.elem ba.val i) (x.elem bb.val i)) s

/-- NMUL (R369). -/
def execNmul (bd ba bb : Fin 8) (s : State) : Host.Outcome State Fault Refusal :=
  nbElems bd.val (fun x i => fmul fmtF32 .rne false (x.elem ba.val i) (x.elem bb.val i)) s

/-- NFMA (R369). -/
def execNfma (bd ba bb : Fin 8) (s : State) : Host.Outcome State Fault Refusal :=
  nbElems bd.val (fun x i => ffma fmtF32 .rne false (x.elem ba.val i) (x.elem bb.val i) (x.elem bd.val i)) s

/-- NAXPY (R369). -/
def execNaxpy (bd ba : Fin 8) (ns : Fin 16) (s : State) : Host.Outcome State Fault Refusal :=
  nbElems bd.val (fun x i => ffma fmtF32 .rne false (x.sc ns.val).toNat (x.elem ba.val i) (x.elem bd.val i)) s

/-- NSCALE (R369). -/
def execNscale (bd ba : Fin 8) (ns : Fin 16) (s : State) : Host.Outcome State Fault Refusal :=
  nbElems bd.val (fun x i => fmul fmtF32 .rne false (x.elem ba.val i) (x.sc ns.val).toNat) s

/-- NMAX (R130, R369). -/
def execNmax (bd ba bb : Fin 8) (s : State) : Host.Outcome State Fault Refusal :=
  nbElems bd.val (fun x i => fminmax fmtF32 true (x.elem ba.val i) (x.elem bb.val i)) s

/-- NMIN (R130, R369). -/
def execNmin (bd ba bb : Fin 8) (s : State) : Host.Outcome State Fault Refusal :=
  nbElems bd.val (fun x i => fminmax fmtF32 false (x.elem ba.val i) (x.elem bb.val i)) s

/-- NRSQ (R132, R367, R369). -/
def execNrsq (bd ba : Fin 8) (s : State) : Host.Outcome State Fault Refusal :=
  nbElems bd.val (fun x i => fnElem fmtF32 .rsq false .rne false (x.elem ba.val i)) s

/-- NCHK (R369). -/
def execNchk (ba : Fin 8) (s : State) : Host.Outcome State Fault Refusal :=
  nbPlain (fun x => (x.step, 0, (upTo 512).any fun i =>
    let v := unpack fmtF32 (x.elem ba.val i)
    v.isNan || v.isInf)) s

/-- NMOVB (R369). -/
def execNmovb (bd ba : Fin 8) (s : State) : Host.Outcome State Fault Refusal :=
  nbElems bd.val (fun x i => (x.elem ba.val i, 0)) s

/-- NSET (R369). -/
def execNset (nd : Fin 16) (imm : BitVec 16) (s : State) : Host.Outcome State Fault Refusal :=
  nbPlain (fun x => ((x.setSc nd.val (imm.setWidth 32)).step, 0, false)) s

/-- NSETH (R369). -/
def execNseth (nd : Fin 16) (imm : BitVec 16) (s : State) : Host.Outcome State Fault Refusal :=
  nbPlain (fun x =>
    ((x.setSc nd.val (BitVec.ofNat 32 (imm.toNat * 2 ^ 16 + (x.sc nd.val).toNat % 2 ^ 16))).step, 0, false)) s

/-- NADDI (R369). -/
def execNaddi (nd : Fin 16) (imm : BitVec 16) (s : State) : Host.Outcome State Fault Refusal :=
  nbPlain (fun x => ((x.setSc nd.val (x.sc nd.val + imm.signExtend 32)).step, 0, false)) s

/-- NLDS (R369, R372). A word that NBLOAD has accepted names one of the sixteen arguments (R371). -/
def execNlds (nd : Fin 16) (k : BitVec 16) (s : State) : Host.Outcome State Fault Refusal :=
  nbOp (fun s r x => s.mapStall r.num x.stall fun y =>
    (y.setSc nd.val (if k.toNat < 16 then r.desc.args.getD k.toNat 0 else Config.nbScalar k.toNat)).step) s

/-- NLOOP (R369). -/
def execNloop (nd : Fin 16) (tgt : BitVec 8) (s : State) : Host.Outcome State Fault Refusal :=
  nbPlain (fun x =>
    let v := x.sc nd.val - 1
    let y := x.setSc nd.val v
    (if v ≠ 0 then { y with upc := tgt.toNat } else y.step, 0, false)) s

/-- NBRA (R369). -/
def execNbra (tgt : BitVec 8) (s : State) : Host.Outcome State Fault Refusal :=
  nbPlain (fun x => ({ x with upc := tgt.toNat }, 0, false)) s

/-- NBRZ (R369). -/
def execNbrz (nd : Fin 16) (tgt : BitVec 8) (s : State) : Host.Outcome State Fault Refusal :=
  nbPlain (fun x => (if x.sc nd.val = 0 then { x with upc := tgt.toNat } else x.step, 0, false)) s

/-! ### Row boundaries and the end -/

/-- A block of a near-bank launch whose rows are all behind their stalls' cursors. -/
def Run.blockDone (r : Run) (g : Nat) : Bool :=
  r.stalls.all fun x => (x.rows.drop x.passed).all fun k => k / 32 ≠ g

/-- The bits of finished blocks (R380). -/
def State.markBlocks (s : State) (n : Nat) : State :=
  match s.run? n with
  | none => s
  | some r =>
    if r.op.isSome then s
    else s.mapLaunch r.launch fun l =>
      { l with bitmap := (upTo l.fields.groups).foldl (fun b g => if r.blockDone g && !b.testBit g then b + 2 ^ g else b) l.bitmap }

/-- NPOINT: the cursor advances, and the stall suspends where ordinary requests wait (R369, R377). -/
def execNpoint (s : State) : Host.Outcome State Fault Refusal :=
  nbOp (fun s r x =>
    (s.mapStall r.num x.stall fun y =>
      { y with passed := min (y.passed + 1) y.rows.length
               phase := if Config.channelBusy s.steps then .suspended else .running }.step).markBlocks r.num) s

/-- The word at RESULT (R372). -/
def Run.result (r : Run) : List Byte := leBytes 4 ((if r.nf then 1 else 0) + 2 * r.flags.toNat)

def Run.finished (r : Run) : Bool := r.pinned && r.stalls.all fun x => x.phase == .done

/-- The end of a run that an NBRUN released: RESULT and the handle together (R374), once no earlier operation still reads the bytes
(R183) and no host owns them (R187). -/
def State.publishRun (s : State) (r : Run) (o : Op) : State :=
  if !r.finished || !s.due o then s
  else match s.lookRange r.ctx ((r.desc.at_ + 0x38) % 2 ^ 64) 4 .write with
    | .error c => s.runOpFault r c (r.desc.at_ + 0x38) 0
    | .ok l =>
      let locs := rangeLocs l
      if s.pathOwned r.ctx ((r.desc.at_ + 0x38) % 2 ^ 64) 4 || locs.any s.hostOwns || s.sourceHeld (some o.num) locs then s
      else match s.singleton (locs.zip r.result) with
        | .done t =>
          { ((t.ownWrites locs).fillPath r.ctx ((r.desc.at_ + 0x38) % 2 ^ 64) 4).endOp o .done r.flags with runs := t.runs.filter fun x => x.num ≠ r.num }
        | _ => s

/-- Finished runs that may publish do so. -/
def State.publishRuns (s : State) : State :=
  s.runs.foldl (fun s r => match r.op.bind s.op? with | some o => s.publishRun r o | none => s) s

/-- NDONE: the stall's part ends, and the last one ends the run (R374). -/
def execNdone (s : State) : Host.Outcome State Fault Refusal :=
  nbOp (fun s r x =>
    ((s.mapStall r.num x.stall fun y => { y with passed := y.rows.length, phase := .done }).markBlocks r.num).publishRuns) s

end Sys2Proof.Machine
end

