-- ==== Sys2Proof/Machine/Coll.lean ====
section
/-! DEFINITION. Collectives: the fold of the members' values and the publish in this package, and the failure of a collective
(R384, R385). Other packages' members are free values (log 1). -/

namespace Sys2Proof.Machine

/-- Packages of a collective in ascending order. -/
def CollOp.members (c : CollOp) : List Nat := (upTo 64).filter fun p => c.peers.getLsbD p

/-- Element `i` of a member: this package's source as of the issue point, or what the peer contributes. -/
def collElem (o : Op) (pkg p i : Nat) : Nat :=
  if p = pkg then leNat ((upTo 4).map fun k => o.data.getD (4 * i + k) 0)
  else (Config.peerMember (64 * o.num + p) i).toNat % 2 ^ 32

/-- A member's NF: its FLAGIN, or an infinite or NaN element (R384). -/
def collNf (c : CollOp) (o : Op) (pkg p : Nat) : Bool :=
  (if p = pkg then c.flagIn else (Config.peerMember (64 * o.num + p) c.count).getLsbD 0)
    || (!c.isInt && (upTo c.count).any fun i => let v := unpack fmtF32 (collElem o pkg p i); v.isNan || v.isInf)

/-- One step of the fold. -/
def collStep (c : CollOp) (x y : Nat) : Nat × Fl :=
  if c.isInt then
    (match c.op with
      | 0 => (x + y) % 2 ^ 32
      | 1 => if signed 32 y < signed 32 x then y else x
      | _ => if signed 32 x < signed 32 y then y else x, 0)
  else match c.op with
    | 0 => fadd fmtF32 .rne false x y
    | n => fminmax fmtF32 (n == 2) x y

/-- The fold of one element over the members in ascending package number. DESIGN CHOICE: log 42. -/
def collFold (c : CollOp) (o : Op) (pkg i : Nat) : Nat × Fl :=
  match c.members with
  | [] => (0, 0)
  | m :: ms => ms.foldl (fun a p => let r := collStep c a.1 (collElem o pkg p i); (r.1, a.2 ||| r.2)) (collElem o pkg m i, 0)

/-- RESULT's eight bytes. -/
def collResult (nf failed : Bool) (fl : Fl) : List Byte :=
  leBytes 8 ((if nf then 1 else 0) + (if failed then 2 else 0) + 4 * fl.toNat)

/-- A peer of the collective is lost (R360, R385). -/
def State.peerLost (s : State) (c : CollOp) : Bool := c.members.any fun p => s.lost.contains (.peer p)

/-- Every port that leads to a member is stopped for collective data, which any member may relay (R396, R397). -/
def State.collStopped (s : State) (c : CollOp) : Bool :=
  let ports := (c.members.filter fun p => p != s.pkg).flatMap s.peerPorts
  !ports.isEmpty && ports.all fun p => s.xoff.contains (p, 2)

/-- The publish of some bytes and the end of the collective; it waits for what the host owns of the page table on the way to
them, and of the bytes themselves (R187). -/
def State.endColl (s : State) (o : Op) (c : CollOp) (bytes res : List Byte) (st : HState) (fl : Fl) : State :=
  match s.launch? o.launch with
  | none => s
  | some l =>
    if s.pathOwned l.ctx c.dst bytes.length || s.pathOwned l.ctx c.result 8 then s
    else match s.lookRange l.ctx c.dst bytes.length .write, s.lookRange l.ctx c.result 8 .write with
    | .error e, _ => s.opFault o e c.dst
    | _, .error e => s.opFault o e c.result
    | .ok d, .ok r =>
      let ws := (rangeLocs d).zip bytes ++ (rangeLocs r).zip res
      if (ws.map (·.1)).any s.hostOwns || s.behind o || s.sourceHeld (some o.num) (ws.map (·.1)) then s
      else match s.singleton ws with
        | .held => s
        | .noPool => s.opPoolWait o
        | .done t => (((t.ownWrites (ws.map (·.1))).fillPath l.ctx c.dst bytes.length).fillPath l.ctx c.result 8).endOp o st fl

/-- COLLECTIVE_PUBLISH (R384). -/
def execCollectivePublish (n : Nat) (s : State) : Host.Outcome State Fault Refusal :=
  .next (match s.op? n with
    | none => s
    | some o => match o.kind with
      | .coll c =>
        if o.stop.isSome || !s.due o || !s.running o.launch || !s.publishTurn o || s.peerLost c || s.collStopped c then s
        else if o.data.length ≠ 4 * c.count then
          s.opFault o (match s.launch? o.launch with
            | some l => (match s.lookRange l.ctx c.src (4 * c.count) .read with | .error e => e | .ok _ => .address)
            | none => .address) c.src
        else if (rangeLocs o.sources).any s.isPoisoned then s.opFault o .poison c.src
        else
          let r := (upTo c.count).map (collFold c o s.pkg)
          let fl := flAll (r.map (·.2))
          s.endColl o c (r.flatMap fun p => leBytes 4 p.1) (collResult (c.members.any (collNf c o s.pkg)) false fl) .done fl
      | _ => s)

/-- COLLECTIVE_FAIL (R385): members disagree, or a member's package or launch is gone. -/
def execCollectiveFail (n : Nat) (s : State) : Host.Outcome State Fault Refusal :=
  .next (match s.op? n with
    | none => s
    | some o => match o.kind with
      | .coll c =>
        if o.stop.isSome || !s.due o || !s.running o.launch || !s.publishTurn o || c.members.all (fun p => p == s.pkg) then s
        else s.endColl o c [] (collResult true true 0) .failed 0
      | _ => s)

end Sys2Proof.Machine
end

