-- ==== Sys2Proof/Machine/Convert.lean ====
section
/-! DEFINITION. Class M: conversions and rearrangements (R134 to R137). -/

namespace Sys2Proof.Machine

/-- Element `k` of an operand value. -/
def elemAt (t : Ty) (x k : Nat) : Nat := bits x (k * t.bits) t.bits

/-- An operand value with element `k` replaced. -/
def withElem (t : Ty) (x k e : Nat) : Nat :=
  x - elemAt t x k * 2 ^ (k * t.bits) + e % 2 ^ t.bits * 2 ^ (k * t.bits)

/-- Conversion of one element (R134). -/
def cvtElem (dst src : Ty) (rm : Rm) (sat : Bool) (x : Nat) : Nat × Fl :=
  if src.isFloat then
    if dst.isFloat then froundV (fmtOf dst) rm sat (unpack (fmtOf src) x)
    else cvtFI dst.bits dst.isSigned rm sat (unpack (fmtOf src) x)
  else if dst.isFloat then cvtIF (fmtOf dst) rm sat (intElem src x)
  else (intResult dst sat (intElem src x), 0)

/-- CVT: other sub-elements of a packed destination are kept, so it is also read (R134). -/
def execCvt (a : CvtArgs) (s : State) : Host.Outcome State Fault Refusal :=
  let sk := if a.src.count = 1 then 0 else a.k.val
  let packed := a.dst.count != 1
  laneOp { g := a.g, srcs := (a.a, a.src.regs) :: (if packed then [(a.d, 1)] else []) } a.d a.dst.regs
    (fun i l =>
      let r := cvtElem a.dst a.src a.rm a.sat (elemAt a.src (i.val a.a l a.src.regs) sk)
      if packed then (withElem a.dst (i.val a.d l 1) a.k.val r.1, r.2) else r) s

/-- FRND (R135). -/
def execFrnd (a : LaneArgs) (s : State) : Host.Outcome State Fault Refusal :=
  laneElems a 0 0 (fun x _ _ => frndElem (fmtOf a.m.ty) a.m.rm x) s

/-- PACK: two halves, or one byte of the destination (R136). -/
def execPack (a : LaneArgs) (s : State) : Host.Outcome State Fault Refusal :=
  if a.m.ty.bits = 16 then laneVal a 1 1 1 0 (fun x y _ => y % 65536 * 65536 + x % 65536) s
  else
    laneOp { g := a.g, srcs := [(a.a, 1), (a.d, 1)] } a.d 1
      (fun i l => (withElem a.m.ty (i.val a.d l 1) a.m.sub.val (i.val a.a l 1), 0)) s

/-- UNPK: sign-extended for the signed integer types (R136). -/
def execUnpk (a : LaneArgs) (s : State) : Host.Outcome State Fault Refusal :=
  laneVal a 1 1 0 0 (fun x _ _ => wrapInt 32 (intElem a.m.ty (elemAt a.m.ty x a.m.sub.val))) s

/-- The eight registers of a lane as one value. -/
def Arch.eight (x : Arch) (r : Reg) (l : Nat) : Nat := x.val r l 8

/-- RGTR's result in lane `l`: element j is old[j][i] (R137). -/
def rgtrVal (x : Arch) (r : Reg) (w : Nat) (l : Nat) : Nat :=
  let n := 256 / w
  let first := l / n * n
  (upTo n).foldl (fun acc j => acc + bits (x.eight r (first + j)) ((l - first) * w) w * 2 ^ (j * w)) 0

/-- A v register holds poison in a lane (R351). -/
def Iss.regPoisoned (i : Iss) (r : Reg) (w l : Nat) : Bool :=
  i.w.arch.poison.any fun p => (regItems r w).contains p.1 && (p.2 == 32 || p.2 == l)

/-- RGTR reads every lane of each group of lanes (R137, R141). -/
def execRgtr (a : LaneArgs) (s : State) : Host.Outcome State Fault Refusal :=
  let w := a.m.ty.bits
  let n := 256 / w
  issue { g := a.g, srcs := [], dsts := [(a.d, 8)] }
    (fun i =>
      match i.activeLanes.find? fun l => (upTo n).any fun j => i.regPoisoned a.d 8 (l / n * n + j) with
      | some l => i.fault .poison l 0
      | none => .ok (i.write a.d 8 (rgtrVal i.w.arch a.d w))) s

end Sys2Proof.Machine
end

