-- ==== Sys2Proof/Machine/CrossLane.lean ====
section
/-! DEFINITION. Class X: instructions over the lanes of the issue (R141 to R145). They abort a transaction (R230). -/

namespace Sys2Proof.Machine

/-- The lane that XLANE reads, if it is one of 0 to 31 (R142). -/
def xlaneSource (mode l b : Nat) : Option Nat :=
  match mode with
  | 0 => some (b % 32)
  | 1 => let x : Int := l + signed 6 b; if 0 ≤ x ∧ x ≤ 31 then some x.toNat else none
  | 2 => some ((l + b % 32) % 32)
  | _ => some (l ^^^ (b % 32))

/-- An instruction whose result in a lane is register `r` of another lane. -/
def fromLane (k : Kind) (d r : Reg) (w : Nat) (src : Iss → Nat → Nat) (s : State) : Host.Outcome State Fault Refusal :=
  issue { k with dsts := [(d, w)], others := [(r, w)], forbidden := true }
    (fun i =>
      match i.activeLanes.find? fun l => i.regPoisoned r w (src i l) with
      | some l => i.fault .poison l 0
      | none => .ok (i.write d w fun l => i.val r (src i l) w)) s

/-- XLANE (R142). -/
def execXlane (a : LaneArgs) (s : State) : Host.Outcome State Fault Refusal :=
  let w := a.m.ty.regs
  fromLane { g := a.g, srcs := [(a.b, 1)] } a.d a.a w
    (fun i l => (xlaneSource a.m.sub.val l (i.val a.b l 1)).getD l) s

/-- RDLANE (R145). -/
def execRdlane (a : LaneArgs) (s : State) : Host.Outcome State Fault Refusal :=
  let w := a.m.ty.regs
  fromLane { g := a.g, srcs := [(a.b, 1)] } a.d a.a w (fun i l => i.val a.b l 1 % 32) s

/-- The active lanes in which a predicate source is true. -/
def Iss.votes (i : Iss) (p : PSrc) : LaneMask := i.active &&& maskOf fun l => i.w.arch.psrc p l

/-- POLL's predicate modes (R143). -/
def pollPred (mode : Nat) (active votes : LaneMask) : Bool :=
  match mode with
  | 0 => votes == active
  | 1 => votes != 0
  | _ => votes == active || votes == 0

/-- POLL (R143). -/
def execPoll (a : PollArgs) (s : State) : Host.Outcome State Fault Refusal :=
  let k : Kind := { g := a.g, preds := [a.pa], forbidden := true }
  if a.mode.val ≤ 2 then
    issue k (fun i => .ok (i.writePred a.d.num fun _ => pollPred a.mode.val i.active (i.votes a.pa))) s
  else
    issue { k with dsts := [(a.d, 1)] }
      (fun i => .ok (i.write a.d 1 fun _ =>
        if a.mode.val = 3 then (i.votes a.pa).toNat else bitCount 32 (i.votes a.pa).toNat)) s

/-- The node of R105 and R144. -/
def redNode (op : Nat) (t : Ty) (rm : Rm) (x y : Nat) : Nat × Fl :=
  match op with
  | 0 => if t.isFloat then fadd (fmtOf t) rm false x y else ((x + y) % 2 ^ t.bits, 0)
  | 1 => if t.isFloat then fminmax (fmtOf t) false x y else (if intElem t x ≤ intElem t y then x else y, 0)
  | 2 => if t.isFloat then fminmax (fmtOf t) true x y else (if intElem t x ≤ intElem t y then y else x, 0)
  | 3 => (x &&& y, 0)
  | 4 => (x ||| y, 0)
  | _ => (x ^^^ y, 0)

/-- One level of the tree: neighbours in pairs, an odd last one kept. -/
def treeLevel (f : Nat → Nat → Nat × Fl) : List Nat → List Nat × Fl
  | x :: y :: r => let (z, c) := f x y; let (zs, d) := treeLevel f r; (z :: zs, c ||| d)
  | l => (l, 0)

/-- The fixed tree of R105; five levels reduce 32 values. One value alone meets no node and stands as it is, a NaN too.
DESIGN CHOICE: log 65. -/
def treeReduce (f : Nat → Nat → Nat × Fl) : Nat → List Nat → Fl → Nat × Fl
  | 0, l, fl => (l.headD 0, fl)
  | n + 1, l, fl => let (l', g) := treeLevel f l; treeReduce f n l' (fl ||| g)

/-- The folds of a scan, one for each value, and their flags; the first value meets no fold and stands as it is, a NaN
too. DESIGN CHOICE: log 65. -/
def scanFold (f : Nat → Nat → Nat × Fl) (acc : Option Nat) (fl : Fl) : List Nat → List Nat × Fl
  | [] => ([], fl)
  | x :: r =>
    let (y, g) := match acc with | none => (x, 0) | some a => f a x
    let (ys, h) := scanFold f (some y) (fl ||| g) r
    (y :: ys, h)

/-- WRED (R144). -/
def execWred (a : LaneArgs) (s : State) : Host.Outcome State Fault Refusal :=
  let w := a.m.ty.regs
  issue { g := a.g, srcs := [(a.a, w)], dsts := [(a.d, w)], forbidden := true }
    (fun i =>
      let r := treeReduce (redNode a.m.sub.val a.m.ty a.m.rm) 5 (i.activeLanes.map fun l => i.val a.a l w) 0
      .ok ((i.write a.d w fun _ => r.1).raise r.2)) s

/-- WSCAN (R144). -/
def execWscan (a : LaneArgs) (s : State) : Host.Outcome State Fault Refusal :=
  let w := a.m.ty.regs
  issue { g := a.g, srcs := [(a.a, w)], dsts := [(a.d, w)], forbidden := true }
    (fun i =>
      let r := scanFold (redNode a.m.sub.val a.m.ty a.m.rm) none 0 (i.activeLanes.map fun l => i.val a.a l w)
      .ok ((i.write a.d w fun l => r.1.getD (i.activeLanes.idxOf l) 0).raise r.2)) s

/-- EQM (R145). -/
def execEqm (a : LaneArgs) (s : State) : Host.Outcome State Fault Refusal :=
  let w := a.m.ty.regs
  issue { g := a.g, srcs := [(a.a, w)], dsts := [(a.d, 1)], forbidden := true }
    (fun i => .ok (i.write a.d 1 fun l =>
      (i.active &&& maskOf fun m => i.val a.a m w == i.val a.a l w).toNat)) s

end Sys2Proof.Machine
end

