-- ==== Sys2Proof/Machine/FloatOps.lean ====
section
/-! DEFINITION. Class F: floating-point instructions, flags and expressions (R128 to R133, R138 to R140). -/

namespace Sys2Proof.Machine

/-- Approximate variants are off in exact mode (R109). -/
def Iss.exact (i : Iss) : Bool := match i.s.context? i.ctx with | some c => c.exact | none => false

/-! ### Arithmetic -/

/-- FADD (R128). -/
def execFadd (a : LaneArgs) (s : State) : Host.Outcome State Fault Refusal :=
  laneElems a a.m.ty.regs 0 (fun x y _ => fadd (fmtOf a.m.ty) a.m.rm a.m.sat x y) s

/-- FSUB (R128). -/
def execFsub (a : LaneArgs) (s : State) : Host.Outcome State Fault Refusal :=
  laneElems a a.m.ty.regs 0 (fun x y _ => fsub (fmtOf a.m.ty) a.m.rm a.m.sat x y) s

/-- FMUL (R128). -/
def execFmul (a : LaneArgs) (s : State) : Host.Outcome State Fault Refusal :=
  laneElems a a.m.ty.regs 0 (fun x y _ => fmul (fmtOf a.m.ty) a.m.rm a.m.sat x y) s

/-- FFMA: one rounding (R128). -/
def execFfma (a : LaneArgs) (s : State) : Host.Outcome State Fault Refusal :=
  laneElems a a.m.ty.regs a.m.ty.regs (fun x y z => ffma (fmtOf a.m.ty) a.m.rm a.m.sat x y z) s

/-- FMIN (R130). -/
def execFmin (a : LaneArgs) (s : State) : Host.Outcome State Fault Refusal :=
  laneElems a a.m.ty.regs 0 (fun x y _ => fminmax (fmtOf a.m.ty) false x y) s

/-- FMAX (R130). -/
def execFmax (a : LaneArgs) (s : State) : Host.Outcome State Fault Refusal :=
  laneElems a a.m.ty.regs 0 (fun x y _ => fminmax (fmtOf a.m.ty) true x y) s

/-- FSETP (R53, R128). -/
def execFsetp (a : SetpArgs) (s : State) : Host.Outcome State Fault Refusal :=
  let t := a.m.ty
  let w := t.regs
  predOp { g := a.g, srcs := [(a.a, w), (a.b, w)], preds := [a.pc] } a.pd.val
    (fun i l =>
      let x := unpack (fmtOf t) (modElem t a.m.aa a.m.na (i.val a.a l w))
      let y := unpack (fmtOf t) (modElem t a.m.ab a.m.nb (i.val a.b l w))
      let r := fcond a.m.sub.val x y
      (r.1 && i.w.arch.psrc a.pc l, r.2)) s

/-- FCLASS: a class mask of each element, 16 bits apart (R131). -/
def execFclass (a : LaneArgs) (s : State) : Host.Outcome State Fault Refusal :=
  let t := a.m.ty
  laneVal a 1 t.regs 0 0 (fun x _ _ =>
    (elemsOf t x).zipIdx.foldl (fun acc p => acc + 2 ^ (fclassBit (fmtOf t) p.1 + 16 * p.2)) 0) s

/-- FDIV (R132, R107). -/
def execFdiv (a : LaneArgs) (s : State) : Host.Outcome State Fault Refusal :=
  let t := a.m.ty
  let w := t.regs
  laneOp (LaneArgs.kind a w w 0) a.d w
    (fun i l => eachElem a.m (fun x y _ => fdivElem (fmtOf t) (a.m.apx && !i.exact) a.m.rm a.m.sat x y)
      (i.val a.a l w) (i.val a.b l w) 0) s

/-- A function of one operand (R132, R107, R109). -/
def fnOp (fn : Fn) (a : LaneArgs) (s : State) : Host.Outcome State Fault Refusal :=
  let t := a.m.ty
  let w := t.regs
  laneOp (LaneArgs.kind a w 0 0) a.d w
    (fun i l => eachElem a.m (fun x _ _ => fnElem (fmtOf t) fn (a.m.apx && !i.exact) a.m.rm a.m.sat x)
      (i.val a.a l w) 0 0) s

/-- FSQRT (R132). -/
def execFsqrt (a : LaneArgs) (s : State) : Host.Outcome State Fault Refusal := fnOp .sqrt a s

/-- FRCP (R132). -/
def execFrcp (a : LaneArgs) (s : State) : Host.Outcome State Fault Refusal := fnOp .rcp a s

/-- FRSQ (R132). -/
def execFrsq (a : LaneArgs) (s : State) : Host.Outcome State Fault Refusal := fnOp .rsq a s

/-- FEX2 (R132). -/
def execFex2 (a : LaneArgs) (s : State) : Host.Outcome State Fault Refusal := fnOp .ex2 a s

/-- FLG2 (R132). -/
def execFlg2 (a : LaneArgs) (s : State) : Host.Outcome State Fault Refusal := fnOp .lg2 a s

/-- FSIN, in turns (R132). -/
def execFsin (a : LaneArgs) (s : State) : Host.Outcome State Fault Refusal := fnOp .sin a s

/-- FCOS, in turns (R132). -/
def execFcos (a : LaneArgs) (s : State) : Host.Outcome State Fault Refusal := fnOp .cos a s

/-! ### Flags -/

/-- FLAGRD (R133). -/
def execFlagrd (a : RegArgs) (s : State) : Host.Outcome State Fault Refusal :=
  laneOp { g := a.g, reads := [.flags] } a.r 1 (fun i _ => (i.w.arch.flags.toNat, 0)) s

/-- FLAGCLR: once per issue (R133). -/
def execFlagclr (a : RegArgs) (s : State) : Host.Outcome State Fault Refusal :=
  issue { g := a.g, srcs := [(a.r, 1)], once := true }
    (fun i => .ok ((i.log [.flags]).mapArch fun x => x.clearFlags (i.reg a.r i.lane))) s

/-! ### Expressions -/

/-- The type's format. -/
def ExprTy.fmt : ExprTy → Fmt
  | .f16x2 => fmtF16
  | .bf16x2 => fmtBF16
  | _ => fmtF32

/-- A value with NaNs made canonical: the exact operators of R139, which raise only the NV of R97. -/
def fselect (f : Fmt) (x : Nat) : Nat × Fl :=
  match unpack f x with
  | .nan s => (f.nan, if s then flNV else 0)
  | _ => (x, 0)

/-- Strictly positive. -/
def fpos (f : Fmt) (x : Nat) : Bool :=
  match unpack f x with
  | .nan _ => false
  | .inf n => !n
  | .fin n m _ => !n && m != 0

/-- The value 1 of a format. -/
def fone (f : Fmt) : Nat := f.bias.toNat * 2 ^ f.fb

/-- A unary function token (R139). -/
def tokenFn : Nat → Option Fn
  | 16 => some .rcp | 17 => some .rsq | 18 => some .ex2 | 19 => some .lg2 | 20 => some .tanh | 21 => some .sigm
  | 22 => some .sqrt | _ => none

/-- One floating token over the stack, top first, and the flags so far (R139). An underfull stack does not arise in a
legal expression (R140). -/
def tokenFloat (f : Fmt) (apx : Bool) (rm : Rm) (ops : List Nat) (st : List Nat × Fl) (t : Nat) : List Nat × Fl :=
  let (stack, fl) := st
  let top (r : Nat × Fl) (rest : List Nat) : List Nat × Fl := (r.1 :: rest, fl ||| r.2)
  match t, stack with
  | 4, _ => (0 :: stack, fl)
  | 5, _ => (fone f :: stack, fl)
  | 6, x :: r => (x :: x :: r, fl)
  | 7, y :: x :: r => (x :: y :: r, fl)
  | 8, y :: x :: r => top (fadd f rm false x y) r
  | 9, y :: x :: r => top (fsub f rm false x y) r
  | 10, y :: x :: r => top (fmul f rm false x y) r
  | 11, c :: b :: a :: r => top (ffma f rm false a b c) r
  | 12, y :: x :: r => top (fminmax f false x y) r
  | 13, y :: x :: r => top (fminmax f true x y) r
  | 14, x :: r => top (let v := fselect f x; if (unpack f x).isNan then v else ((x + f.signBit) % (2 * f.signBit), 0)) r
  | 15, x :: r => top (let v := fselect f x; if (unpack f x).isNan then v else (x % f.signBit, 0)) r
  | 23, c :: b :: a :: r =>
    top (let v := fselect f (if fpos f a then b else c); (v.1, v.2 ||| snanFl [unpack f a])) r
  | 24, x :: r => top (let v := fselect f x; if (unpack f x).isNan then v else (if fpos f x then x else 0, 0)) r
  | 25, x :: r =>
    top (let v := fselect f x
      if (unpack f x).isNan then v
      else (if !fpos f x then 0 else if finLt (unpack f x) (unpack f (fone f)) then x else fone f, 0)) r
  | t, x :: r =>
    match tokenFn t with
    | some fn => top (fnElem f fn apx rm false x) r
    | none => (ops.getD t 0 :: stack, fl)
  | t, [] => (ops.getD t 0 :: stack, fl)

/-- One integer token (R139). -/
def tokenInt (ops : List Nat) (stack : List Nat) (t : Nat) : List Nat :=
  let sg (x : Nat) : Int := signed 32 x
  let w (x : Int) : Nat := wrapInt 32 x
  match t, stack with
  | 4, _ => 0 :: stack
  | 5, _ => 1 :: stack
  | 6, x :: r => x :: x :: r
  | 7, y :: x :: r => x :: y :: r
  | 8, y :: x :: r => w (sg x + sg y) :: r
  | 9, y :: x :: r => w (sg x - sg y) :: r
  | 10, y :: x :: r => w (sg x * sg y) :: r
  | 11, c :: b :: a :: r => w (sg a * sg b + sg c) :: r
  | 12, y :: x :: r => w (min (sg x) (sg y)) :: r
  | 13, y :: x :: r => w (max (sg x) (sg y)) :: r
  | 14, x :: r => w (-sg x) :: r
  | 15, x :: r => w (sg x).natAbs :: r
  | 23, c :: b :: a :: r => (if 0 < sg a then b else c) :: r
  | 24, x :: r => w (max (sg x) 0) :: r
  | 25, x :: r => w (max 0 (min 1 (sg x))) :: r
  | t, _ => ops.getD t 0 :: stack

/-- The value of an expression on 32-bit operands (R138). -/
def ExprArgs.eval (a : ExprArgs) (apx : Bool) (ops : List Nat) : Nat × Fl :=
  let f := ExprTy.fmt a.ty
  let one (xs : List Nat) : Nat × Fl :=
    let r := a.run.foldl (tokenFloat f apx a.rm xs) ([], 0)
    (r.1.headD 0, r.2)
  match a.ty with
  | .i32 => ((a.run.foldl (tokenInt ops) []).headD 0, 0)
  | .f32 => one ops
  | _ =>
    let lo := one (ops.map fun x => x % 65536)
    let hi := one (ops.map fun x => x / 65536)
    (lo.1 + 65536 * hi.1, lo.2 ||| hi.2)

/-- EXPR (R138 to R140): 16 bytes long. -/
def execExpr (a : ExprArgs) (s : State) : Host.Outcome State Fault Refusal :=
  let rs := [a.a, a.b, a.c, a.e]
  let used (k : Nat) : Nat := if a.pushes k then 1 else 0
  laneOp { g := a.g, size := 16, srcs := rs.zipIdx.map fun p => (p.1, used p.2) } a.d 1
    (fun i l => ExprArgs.eval a (a.apx && !i.exact) (rs.map fun r => i.val r l 1)) s

end Sys2Proof.Machine
end

