-- ==== Sys2Proof/Machine/IntOps.lean ====
section
/-! DEFINITION. Class I: integer and logic instructions, their immediate forms, and SREAD (R119 to R127). -/

namespace Sys2Proof.Machine

/-! ### Arithmetic -/

/-- IADD (R119, R120). -/
def execIadd (a : LaneArgs) (s : State) : Host.Outcome State Fault Refusal :=
  laneInts a 1 (fun x y => intResult a.m.ty a.m.sat (intElem a.m.ty x + intElem a.m.ty y)) s

/-- ISUB (R119, R120). -/
def execIsub (a : LaneArgs) (s : State) : Host.Outcome State Fault Refusal :=
  laneInts a 1 (fun x y => intResult a.m.ty a.m.sat (intElem a.m.ty x - intElem a.m.ty y)) s

/-- IMUL: low bits of the product (R119). -/
def execImul (a : LaneArgs) (s : State) : Host.Outcome State Fault Refusal :=
  laneInts a 1 (fun x y => intResult a.m.ty false (intElem a.m.ty x * intElem a.m.ty y)) s

/-- IMULH: bits 63:32 of the exact product (R119). -/
def execImulh (a : LaneArgs) (s : State) : Host.Outcome State Fault Refusal :=
  laneInts a 1 (fun x y => bits (wrapInt 64 (intElem a.m.ty x * intElem a.m.ty y)) 32 32) s

/-- IMAD, and IMAD.WIDE with pairs for d and c (R119). -/
def execImad (a : LaneArgs) (s : State) : Host.Outcome State Fault Refusal :=
  let t := a.m.ty
  let w := 1 + a.m.sub.val
  laneVal a w 1 1 w (fun x y z =>
    wrapInt (32 * w) (intElem t (modElem t a.m.aa a.m.na x) * intElem t (modElem t a.m.ab a.m.nb y) + z)) s

/-- Quotient of R121: truncated, all ones for a zero divisor, the minimum for the overflow. -/
def idivElem (t : Ty) (x y : Nat) : Nat :=
  if y = 0 then 2 ^ t.bits - 1 else wrapInt t.bits ((intElem t x).tdiv (intElem t y))

/-- Remainder of R121: the dividend for a zero divisor, with the dividend's sign. -/
def iremElem (t : Ty) (x y : Nat) : Nat :=
  if y = 0 then x else wrapInt t.bits ((intElem t x).tmod (intElem t y))

/-- IDIV (R121). -/
def execIdiv (a : LaneArgs) (s : State) : Host.Outcome State Fault Refusal :=
  laneInts a a.m.ty.regs (idivElem a.m.ty) s

/-- IREM (R121). -/
def execIrem (a : LaneArgs) (s : State) : Host.Outcome State Fault Refusal :=
  laneInts a a.m.ty.regs (iremElem a.m.ty) s

/-- The smaller element. -/
def iminElem (t : Ty) (x y : Nat) : Nat := if intElem t x ≤ intElem t y then x else y

/-- The larger element. -/
def imaxElem (t : Ty) (x y : Nat) : Nat := if intElem t x ≤ intElem t y then y else x

/-- IMIN (R119). -/
def execImin (a : LaneArgs) (s : State) : Host.Outcome State Fault Refusal :=
  laneInts a a.m.ty.regs (iminElem a.m.ty) s

/-- IMAX (R119). -/
def execImax (a : LaneArgs) (s : State) : Host.Outcome State Fault Refusal :=
  laneInts a a.m.ty.regs (imaxElem a.m.ty) s

/-- IABS: the minimum stays, or becomes the maximum under SAT (R119). -/
def execIabs (a : LaneArgs) (s : State) : Host.Outcome State Fault Refusal :=
  laneInts a 0 (fun x _ => intResult a.m.ty a.m.sat (intElem a.m.ty x).natAbs) s

/-- IADD64 (R119). -/
def execIadd64 (a : LaneArgs) (s : State) : Host.Outcome State Fault Refusal :=
  laneInts a 2 (fun x y => intResult a.m.ty a.m.sat (intElem a.m.ty x + intElem a.m.ty y)) s

/-- ISUB64 (R119). -/
def execIsub64 (a : LaneArgs) (s : State) : Host.Outcome State Fault Refusal :=
  laneInts a 2 (fun x y => intResult a.m.ty a.m.sat (intElem a.m.ty x - intElem a.m.ty y)) s

/-- LEA: a + (Ext64(b) << sh) modulo 2^64 (R119). -/
def execLea (a : LaneArgs) (s : State) : Host.Outcome State Fault Refusal :=
  laneVal a 2 2 1 0 (fun x y _ => wrapInt 64 (x + intElem a.m.ty y * (2 ^ a.m.sub.val : Nat))) s

/-! ### Comparisons -/

/-- A comparison of two operands of the type, ANDed with a predicate (R124). -/
def setpOp (a : SetpArgs) (f : Nat → Nat → Bool × Fl) (s : State) : Host.Outcome State Fault Refusal :=
  let t := a.m.ty
  let w := t.regs
  predOp { g := a.g, srcs := [(a.a, w), (a.b, w)], preds := [a.pc] } a.pd.val
    (fun i l =>
      let r := f (modElem t a.m.aa a.m.na (i.val a.a l w)) (modElem t a.m.ab a.m.nb (i.val a.b l w))
      (r.1 && i.w.arch.psrc a.pc l, r.2)) s

/-- ISETP (R124). -/
def execIsetp (a : SetpArgs) (s : State) : Host.Outcome State Fault Refusal :=
  setpOp a (fun x y => (icond a.m.sub.val (intElem a.m.ty x) (intElem a.m.ty y), 0)) s

/-- ISETP64, on pairs (R124). -/
def execIsetp64 (a : SetpArgs) (s : State) : Host.Outcome State Fault Refusal :=
  setpOp a (fun x y => (icond a.m.sub.val (intElem a.m.ty x) (intElem a.m.ty y), 0)) s

/-! ### Logic and shifts -/

/-- AND (R119). -/
def execAnd (a : LaneArgs) (s : State) : Host.Outcome State Fault Refusal :=
  laneInts a a.m.ty.regs (fun x y => x &&& y) s

/-- OR (R119). -/
def execOr (a : LaneArgs) (s : State) : Host.Outcome State Fault Refusal :=
  laneInts a a.m.ty.regs (fun x y => x ||| y) s

/-- XOR (R119). -/
def execXor (a : LaneArgs) (s : State) : Host.Outcome State Fault Refusal :=
  laneInts a a.m.ty.regs (fun x y => x ^^^ y) s

/-- Bits 31:0 chosen one by one. -/
def bitsWhere (n : Nat) (f : Nat → Bool) : Nat := (upTo n).foldl (fun acc k => acc + bitN (f k) * 2 ^ k) 0

/-- TLOG (R123). -/
def execTlog (a : TlogArgs) (s : State) : Host.Outcome State Fault Refusal :=
  laneOp { g := a.g, srcs := [(a.a, 1), (a.b, 1), (a.c, 1)] } a.d 1
    (fun i l => (bitsWhere 32 fun k =>
      ttBit a.tt.toNat (flag (i.val a.a l 1) k) (flag (i.val a.b l 1) k) (flag (i.val a.c l 1) k), 0)) s

/-- Shift amount of SHL and SHR (R119). -/
def shiftAmount (t : Ty) (b : Nat) : Nat := b % t.bits

/-- SHL: zeros in (R119). -/
def execShl (a : LaneArgs) (s : State) : Host.Outcome State Fault Refusal :=
  laneVal a a.m.ty.regs a.m.ty.regs 1 0 (fun x y _ => x * 2 ^ shiftAmount a.m.ty y % 2 ^ a.m.ty.bits) s

/-- SHR: zeros or copies of the sign in (R119). -/
def execShr (a : LaneArgs) (s : State) : Host.Outcome State Fault Refusal :=
  laneVal a a.m.ty.regs a.m.ty.regs 1 0
    (fun x y _ => wrapInt a.m.ty.bits (intElem a.m.ty x / (2 ^ shiftAmount a.m.ty y : Nat))) s

/-- SHW: a 64-bit window shifted right, or left (R122). -/
def execShw (a : LaneArgs) (s : State) : Host.Outcome State Fault Refusal :=
  laneVal a 1 1 1 1 (fun x y z =>
    let w := y * 2 ^ 32 + x
    if a.m.sub.val = 0 then w / 2 ^ (z % 32) % 2 ^ 32 else w * 2 ^ (z % 32) / 2 ^ 32 % 2 ^ 32) s

/-- POPC: a 32-bit count (R119). -/
def execPopc (a : LaneArgs) (s : State) : Host.Outcome State Fault Refusal :=
  laneVal a 1 a.m.ty.regs 0 0 (fun x _ _ => bitCount a.m.ty.bits x) s

/-- CLZ: the width for zero (R119). -/
def execClz (a : LaneArgs) (s : State) : Host.Outcome State Fault Refusal :=
  laneVal a 1 a.m.ty.regs 0 0 (fun x _ _ => if x = 0 then a.m.ty.bits else a.m.ty.bits - 1 - Nat.log2 x) s

/-- BREV (R119). -/
def execBrev (a : LaneArgs) (s : State) : Host.Outcome State Fault Refusal :=
  laneVal a a.m.ty.regs a.m.ty.regs 0 0 (fun x _ _ => bitsWhere a.m.ty.bits fun k => flag x (a.m.ty.bits - 1 - k)) s

/-- BFE of R122 on 32 bits. -/
def bfeVal (signExt : Bool) (x y : Nat) : Nat :=
  let pos := y % 256
  let len := min (bits y 8 8) 32
  let bit (k : Nat) : Bool := let j := pos + k; if j < 32 then flag x j else signExt && flag x 31
  bitsWhere 32 fun k => if k < len then bit k else signExt && len != 0 && bit (len - 1)

/-- BFE (R122). -/
def execBfe (a : LaneArgs) (s : State) : Host.Outcome State Fault Refusal :=
  laneVal a 1 1 1 0 (fun x y _ => bfeVal (a.m.ty == .i32) x y) s

/-- BFI (R122). -/
def execBfi (a : LaneArgs) (s : State) : Host.Outcome State Fault Refusal :=
  laneVal a 1 1 1 1 (fun x y z =>
    let pos := y % 256
    let len := min (bits y 8 8) 32
    bitsWhere 32 fun k => if pos ≤ k && k < pos + len then flag x (k - pos) else flag z k) s

/-- BPICK (R122). -/
def execBpick (a : LaneArgs) (s : State) : Host.Outcome State Fault Refusal :=
  laneVal a 1 1 1 1 (fun x y z =>
    let w := y * 2 ^ 32 + x
    leNat ((upTo 4).map fun k => BitVec.ofNat 8 (if flag z (12 + k) then 0 else bits w (8 * bits z (3 * k) 3) 8))) s

/-- SEL (R119). -/
def execSel (a : SelArgs) (s : State) : Host.Outcome State Fault Refusal :=
  let w := a.m.ty.regs
  laneOp { g := a.g, srcs := [(a.a, w), (a.b, w)], preds := [a.pc] } a.d w
    (fun i l => (if i.w.arch.psrc a.pc l then i.val a.a l w else i.val a.b l w, 0)) s

/-- MOV (R119). -/
def execMov (a : LaneArgs) (s : State) : Host.Outcome State Fault Refusal :=
  laneVal a a.m.ty.regs a.m.ty.regs 0 0 (fun x _ _ => x) s

/-- PLOG (R123). -/
def execPlog (a : PlogArgs) (s : State) : Host.Outcome State Fault Refusal :=
  predOp { g := a.g, preds := [a.pa, a.pb, a.pc] } a.pd.val
    (fun i l => (ttBit a.tt.toNat (i.w.arch.psrc a.pa l) (i.w.arch.psrc a.pb l) (i.w.arch.psrc a.pc l), 0)) s

/-! ### Immediate forms -/

/-- A format-WI instruction with one 32-bit source (R125). -/
def immOp (a : ImmArgs) (wa : Nat) (f : Nat → Nat) (s : State) : Host.Outcome State Fault Refusal :=
  laneOp { g := a.g, srcs := [(a.a, wa)] } a.d 1 (fun i l => (f (i.val a.a l wa), 0)) s

/-- MOVI (R125). -/
def execMovi (a : ImmArgs) (s : State) : Host.Outcome State Fault Refusal := immOp a 0 (fun _ => a.imm.toNat) s

/-- IADDI (R125). -/
def execIaddi (a : ImmArgs) (s : State) : Host.Outcome State Fault Refusal :=
  immOp a 1 (fun x => (x + a.imm.toNat) % 2 ^ 32) s

/-- ANDI (R125). -/
def execAndi (a : ImmArgs) (s : State) : Host.Outcome State Fault Refusal := immOp a 1 (fun x => x &&& a.imm.toNat) s

/-- ORI (R125). -/
def execOri (a : ImmArgs) (s : State) : Host.Outcome State Fault Refusal := immOp a 1 (fun x => x ||| a.imm.toNat) s

/-- XORI (R125). -/
def execXori (a : ImmArgs) (s : State) : Host.Outcome State Fault Refusal := immOp a 1 (fun x => x ^^^ a.imm.toNat) s

/-- ISETPI: a 27-bit immediate extended by the signedness bit (R125). -/
def execIsetpi (a : SetpiArgs) (s : State) : Host.Outcome State Fault Refusal :=
  let k : Int := if a.signed then signed 27 a.imm.toNat else a.imm.toNat
  let t : Ty := if a.signed then .i32 else .u32
  predOp { g := a.g, srcs := [(a.a, 1)] } a.pd.val
    (fun i l => (icond a.cond.val (intElem t (i.val a.a l 1)) k, 0)) s

/-- MOVW: 16 bytes long, a pair (R126). -/
def execMovw (a : MovwArgs) (s : State) : Host.Outcome State Fault Refusal :=
  laneOp { g := a.g, size := 16 } a.d 2 (fun _ _ => (a.imm.toNat, 0)) s

/-! ### Special registers -/

/-- The special registers of R39 as lane `l` sees them. -/
def Iss.special (i : Iss) (sel l : Nat) : Nat :=
  let f := i.l.fields
  let x := i.wid.group
  match sel with
  | 0x00 => l
  | 0x01 => i.wid.warp
  | 0x02 => x % f.gx
  | 0x03 => x / f.gx % f.gy
  | 0x04 => x / f.gx / f.gy
  | 0x05 => f.gx
  | 0x06 => f.gy
  | 0x07 => f.gz
  | 0x08 => 32 * f.warps
  | 0x09 => i.l.id.toNat
  | 0x0A => i.g.coreId
  | 0x0B => i.g.quadId
  | 0x0C => i.g.tierId
  | 0x0D => if i.repro then i.retiredBefore l else i.s.cycle
  | 0x0E => if i.repro then (match i.s.context? i.ctx with | some c => c.rounds | none => 0) else i.s.beat
  | 0x0F => i.w.seq
  | 0x10 => i.w.arch.txCause.toNat
  | 0x11 => i.w.arch.flags.toNat
  | 0x12 => bitN i.repro
  | _ => bitN (match i.s.context? i.ctx with | some c => c.exact | none => false)

/-- Registers of a special register (R39). -/
def specialRegs (sel : Nat) : Nat := if 0x0D ≤ sel && sel ≤ 0x0F then 2 else 1

/-- SREAD (R127). -/
def execSread (a : SreadArgs) (s : State) : Host.Outcome State Fault Refusal :=
  let n := a.sel.toNat
  laneOp { g := a.g, reads := if n = 0x11 then [.flags] else [], clock := n == 0x0D } a.d (specialRegs n) (fun i l => (i.special n l, 0)) s

end Sys2Proof.Machine
end

