-- ==== Sys2Proof/Machine/Crypto.lean ====
section
/-! DEFINITION. SHA-384 (R328, R330), its constants computed from the primes that define them. -/

namespace Sys2Proof.Machine

/-- Largest r below 2^b (added to a start) whose k-th power is at most n. -/
def rootBits (k n : Nat) : Nat → Nat → Nat
  | 0, r => r
  | b + 1, r => if (r + 2 ^ b) ^ k ≤ n then rootBits k n b (r + 2 ^ b) else rootBits k n b r

def isPrime (n : Nat) : Bool := decide (2 ≤ n) && (upTo n).all fun d => decide (d < 2) || n % d != 0

/-- The first eighty primes. -/
def shaPrimes : List Nat := (upTo 410).filter isPrime

/-- The first 64 bits of the fractions of the primes' cube roots. -/
def shaK : List Nat := shaPrimes.map fun p => rootBits 3 (p * 2 ^ 192) 67 0 % 2 ^ 64

/-- The first 64 bits of the fractions of the square roots of the ninth to sixteenth primes. -/
def shaInit : List Nat := ((shaPrimes.drop 8).take 8).map fun p => rootBits 2 (p * 2 ^ 128) 67 0 % 2 ^ 64

def ror64 (x n : Nat) : Nat := (x / 2 ^ n + x * 2 ^ (64 - n)) % 2 ^ 64

def shaSmall (a b c x : Nat) : Nat := ror64 x a ^^^ ror64 x b ^^^ (x / 2 ^ c)
def shaBig (a b c x : Nat) : Nat := ror64 x a ^^^ ror64 x b ^^^ ror64 x c

/-- The message schedule, newest word first, extended by `n` words. -/
def shaSchedule : Nat → List Nat → List Nat
  | 0, w => w
  | n + 1, w =>
    shaSchedule n
      ((shaSmall 19 61 6 (w.getD 1 0) + w.getD 6 0 + shaSmall 1 8 7 (w.getD 14 0) + w.getD 15 0) % 2 ^ 64 :: w)

/-- One round over the eight working words. -/
def shaRound (v : List Nat) (kw : Nat × Nat) : List Nat :=
  match v with
  | [a, b, c, d, e, f, g, h] =>
    let ch := (e &&& f) ^^^ ((2 ^ 64 - 1 - e) &&& g)
    let t1 := h + shaBig 14 18 41 e + ch + kw.1 + kw.2
    let t2 := shaBig 28 34 39 a + ((a &&& b) ^^^ (a &&& c) ^^^ (b &&& c))
    [(t1 + t2) % 2 ^ 64, a, b, c, (d + t1) % 2 ^ 64, e, f, g]
  | _ => v

/-- A big-endian value of bytes, and back. -/
def beNat (bs : List Byte) : Nat := bs.foldl (fun n b => n * 256 + b.toNat) 0
def beBytes (k n : Nat) : List Byte := (leBytes k n).reverse

def shaBlock (h : List Nat) (blk : List Byte) : List Nat :=
  let w0 := (upTo 16).map fun k => beNat ((blk.drop (8 * k)).take 8)
  let w := (shaSchedule 64 w0.reverse).reverse
  let v := (shaK.zip w).foldl shaRound h
  (h.zip v).map fun p => (p.1 + p.2) % 2 ^ 64

/-- Blocks of 128 bytes in turn. -/
def shaBlocks : Nat → List Nat → List Byte → List Nat
  | 0, h, _ => h
  | n + 1, h, bs => shaBlocks n (shaBlock h (bs.take 128)) (bs.drop 128)

/-- SHA-384 of a byte string: 48 bytes. -/
def sha384 (msg : List Byte) : List Byte :=
  let pad := (128 - (msg.length + 17) % 128) % 128
  let m := msg ++ [0x80] ++ List.replicate pad 0 ++ beBytes 16 (8 * msg.length)
  ((shaBlocks (m.length / 128) shaInit m).flatMap (beBytes 8)).take 48

end Sys2Proof.Machine
end

