-- ==== Sys2Proof/Machine/Place.lean ====
section
/-! DEFINITION. Placement: which cores a partition's groups may use (R14, R19, R21, R22, R312, R315), what a core holds (R16 to
R18, R146), and a group as it is placed (R31, R277, R290). -/

namespace Sys2Proof.Machine

/-! ### Cores -/

/-- Physical cores of the package. -/
def allCores : List Nat := upTo (8 * Config.coresPerTier)

/-- The partition that owns a core; the cores of a memory-only tier are owned by none (R14). -/
def State.quadOwner (s : State) (core : Nat) : Option Nat :=
  if s.roles.getLsbD (tierOf core) then (upTo 16).find? fun p => (s.part p).quads.getLsbD (quadOf core) else none

/-- A core works: its tier has the compute role, stays so in a change under way, and the core is not lost (R14, R319, R360). -/
def State.coreUp (s : State) (core : Nat) : Bool :=
  s.roles.getLsbD (tierOf core) && !s.lost.contains (.core core)
    && (match s.roleChange with | some r => r.getLsbD (tierOf core) | none => true)

/-- Both matrix engines of a core are owned and in service (R312, R359). DEDUCED: log 39. -/
def State.enginesOwned (s : State) (p core : Nat) : Bool :=
  [0, 1].all fun e => (s.part p).meng.getLsbD (2 * core + e) && !(s.engine ⟨core, e⟩).reset
    && !s.lost.contains (.engine ⟨core, e⟩)

/-- Some working core belongs to no partition (R315). -/
def State.unownedCore (s : State) : Bool := allCores.any fun k => s.coreUp k && (s.quadOwner k).isNone

/-- A firmware launch may use a working core: one that no partition owns, or, where all are owned, one of the partition whose
request it serves (R315). DEDUCED: log 12. -/
def State.firmwareCore (s : State) (l : Launch) (core : Nat) : Bool :=
  match s.quadOwner core with
  | none => true
  | some p => l.serves == some p && !s.unownedCore

/-- The core may hold groups of a launch: those of a partition's own quads that have logical numbers, and those that firmware
may use (R19, R312, R315). -/
def State.coreFor (s : State) (l : Launch) (core : Nat) : Bool :=
  s.coreUp core
    && (if l.ctx.fw then l.fields.tiles == 0 && s.firmwareCore l core
        else s.quadOwner core == some l.ctx.part && (s.part l.ctx.part).numbered.contains (quadOf core)
          && (l.fields.tiles == 0 || s.enginesOwned l.ctx.part core))

/-- Logical numbers of a core within a partition: tier, quad, core (R19). In a firmware launch, whose quads no partition numbers,
they read 0, 0 and the core's place in its quad. DESIGN CHOICE: log 69. -/
def State.logical (s : State) (p core : Nat) : Nat × Nat × Nat :=
  let before := (s.part p).numbered.filter fun q => decide (q < quadOf core)
  let tiers := (upTo (tierOf core)).filter fun t => before.any fun q => q / Config.quadsPerTier == t
  (tiers.length, before.length, 4 * before.length + core % 4)

/-- Quads that a partition numbers in a re-enumeration: those it owns on compute tiers, in ascending order (R19). -/
def Partition.owned (p : Partition) (roles : BitVec 8) : List Nat :=
  if p.quads = 0 then []
  else (upTo (8 * Config.quadsPerTier)).filter fun q => p.quads.getLsbD q && roles.getLsbD (q / Config.quadsPerTier)

/-- The partition's quads have changed and are not numbered anew yet: no group takes a core until they are (R19).
DEDUCED: log 25. -/
def State.unnumbered (s : State) (p : Nat) : Bool := (s.part p).numbered != (s.part p).owned s.roles

/-! ### What a core holds -/

/-- Resident groups of a core with their launches. -/
def State.residents (s : State) (core : Nat) : List (Launch × Group) :=
  s.launches.flatMap fun l => (l.groups.filter fun g => g.resident && g.core == core).map fun g => (l, g)

/-- Groups of a launch that a core can hold at once: the least of the limits of R18. -/
def LaunchRec.residency (f : LaunchRec) : Nat :=
  let s := alignUp f.spad 256
  let n := min (64 / f.warps) (4096 / (f.regs * f.warps))
  let n := if s = 0 then n else min n (655360 / s)
  let n := if f.tiles = 0 then n else min n (16 / f.tiles)
  if f.bars = 0 then n else min n (32 / f.bars)

/-- The same with the 32 warps of R193 in reproducible mode. -/
def LaunchRec.perCore (f : LaunchRec) : Nat := if f.repro then min f.residency (32 / f.warps) else f.residency

/-- Effective window (R277). -/
def LaunchRec.effWindow (f : LaunchRec) : Nat := if f.span = 0 then f.window else f.groups

/-- Groups of a launch that are neither live nor complete, lowest first. -/
def Launch.undispatched (l : Launch) : List Nat :=
  (upTo l.fields.groups).filter fun g => !l.bitmap.testBit g && !l.groups.any fun x => x.index == g

/-- The split of an empty core as a launch's group is placed on it (R17). Groups that a pre-emption has saved count as not yet
dispatched, since they are placed again (log 9). -/
def Launch.split (l : Launch) : Nat :=
  let saved := (l.groups.filter fun g => !g.resident).length
  let n := min l.fields.residency (l.undispatched.length + saved)
  let n := if l.fields.span = 0 then min n (l.fields.effWindow - (l.groups.length - saved)) else n
  min (alignUp (l.portion * n) 65536) 655360

/-- Tiles of a group that an engine takes (R146). -/
def Group.tilesOn (g : Group) (e : Nat) : Nat :=
  ((upTo g.tiles.length).filter fun t => (g.engineOf t).eng == e).length

/-- Free physical tiles of an engine of a core. -/
def State.freeTiles (s : State) (core e : Nat) : Nat := 8 - ((s.residents core).map fun p => p.2.tilesOn e).sum

/-- The engine for even tiles: the one with more free tiles, engine 0 on a tie (R146). -/
def State.evenFor (s : State) (core : Nat) : Nat := if s.freeTiles core 0 < s.freeTiles core 1 then 1 else 0

/-- Warp slots that a group holds: those of its warps that have not ended (R255). -/
def Group.slots (g : Group) : Nat := (g.warps.filter fun w => !w.ended).length

/-- Every resource that one more group of the launch needs is free on the core (R17, R18, R22, R146, R193). -/
def State.fits (s : State) (l : Launch) (core : Nat) : Bool :=
  let rs := s.residents core
  let sum (f : Launch → Nat) : Nat := (rs.map fun p => f p.1).sum
  let f := l.fields
  let split := if rs.isEmpty then l.split else (getKey core s.splits).getD 0
  let even := s.evenFor core
  decide ((rs.map fun p => p.2.slots).sum + f.warps ≤ 64)
    && decide (sum (fun x => x.fields.warps * x.fields.regs) + f.warps * f.regs ≤ 4096)
    && decide (sum Launch.portion + l.portion ≤ split)
    && decide (sum (fun x => x.fields.bars) + f.bars ≤ 32)
    && decide ((f.tiles + 1) / 2 ≤ s.freeTiles core even) && decide (f.tiles / 2 ≤ s.freeTiles core (1 - even))
    && (!f.repro || decide ((rs.map fun p => if p.1.fields.repro then p.2.slots else 0).sum + f.warps ≤ 32))

/-- A group's place among its launch's placements: its quad placement, or the launch itself. -/
def Launch.placeKey (l : Launch) (g : Nat) : Nat := if l.fields.span = 1 then g / 4 else 0

/-- The launch holds the networks of the core's quad or tier for the group's placement (R22). -/
def Launch.housed (l : Launch) (g core : Nat) : Launch :=
  if l.fields.span = 0 then l
  else { l with homes := setKey (l.placeKey g) (if l.fields.span = 1 then quadOf core else tierOf core) l.homes }

/-- A quad placement has ended with its four groups. -/
def Launch.quadOver (l : Launch) (k : Nat) : Bool :=
  (upTo 4).all fun j => decide (l.fields.groups ≤ 4 * k + j)
    || (l.bitmap.testBit (4 * k + j) && !l.groups.any fun x => x.index == 4 * k + j)

/-- The placement rules of the spans: the first group of a placement takes a quad that all four groups can use, or a tier that
can hold every group, and the others follow it (R21, R22). DEDUCED: log 46. -/
def State.spanOk (s : State) (l : Launch) (g core : Nat) : Bool :=
  let home := getKey (l.placeKey g) l.homes
  match l.fields.span with
  | 0 => true
  | 1 =>
    core % 4 == g % 4
      && (match home with
        | some q => q == quadOf core
        | none => (upTo 4).all fun j => decide (l.fields.groups ≤ g / 4 * 4 + j) || s.coreFor l (quadOf core * 4 + j))
      && !s.launches.any fun y => y.fields.span == 1 && y.homes.any fun p =>
          p.2 == quadOf core && !(y.num == l.num && p.1 == g / 4) && !y.quadOver p.1
  | 2 =>
    (match home with
      | some t => t == tierOf core
      | none => decide (l.fields.groups ≤ l.fields.perCore * (allCores.filter fun k => tierOf k == tierOf core && s.coreFor l k).length))
      && !s.launches.any fun y => y.num != l.num && y.ctx == l.ctx && y.fields.span == 2 && y.homes.any fun p => p.2 == tierOf core
  | _ => !s.launches.any fun y => y.num != l.num && y.ctx == l.ctx && y.fields.span == 3 && !y.homes.isEmpty

/-- A core can take the group by itself now. -/
def State.placeOne (s : State) (l : Launch) (g core : Nat) : Bool := s.coreFor l core && s.fits l core && s.spanOk l g core

/-- The groups that are dispatched with a group: it alone for core span, else those of its placement that are still to come,
since they are co-resident (R21). -/
def Launch.withMates (l : Launch) (g : Nat) : List Nat :=
  match l.fields.span with
  | 0 => [g]
  | 1 => l.undispatched.filter fun k => k / 4 == g / 4
  | _ => l.undispatched

/-! ### A group as it begins (R31, R147, R153, R208, R248) -/

def Arch.begin (f : LaunchRec) (args : List Word) (w : Nat) : Arch :=
  { v := freshV f.regs, s := (args ++ List.replicate 32 0).take 32, p := List.replicate 7 0, h := List.replicate 16 none
    flags := 0, gang := BitVec.ofNat 32 (2 ^ w), rstack := [], pc := List.replicate 32 f.kernel
    st := List.replicate 32 .ready, waits := [], fairF := 0, fairC := 0, fairNext := none, retired := 0, opCount := 0
    merged := [], txCause := 0, tx := none, poison := [], yrec := none }

/-- In reproducible mode a group's first turn is in the next round (R192). -/
def Warp.begin (f : LaunchRec) (args : List Word) (w : Nat) : Warp :=
  let a := Arch.begin f args w
  { arch := a, chunk := Chunk.fresh a, seq := 0, handlerDue := false, ydone := false, depArrived := false, fault := none
    turnDone := f.repro }

def Group.begin (l : Launch) (g core : Nat) (log : Nat × Nat × Nat) (even : Nat) : Group :=
  { index := g, core := core, coreId := log.2.2, quadId := log.2.1, tierId := log.1, resident := true
    warps := (upTo l.fields.warps).map (Warp.begin l.fields l.args), spad := [], tags := []
    tiles := List.replicate l.fields.tiles Tile.fresh, evenEngine := even
    bars := List.replicate l.fields.bars Barrier.fresh, gangs := []
    fill := if l.binds.isEmpty then .done else .pending, pins := [], bitSet := false }

/-! ### Placing (R17, R21) -/

/-- The split that a core has by the groups of a launch's own context, or takes as the launch's group is placed (R4, R17). -/
def State.ownSplit (s : State) (l : Launch) (core : Nat) : Nat :=
  match (s.residents core).find? fun p => p.1.ctx == l.ctx with
  | some p => p.2.split
  | none => l.split

/-- The core's split follows the first group placed on it. -/
def State.setSplit (s : State) (l : Launch) (core : Nat) : State :=
  if (s.residents core).isEmpty then { s with splits := setKey core l.split s.splits } else s

/-- A group stands on a core, its bindings not filled yet (R146, R277). -/
def State.standGroup (s : State) (l : Launch) (n core : Nat) : State :=
  let g := { Group.begin l n core (s.logical l.ctx.part core) (s.evenFor core) with split := s.ownSplit l core }
  (s.setSplit l core).mapLaunch l.num fun x => { x.housed n core with groups := x.groups ++ [g] }

/-- Cores for some groups of a launch, the first that leave room for all of them; none where there are no such cores. -/
def State.seatAll (s : State) (n : Nat) : List Nat → Option (List (Nat × Nat))
  | [] => some []
  | g :: gs =>
    (s.launch? n).bind fun l => allCores.findSome? fun k =>
      if s.placeOne l g k then ((s.standGroup l g k).seatAll n gs).map fun ps => (g, k) :: ps else none

/-- Places for a group, on the core that is named, and for the groups dispatched with it: none unless all of them fit, so that no
placement stands by halves (R21). DEDUCED: log 46. -/
def State.seats (s : State) (l : Launch) (g core : Nat) : Option (List (Nat × Nat)) :=
  if !s.placeOne l g core then none
  else match (l.withMates g).filter fun k => k ≠ g with
    | [] => some [(g, core)]
    | gs => ((s.standGroup l g core).seatAll l.num gs).map fun ps => (g, core) :: ps

/-- A core can take the group now, and others those that are dispatched with it. -/
def State.placeable (s : State) (l : Launch) (g core : Nat) : Bool := (s.seats l g core).isSome

/-- Groups stand on their cores. -/
def State.standAll (s : State) (n : Nat) (ps : List (Nat × Nat)) : State :=
  ps.foldl (fun t p => match t.launch? n with | some l => t.standGroup l p.1 p.2 | none => t) s

end Sys2Proof.Machine
end

