-- ==== Sys2Proof/Machine/Sched.lean ====
section
/-! DEFINITION. Launches from notify to completion record: NOTIFY, QUEUE_MAP, QUEUE_UNMAP, LAUNCH_ADMISSION, GROUP_DISPATCH,
GROUP_COMPLETE and LAUNCH_FAULT_END (R270 to R288, R295, R317, R342, R343, R380, R413). -/

namespace Sys2Proof.Machine

/-! ### Queues (R271, R272, R317) -/

/-- A notify has reached the device: it is ignored before DEVREADY, and none comes over a link that carries nothing (R390, R399);
one that was received before and waits is there already. -/
def State.notified (s : State) (q : QueueKey) (n : Nat) : Bool := (s.devready && s.hostThere) || s.received.contains (.notify q 0 n)

/-- NOTIFY: a write to offset 0 of the notify page; every other offset is ignored (R271). -/
def execNotify (q : QueueKey) (off n : Nat) (s : State) : Host.Outcome State Fault Refusal :=
  .next (if off = 0 && s.notified q n then s.raiseTail q n else s)

/-- Mapped user queues of a partition. -/
def State.mappedOf (s : State) (p : Nat) : Nat :=
  (s.queues.filter fun q => q.key.part == p && !q.ctx.fw && q.slot.isSome).length

/-- The queue waits for a slot: it is unmapped and a notify is pending. -/
def State.waitsSlot (s : State) (q : Queue) : Bool :=
  q.slot.isNone && (match s.headerWord q hdrPend with | some v => decide (2 ^ 63 ≤ v) | none => false)

def shareMin (sh : DWord) : Nat := bits sh.toNat 0 8
def shareMax (sh : DWord) : Nat := bits sh.toNat 8 8

/-- A queue that waits for a slot is served before another: a partition below its QMIN first, then in notify order (R317). -/
def State.servedBefore (s : State) (x q : Queue) : Bool :=
  let low (y : Queue) : Bool := decide (s.mappedOf y.key.part < shareMin (s.part y.key.part).share)
  if low x != low q then low x else !s.waitsSlot q || decide (x.asked < q.asked)

/-- The shares and the order of notifies let the queue have a slot (R317). DEDUCED: log 40. -/
def State.mayMap (s : State) (q : Queue) : Bool :=
  let room (y : Queue) : Bool := decide (s.mappedOf y.key.part < shareMax (s.part y.key.part).share)
  room q && !s.queues.any fun x => x.key != q.key && s.waitsSlot x && room x && s.servedBefore x q

/-- QUEUE_MAP: the slot takes the pending notify (R272). -/
def execQueueMap (k : QueueKey) (slot : Nat) (s : State) : Host.Outcome State Fault Refusal :=
  .next (match s.queue? k with
    | none => s
    | some q =>
      if q.slot.isSome || 255 ≤ slot || s.slots.contains slot || !s.mayMap q || s.ctxOwned q.ctx q.header 40 then s
      else
        let t := { s.mapQueue k fun x => { x with slot := some slot } with slots := slot :: s.slots }
        match t.headerWord q hdrPend with
        | none => t
        | some v =>
          if v < 2 ^ 63 then t
          else match (t.mapQueue k fun x => { x with target := v % 2 ^ 63 }).setHeader q hdrPend (v % 2 ^ 63) with
            | .done u => u
            | .failed => t
            | .waits => s)

/-- QUEUE_UNMAP: the slot closes, and its target tail is kept (R272). Slot 255 is mapped for good (R315). -/
def execQueueUnmap (k : QueueKey) (s : State) : Host.Outcome State Fault Refusal :=
  .next (match s.queue? k with
    | none => s
    | some q => match q.slot with
      | none => s
      | some n =>
        if n = 255 || s.ctxOwned q.ctx q.header 40 then s
        else
          let t := { s.mapQueue k fun x => { x with slot := none } with slots := s.slots.filter fun y => y ≠ n }
          match t.headerWord q hdrPend, t.headerWord q hdrHead with
          | some v, some head =>
            let tail := max (v % 2 ^ 63) q.target
            let pend := head < tail || 2 ^ 63 ≤ v
            (match (t.mapQueue k fun x => { x with asked := if pend then t.steps else x.asked }).setHeader q hdrPend
                ((if pend then 2 ^ 63 else 0) + tail) with
              | .done u => u
              | .failed => t
              | .waits => s)
          | _, _ => t)

/-! ### The launch record (R273, R286, R295, R380) -/

/-- The 32-bit two's complement field at a bit offset. -/
def signed32 (n off : Nat) : Int := signed 32 (bits n off 32)

def depOf (n k : Nat) : Dep :=
  let o := 0x240 + 96 * k
  { dist := bits n o 16, width := bits n (o + 16) 16, mult := bits n (o + 32) 32, offs := signed32 n (o + 64) }

/-- The fields of a record given as its 1,024-bit little-endian number. -/
def recordOf (n : Nat) : LaunchRec :=
  { type := bits n 0 4, span := bits n 4 2, prio := bits n 6 2, repro := flag n 8, exact := flag n 9, nxb := bits n 13 4
    warps := bits n 17 5 + 1, regs := 8 * bits n 22 5, tiles := bits n 27 5, spad := bits n 32 20, bars := bits n 52 6
    kernel := bits n 0x40 64, gx := bits n 0x80 32, gy := bits n 0xA0 16, gz := bits n 0xB0 16, chlen := bits n 0xC0 16
    window := bits n 0xE0 32, args := bits n 0x100 64, xbind := bits n 0x140 64, yield := bits n 0x180 64
    save := bits n 0x1C0 64, compl := bits n 0x200 64, deps := (upTo (bits n 10 3)).map (depOf n), saveLen := bits n 0x3C0 64 }

def bindOf (n : Nat) : Bind :=
  { src := bits n 0 64, stride := bits n 64 64, dst := bits n 128 32, size := bits n 160 32, xf := bits n 192 4
    outLen := bits n 200 24, repOff := signed32 n 224 }

/-- A binding's fields lie in range, and its output fits the portion (R286). A SIZE that no COPY of its XF can have is refused with
the rest. DESIGN CHOICE: log 67. -/
def Bind.ok (b : Bind) (n portion : Nat) : Bool :=
  let c := b.command 0
  b.dst % 16 == 0 && decide (0 < b.size) && decide (b.size ≤ 2 ^ 24) && decide (b.xf ≤ 6) && bits n 198 2 == 0
    && (if b.xf = 6 then decide (0 < b.outLen) else b.outLen == 0)
    && (match b.xf with | 1 => b.size % 32 == 0 | 4 | 5 => b.size % 2 == 0 | _ => true)
    && decide (c.dstEnd ≤ portion)

/-- Bytes of one group's slot and of a save block (R295). -/
def LaunchRec.slotBytes (f : LaunchRec) : Nat :=
  alignUp (f.warps * (128 * f.regs + 1024) + alignUp f.spad 256 + 3088 * f.tiles + 2560 + 73728) 4096

def LaunchRec.saveBytes (f : LaunchRec) : Nat :=
  4096 + alignUp ((f.groups + 7) / 8) 4096 + (if f.type = 1 then 0 else f.effWindow * f.slotBytes)

/-- Every address of the record is canonical (R273). -/
def LaunchRec.canonical (f : LaunchRec) : Bool :=
  [f.kernel, f.args, f.xbind, f.yield, f.save, f.compl].all Sys2Proof.Machine.canonical

/-- Check 2 of R275 for the dependences: used entries name an existing position, unused ones are zero (R282). -/
def depsOk (n pos : Nat) : Bool :=
  decide (bits n 10 3 ≤ 4) && (upTo 4).all fun k =>
    if k < bits n 10 3 then let d := (depOf n k).dist; decide (1 ≤ d) && decide (d ≤ 1023) && decide (d ≤ pos)
    else bits n (0x240 + 96 * k) 96 == 0

/-- Check 2 of R275 for a SIMT record. -/
def simtOk (f : LaunchRec) (n pos : Nat) : Bool :=
  bits n 58 6 == 0 && bits n 0xD0 16 == 0 && decide (f.nxb ≤ 8) && decide (16 ≤ f.regs) && decide (f.regs ≤ 224)
    && decide (f.tiles ≤ 16) && decide (f.spad ≤ 655360) && decide (f.bars ≤ 32) && f.kernel % 8 == 0
    && decide (1 ≤ f.gx) && decide (1 ≤ f.gy) && decide (1 ≤ f.gz) && decide (f.groups ≤ 2 ^ 24)
    && decide (512 ≤ f.chlen) && decide (f.chlen ≤ 16384)
    && (if f.span = 0 then decide (1 ≤ f.window) && decide (f.window ≤ f.groups) else f.window == 0)
    && ((f.nxb == 0) == (f.xbind == 0)) && f.saveLen % 4096 == 0 && f.canonical && depsOk n pos

/-- Check 2 of R275 for a near-bank record, whose descriptor R373 checks (R380). -/
def nearOk (f : LaunchRec) (n pos : Nat) (d : Option (RunDesc × Nat)) (starts : Nat → Bool) : Bool :=
  bits n 58 6 == 0 && bits n 0xD0 16 == 0 && f.span == 0 && bits n 17 5 == 0 && f.regs == 0 && f.tiles == 0 && f.spad == 0
    && decide (f.bars ≤ 32) && f.nxb == 0 && f.chlen == 0 && f.window == 0 && f.args == 0 && f.xbind == 0 && f.yield == 0
    && f.gy == 1 && f.gz == 1 && f.kernel % 128 == 0 && f.saveLen % 4096 == 0 && decide (f.saveBytes ≤ f.saveLen) && f.canonical
    && depsOk n pos
    && (match d with
      | some (r, x) => r.aligned && r.ok x && starts r.entry && f.gx == ceilDiv r.rows 32
      | none => false)

/-! ### Admission (R275, R276, R413) -/

/-- Check 1 of R275: alignment, mapping, ownership and rights. Arguments or bindings that are poisoned are refused with it, since
they cannot be read (R341). DESIGN CHOICE: log 70. -/
def State.pointersOk (s : State) (c : CtxKey) (f : LaunchRec) : Bool :=
  let reads (va n : Nat) : Bool := match s.readCtx c va n with | .ok _ => true | .error _ => false
  let can (va n : Nat) (acc : Access) : Bool := match s.lookRange c va n acc with | .ok _ => true | .error _ => false
  (f.args == 0 || (f.args % 128 == 0 && reads f.args 128))
    && (f.xbind == 0 || (f.xbind % 32 == 0 && reads f.xbind (max 1 (32 * f.nxb))))
    && f.save % 4096 == 0 && can f.save (max 1 f.saveLen) .read && can f.save (max 1 f.saveLen) .write
    && f.compl % 64 == 0 && can f.compl 64 .read && can f.compl 64 .write

/-- Check 5 of R275: the span can be satisfied by the partition's compute resources as they stand. -/
def State.spanFits (s : State) (l : Launch) : Bool :=
  let cores := allCores.filter (s.coreFor l)
  let n := l.fields.perCore
  match l.fields.span with
  | 0 => if l.fields.repro then decide (l.fields.window ≤ n * cores.length) else !cores.isEmpty
  | 1 =>
    let full (need q : Nat) : Bool := (upTo need).all fun j => cores.contains (4 * q + j)
    let quads := (upTo (8 * Config.quadsPerTier)).filter (full 4)
    let last := l.fields.groups % 4
    decide (l.fields.groups ≤ 4 * quads.length)
      || (last != 0 && decide (l.fields.groups / 4 ≤ quads.length)
        && (upTo (8 * Config.quadsPerTier)).any fun q => full last q && (decide (l.fields.groups / 4 < quads.length) || !quads.contains q))
  | 2 => (upTo 8).any fun t => decide (l.fields.groups ≤ n * (cores.filter fun k => tierOf k == t).length)
  | _ => decide (l.fields.groups ≤ n * cores.length)

/-- The status of a completion record (R288), its fault, and what it says of the launch. -/
def recordBytes (status : Nat) (f : Option FaultInfo) (l : Launch) : List Byte :=
  let x : FaultInfo := f.getD { code := .illegalInstr, lane := 0 }
  let g (n : Nat) : Nat := if f.isSome then n else 0
  leBytes 1 status ++ leBytes 1 (g x.code.num) ++ leBytes 1 (g x.lane) ++ leBytes 1 (g x.warp) ++ leBytes 4 (g x.group)
    ++ leBytes 8 (g x.pc) ++ leBytes 8 (g x.addr) ++ leBytes 8 l.seq ++ leBytes 1 l.flags.toNat ++ leBytes 3 0
    ++ leBytes 4 (g x.ucode.toNat) ++ leBytes 4 (min l.squash (2 ^ 32 - 1)) ++ leBytes 4 (min l.corr (2 ^ 32 - 1))
    ++ leBytes 4 (min l.preempt (2 ^ 32 - 1)) ++ leBytes 8 0 ++ leBytes 4 1

/-- The partition whose request firmware serves: of several, the one that has been served longest (R315). DESIGN CHOICE:
log 69. -/
def State.servingNow (s : State) : Option Nat :=
  (upTo 16).foldl (fun b p => if (s.part p).serving.isNone then b else match b with
    | some q => if (s.part p).heard < (s.part q).heard then some p else b
    | none => some p) none

/-- A launch that has just been read. -/
def Launch.fresh (s : State) (c : Context) (q : Queue) (pos : Nat) (f : LaunchRec) : Launch :=
  { num := s.nextLaunch, ctx := c.key, queue := q.key, pos := pos
    id := BitVec.ofNat 32 (q.key.idx * 2 ^ 24 + pos % 2 ^ 24), fields := f, args := [], binds := [], desc := none, live := false
    debug := c.debug, groups := [], bitmap := 0, fault := none, endFault := none, saveInvalid := false, seq := 0, flags := 0
    squash := 0, corr := 0, preempt := 0, recs := [], quadBars := [], tierBars := []
    pkgBars := List.replicate 2 Barrier.fresh, homes := [], peers := 0, saved := none
    serves := if c.key.fw then s.servingNow else none }

/-- Numbers of consecutive 32-byte entries. -/
def State.bindTable (s : State) (c : CtxKey) (f : LaunchRec) : List Nat :=
  (upTo f.nxb).map fun k => match s.readCtx c ((f.xbind + 32 * k) % 2 ^ 64) 32 with | .ok bs => leNat bs | .error _ => 0

/-- A near-bank record's descriptor, with its 1,024-bit number. -/
def State.readDesc (s : State) (c : CtxKey) (f : LaunchRec) : Option (RunDesc × Nat) :=
  match s.readCtx c f.kernel 128 with | .ok bs => some (runDesc f.kernel (leNat bs), leNat bs) | .error _ => none

/-- The status of R275's checks in order, none where all pass. -/
def State.checkRecord (s : State) (c : Context) (l : Launch) (n : Nat) : Option Nat :=
  let f := l.fields
  let binds := s.bindTable c.key f
  if !s.pointersOk c.key f then some 0x15
  else if !(match f.type with
      | 0 => simtOk f n l.pos && binds.all fun b => (bindOf b).ok b l.portion
      | 1 => nearOk f n l.pos (s.readDesc c.key f) (s.canStart c.key.part)
      | _ => false) then some 0x10
  else if f.repro != c.repro || f.exact != c.exact then some 0x11
  else if f.type == 0 && f.perCore == 0 then some 0x12
  else if f.type == 0 && !s.spanFits l then some 0x13
  else if f.saveLen < f.saveBytes then some 0x14
  else none

/-- A producer of the record has failed (R283, R284). -/
def State.producerFailed (s : State) (q : Queue) (l : Launch) : Bool :=
  l.fields.deps.any fun d => s.statusOf q (l.pos - d.dist) == 3

/-- A producer's status entry cannot be read: the header cannot, which stops the queue (R413). -/
def State.statsBad (s : State) (q : Queue) (l : Launch) : Bool :=
  l.fields.deps.any fun d => match s.readCtx q.ctx (statAddr q (l.pos - d.dist)) 1 with | .ok _ => false | .error _ => true

/-- Ends every launch that depends on a position with DEPENDENCY_FAILED (R284). -/
def State.failDependents (s : State) (q : QueueKey) (pos : Nat) : State :=
  s.launches.foldl (fun s l =>
    if l.queue == q && l.fields.deps.any (fun d => l.pos - d.dist == pos) then
      s.launchFault l.num { code := .dependencyFailed }
    else s) s

/-- The run of a live near-bank launch is released once the queues of its stalls have room (R374, R380). -/
def State.releaseRun (s : State) (l : Launch) : State :=
  match l.desc with
  | none => s
  | some d =>
    if !l.live || l.fault.isSome || l.saveInvalid || (s.runs.any fun r => r.launch == l.num && r.op.isNone)
        || s.stallsFull l.ctx [d] then s
    else
      let r : Run :=
        { num := s.nextRun, part := l.ctx.part, ctx := l.ctx, op := none, launch := l.num, desc := d, pinned := false, locs := []
          stalls := [], nf := false, flags := 0 }
      { s with runs := s.runs ++ [r], nextRun := s.nextRun + 1 }

/-- A launch becomes live (R276), and a near-bank launch's run is released. -/
def State.goLive (s : State) (n : Nat) : State :=
  match s.launch? n with
  | none => s
  | some l =>
    if l.live then s
    else (s.mapLaunch n fun x => { x with live := true }).releaseRun { l with live := true }

/-- Launches without dependences become live when the position before theirs has ended (R276). -/
def State.wakeQueue (s : State) (q : QueueKey) : State :=
  s.launches.foldl (fun s l =>
    if l.queue == q && !l.live && (l.pos == 0 || (s.launchAt q (l.pos - 1)).isNone) then s.goLive l.num else s) s

/-- A queue error: nothing is admitted before the next notify (R413). DEDUCED: log 28. -/
def State.queueError (s : State) (k : QueueKey) : State :=
  (s.mapQueue k fun x => { x with blocked := true }).notifyPart k.part 7 0x7FF (BitVec.ofNat 64 (k.idx + 512)) 0

/-- HEAD passes a position whose status entry takes a value. -/
def State.advanceHead (s : State) (q : Queue) (pos v : Nat) : Wrote :=
  (s.setHeader q hdrHead (pos + 1)).bind fun t => t.setStatus q pos v

/-- A record that is not admitted: its completion record, where it can be written, and its status entry (R275, R284). -/
def State.refuse (s : State) (q : Queue) (l : Launch) (status : Nat) (f : Option FaultInfo) : State :=
  match s.advanceHead q l.pos 3 with
  | .failed => s.queueError q.key
  | .waits => s
  | .done t =>
    let rec? := if f.isSome || status != 0x15 || l.fields.compl % 64 == 0 then
      t.tryWrite l.ctx l.fields.compl (recordBytes status f l) else some t
    match rec? with
    | none => s
    | some t => (t.failDependents q.key l.pos).wakeQueue q.key

/-- An admitted record (R274, R276, R280, R349, R365). -/
def State.admitLaunch (s : State) (c : Context) (q : Queue) (l : Launch) : State :=
  match s.advanceHead q l.pos 1 with
  | .failed => s.queueError q.key
  | .waits => s
  | .done t =>
    let f := l.fields
    let args := match (if f.args = 0 then .error .address else s.readCtx c.key f.args 128) with
      | .ok bs => (upTo 32).map fun i => BitVec.ofNat 32 (leNat ((bs.drop (4 * i)).take 4))
      | .error _ => []
    let l := { l with
      args := args
      binds := if f.type = 0 then (s.bindTable c.key f).map bindOf else []
      desc := if f.type = 1 then (s.readDesc c.key f).map (·.1) else none }
    match t.tryWrite c.key (f.save + 4096) (List.replicate ((f.groups + 7) / 8) 0) with
    | none => s
    | some t =>
    let t := { t with launches := t.launches ++ [l], nextLaunch := t.nextLaunch + 1 }
    let t := t.mapContext c.key fun x => match x.schedNext with
      | some y => { x with sched := y, schedNext := none }
      | none => x
    if f.deps.isEmpty then t.wakeQueue q.key else t.goLive l.num

/-- The host holds newer copies of what an admission reads: the header, the record, and what the record points at (R187). -/
def State.recordOwned (s : State) (q : Queue) (at_ : Nat) (l : Launch) : Bool :=
  let f := l.fields
  s.ctxOwned q.ctx at_ 128 || s.ctxOwned q.ctx f.args 128 || s.ctxOwned q.ctx f.xbind (32 * f.nxb)
    || (f.type == 1 && s.ctxOwned q.ctx f.kernel 128)

/-- The record at HEAD of a queue: read once the host has given back what it holds of it. -/
def State.admitHead (s : State) (q : Queue) (c : Context) : State :=
  match s.headerWord q hdrHead, s.headerWord q hdrCap, s.headerWord q hdrBase with
  | some pos, some cap, some base =>
    if q.target ≤ pos || s.ctxOwned q.ctx q.header 320 then s
    else
      let at_ := (base + 128 * (pos % 2 ^ (cap % 256))) % 2 ^ 64
      match if base % 128 = 0 then s.readCtx c.key at_ 128 else .error .misaligned with
      | .error _ =>
        match s.advanceHead q pos 3 with
        | .failed => s.queueError q.key
        | .waits => s
        | .done t => ((t.failDependents q.key pos).wakeQueue q.key).notifyPart q.key.part 7 0x7FF
            (BitVec.ofNat 64 (q.key.idx + 768)) (BitVec.ofNat 64 pos)
      | .ok bs =>
        let l := Launch.fresh s c q pos (recordOf (leNat bs))
        if s.recordOwned q at_ l then s
        else if s.statsBad q l then s.queueError q.key
        else match s.checkRecord c l (leNat bs) with
        | some status => s.refuse q l status none
        | none =>
          if s.producerFailed q l then s.refuse q l 1 (some { code := .dependencyFailed })
          else s.admitLaunch c q l
  | _, _, _ => s.queueError q.key

/-- What an admission reads: the queue's header, the record at HEAD, and what the record points at, with the walks to them. -/
def State.admissionReads (s : State) (q : Queue) (c : Context) : List Loc :=
  let at_ (va n : Nat) : List Loc := s.walksOf c.key va n ++ rangeLocs (s.peekRange c.key va n .read)
  match s.headerWord q hdrHead, s.headerWord q hdrCap, s.headerWord q hdrBase with
  | some pos, some cap, some base =>
    if q.target ≤ pos || s.ctxOwned q.ctx q.header 320 then []
    else
      let va := (base + 128 * (pos % 2 ^ (cap % 256))) % 2 ^ 64
      at_ q.header 320 ++ (match s.readCtx c.key va 128 with
        | .error _ => []
        | .ok bs =>
          let f := recordOf (leNat bs)
          at_ va 128 ++ s.walksOf c.key f.save (max 1 f.saveLen) ++ s.walksOf c.key f.compl 64 ++ at_ f.args 128 ++
            at_ f.xbind (32 * f.nxb) ++ (if f.type = 1 then at_ f.kernel 128 else []))
  | _, _, _ => []

/-- LAUNCH_ADMISSION (R271, R275): what it reads fills lines of windows (R112). -/
def execLaunchAdmission (k : QueueKey) (s : State) : Host.Outcome State Fault Refusal :=
  .next (match s.queue? k with
    | none => s
    | some q => match s.context? q.ctx with
      | none => s
      | some c =>
        if q.slot.isNone || q.blocked || c.phase != .running || c.release.isSome || c.scrubbing then s
        else (s.admitHead q c).fillLines (s.admissionReads q c))

/-! ### Dispatch (R277, R281) -/

/-- In reproducible mode with core span, the group one window below has completed (R195). -/
def Launch.windowOpen (l : Launch) (g : Nat) : Bool :=
  !(l.fields.repro && l.fields.span == 0) || l.groups.all fun y => y.index + l.fields.window != g

/-- The next group of a launch, when it is dispatchable with those that are placed with it, whether or not its context runs. -/
def State.readyGroup (s : State) (l : Launch) : Option Nat :=
  if !l.live || l.fault.isSome || l.saveInvalid || l.desc.isSome || l.fields.effWindow ≤ l.groups.length then none
  else match l.undispatched with
    | [] => none
    | g :: _ => if (l.withMates g).all (fun k => s.groupReady l k && l.windowOpen k) then some g else none

/-- The next group of a launch, when it may be dispatched. -/
def State.nextGroup (s : State) (l : Launch) : Option Nat :=
  match s.context? l.ctx with
  | some c => if c.phase == .running && (c.key.fw || !s.unnumbered c.key.part) then s.readyGroup l else none
  | none => none

/-- A launch has precedence over another for a core (R281). -/
def Launch.before (x l : Launch) : Bool :=
  decide (l.fields.prio < x.fields.prio) || (x.fields.prio == l.fields.prio && decide (x.num < l.num))

/-- Another launch of the partition takes the core first, or a core for the groups that are placed with the launch's next one. -/
def State.outranked (s : State) (l : Launch) (core : Nat) : Bool :=
  let cores := match (s.nextGroup l).bind fun g => s.seats l g core with | some ps => ps.map fun (p : Nat × Nat) => p.2 | none => [core]
  s.launches.any fun x => x.num != l.num && x.ctx.part == l.ctx.part && x.ctx.fw == l.ctx.fw && x.before l
    && (match s.nextGroup x with | some g => cores.any (s.placeable x g) | none => false)

/-- Groups are placed, and their bindings filled (R17, R146, R277, R287); none where a source must wait for the host. -/
def State.placeGroups (s : State) (l : Launch) (ps : List (Nat × Nat)) : Option State :=
  ps.foldl (fun (t : Option State) p => t.bind fun t => t.fillGroup l p.1 l.binds) (some (s.standAll l.num ps))

/-- GROUP_DISPATCH (R277, R281), of a whole placement at one step (R21): one that waits for a source that the host owns is not
placed yet. -/
def execGroupDispatch (l core : Nat) (s : State) : Host.Outcome State Fault Refusal :=
  .next (match s.launch? l with
    | none => s
    | some x => match s.nextGroup x with
      | none => s
      | some g =>
        if !s.placeable x g core || s.outranked x core then s
        else (((s.seats x g core).bind (s.placeGroups x)).getD s))

/-! ### Completion (R279, R288) -/

/-- Cores without groups lose their split (R17). -/
def State.freeCores (s : State) : State := { s with splits := s.splits.filter fun p => !(s.residents p.1).isEmpty }

/-- A byte of a launch's save block that the device itself writes: the block stays as the device wrote it (R297). -/
def Launch.noteSaved (l : Launch) (va : Nat) (b : Byte) : Launch :=
  { l with saved := l.saved.map fun p => (p.1, if p.1 ≤ va then p.2.set (va - p.1) b else p.2) }

/-- Sets a group's completion bit, in the launch and in its save block, none while the write must wait (R279, R280). -/
def State.setBit (s : State) (l : Launch) (g : Nat) : Option State :=
  if l.bitmap.testBit g then some s
  else
    let bm := l.bitmap + 2 ^ g
    let va := l.fields.save + 4096 + g / 8
    let b : Byte := BitVec.ofNat 8 (bm / 2 ^ (g / 8 * 8))
    (s.mapLaunch l.num fun x => { x.noteSaved va b with bitmap := bm }).tryWrite l.ctx va [b]

/-- Operations of a group, runs included, that have not ended. -/
def State.groupBusy (s : State) (l g : Nat) : Bool := s.ops.any fun o => o.launch == l && o.group == g

/-- A group has nothing left to do. -/
def State.groupOver (s : State) (l : Launch) (g : Group) : Bool :=
  g.warps.all Warp.ended && g.fill == .done && !s.groupBusy l.num g.index && l.fault.isNone && !l.saveInvalid

/-- The launch is gone: its core splits and its pre-grants with it, and its queue goes on. -/
def State.leave (s : State) (l : Launch) : State :=
  let t : State := { s with
    launches := s.launches.filter fun x => x.num ≠ l.num
    parts := s.parts.map fun p => { p with
      pregrant := match p.pregrant with | some w => if w.launch = l.num then none else some w | none => none
      pregrantQueue := p.pregrantQueue.filter fun w => w.launch ≠ l.num } }
  t.freeCores.wakeQueue l.queue

/-- The launch leaves the machine with a status: its completion record, its status entry, and the queue advances (R279,
R288); none while one of these writes must wait. A record whose address can no longer be written is dropped (R306).
DESIGN CHOICE: log 74. -/
def State.endLaunch (s : State) (l : Launch) (status stat : Nat) : Option State :=
  match s.tryWrite l.ctx l.fields.compl (recordBytes status (if status = 1 then l.fault else none) l) with
  | none => none
  | some t => match t.queue? l.queue with
    | none => some (t.leave l)
    | some q => match t.setStatus q l.pos stat with
      | .done u => some (u.leave l)
      | .failed => some (t.leave l)
      | .waits => none

/-- A launch whose bits are all set and whose groups are gone is complete; none while its record must wait. -/
def State.complete (s : State) (n : Nat) : Option State :=
  match s.launch? n with
  | none => some s
  | some l => if l.groups.isEmpty && l.undispatched.isEmpty && l.fault.isNone && !l.saveInvalid then s.endLaunch l 0 2 else some s

/-- A near-bank launch ends with its run: RESULT, then the record (R374, R380). -/
def State.completeRun (s : State) (l : Launch) (r : Run) : State :=
  if !r.finished || l.fault.isSome then s
  else match s.lookRange r.ctx ((r.desc.at_ + 0x38) % 2 ^ 64) 4 .write with
    | .error c => s.runFault r c 0
    | .ok xs =>
      let locs := rangeLocs xs
      if s.pathOwned r.ctx ((r.desc.at_ + 0x38) % 2 ^ 64) 4 || locs.any s.hostOwns || s.sourceHeld none locs then s
      else match s.singleton (locs.zip r.result) with
      | .done t =>
        let t := ((t.ownWrites locs).fillPath r.ctx ((r.desc.at_ + 0x38) % 2 ^ 64) 4).mapLaunch l.num fun x =>
          { x with flags := x.flags ||| r.flags }
        ({ t with runs := t.runs.filter fun x => x.num ≠ r.num }.complete l.num).getD s
      | _ => s

/-- Bytes of the bitmap of a near-bank launch follow its bits (R280). -/
def State.saveBits (s : State) (l : Launch) : Option State :=
  s.tryWrite l.ctx (l.fields.save + 4096) (leBytes ((l.fields.groups + 7) / 8) l.bitmap)

/-- A group that is over sets its bit and leaves its core. -/
def State.endGroup (s : State) (l : Launch) (g : Nat) : Option State :=
  (s.setBit l g).bind fun t =>
    (t.mapLaunch l.num fun z => { z with groups := z.groups.filter fun k => k.index ≠ g }).freeCores.complete l.num

/-- GROUP_COMPLETE (R279): the last group ends the launch. For a near-bank launch it ends the run. A write that must wait is
tried again with the whole. -/
def execGroupComplete (l g : Nat) (s : State) : Host.Outcome State Fault Refusal :=
  .next (match s.launch? l with
    | none => s
    | some x =>
      match x.desc with
      | some _ => match s.runs.find? fun r => r.launch == l && r.op.isNone with
        | some r => ((s.saveBits x).map fun t => t.completeRun x r).getD s
        | none => s
      | none => match x.group? g with
        | none => s
        | some y => if s.groupOver x y then (s.endGroup x g).getD s else s)

/-! ### The end of a launch by a fault (R342, R343) -/

/-- Operations of a launch other than REDs are abandoned, and its runs stop (R343, R412). The flags that they have raised are left
out of the record. DESIGN CHOICE: log 67. -/
def State.settleLaunch (s : State) (l : Nat) : State :=
  let s := s.runs.foldl (fun s r => if r.launch = l then s.dropRun r false else s) s
  let gone (o : Op) : Bool := o.launch == l && (match o.kind with | .red _ => false | _ => true)
  let nums := (s.ops.filter gone).map fun o => o.num
  { s with
    ops := s.ops.filter fun o => !gone o
    engines := s.engines.map fun e =>
      { e with queue := e.queue.filter fun n => !nums.contains n
               running := e.running && !nums.contains (e.queue.headD 0) } }

/-- Step 2 of R342: uncommitted chunks are discarded. -/
def State.discardChunks (s : State) (l : Nat) : State :=
  s.mapLaunch l fun x => { x with groups := x.groups.map fun g => { g with warps := g.warps.map fun w =>
    { w with arch := w.chunk.start, chunk := Chunk.fresh w.chunk.start } } }

/-- LAUNCH_FAULT_END: released REDs are applied first, then the launch leaves its barriers and its record is written
(R342). DEDUCED: log 53. -/
def execLaunchFaultEnd (l : Nat) (s : State) : Host.Outcome State Fault Refusal :=
  .next (match s.launch? l with
    | none => s
    | some x =>
      if x.fault.isNone && !x.saveInvalid then s
      else
        let s := (s.settleLaunch l).discardChunks l
        if s.ops.any fun o => o.launch == l then s
        else match s.endLaunch x (if x.saveInvalid && x.fault.isNone then 2 else 1) 3 with
          | some t => (t.failDependents x.queue x.pos).freeCores
          | none => s)

end Sys2Proof.Machine
end

