-- ==== Sys2Proof/Machine/Round.lean ====
section
/-! DEFINITION. The end of waits (R190, R242, R245, R254, R266, R269, R302, R303, R382), and commit rounds in reproducible
mode (R191, R192, R344). -/

namespace Sys2Proof.Machine

/-! ### Barriers (R266) -/

/-- A barrier after its phase has completed. -/
def Barrier.next (b : Barrier) : Barrier := { phase := b.phase + 1, arrived := [], least := none }

/-- A core barrier's phase is complete: the live members' arrivals reach the expected count. -/
def Barrier.coreDone (b : Barrier) (g : Group) : Bool :=
  let live := (upTo g.warps.length).filter fun n => match g.warps[n]? with | some w => !w.ended | none => false
  let here := (live.filter b.arrived.contains).length
  let want := match b.least with | some n => min live.length n | none => live.length
  !b.arrived.isEmpty && decide (0 < here) && decide (want ≤ here)

/-- A group of a launch has not ended. -/
def Launch.groupLive (l : Launch) (n : Nat) : Bool :=
  match l.group? n with
  | some g => !g.warps.all Warp.ended
  | none => !l.bitmap.testBit n

/-- Every live warp of the group has arrived. -/
def Launch.groupArrived (l : Launch) (b : Barrier) (n : Nat) : Bool :=
  match l.group? n with
  | none => false
  | some g => (upTo g.warps.length).all fun w => (match g.warps[w]? with | some x => x.ended | none => true)
      || b.arrived.contains (n * 32 + w)

/-- A barrier over some groups is complete. DEDUCED: log 32. -/
def Barrier.groupsDone (b : Barrier) (l : Launch) (members : List Nat) : Bool :=
  let live := members.filter l.groupLive
  !b.arrived.isEmpty && !live.isEmpty && live.all (l.groupArrived b)

/-- Groups of a quad placement (R21). -/
def Launch.quadMates (l : Launch) (k : Nat) : List Nat :=
  (upTo 4).filterMap fun j => if 4 * k + j < l.fields.groups then some (4 * k + j) else none

/-- Every peer of the launch has arrived in a package barrier's phase (R266). DEDUCED: log 32. -/
def Launch.peersDone (l : Launch) (arrives : Nat → Bool) : Bool :=
  decide (l.peers = 0) || (upTo 64).all fun p => !l.peers.getLsbD p || arrives p

/-- Completes every phase that can; `arrives` tells which peers have arrived in a phase. -/
def Launch.stepBarriers (arrives : Nat → Nat → Bool) (l : Launch) : Launch :=
  let all := upTo l.fields.groups
  let bump (done : Bool) (b : Barrier) : Barrier := if done then b.next else b
  { l with
    groups := l.groups.map fun g => { g with bars := g.bars.map fun b => bump (b.coreDone g) b }
    quadBars := l.quadBars.map fun p => (p.1, bump (p.2.groupsDone l (l.quadMates p.1.1)) p.2)
    tierBars := l.tierBars.map fun p => (p.1, bump (p.2.groupsDone l all) p.2)
    pkgBars := l.pkgBars.map fun b => bump (b.groupsDone l all && l.peersDone (arrives b.phase)) b }

/-! ### The end of a wait -/

/-- Lanes of a wait go on at the next word; `f` is what the instruction still writes. The chunk's start follows where it
holds the same wait. -/
def State.endWait (s : State) (id : WarpId) (w : Wait) (f : Arch → Arch) (items : List Item) : State :=
  let go (a : Arch) : Arch := if a.waits.contains w then (f a).release w.lanes w.next else a
  s.mapWarp id fun x =>
    { x with
      arch := go x.arch
      chunk := { x.chunk with
        start := go x.chunk.start
        logged := if x.chunk.start.waits.contains w then x.chunk.logged
          else items.foldl (fun l y => insertNew y l) x.chunk.logged } }

/-- A wait changes what it waits for. -/
def State.changeWait (s : State) (id : WarpId) (w : Wait) (k : WaitKind) : State :=
  let go (a : Arch) : Arch := { a with waits := a.waits.map fun y => if y = w then { y with kind := k } else y }
  s.mapWarp id fun x => { x with arch := go x.arch, chunk := { x.chunk with start := go x.chunk.start } }

/-- The operations have been applied or published, and the records have ended (R190). -/
def State.settled (s : State) (l : Launch) (ops recs : List Nat) : Bool :=
  (s.ops.all fun o => !ops.contains o.num)
    && recs.all fun n => match l.rec? n with | some r => r.state != .pending | none => true

/-- Nothing that the context released before a beat is outstanding (R190). -/
def State.beatClear (s : State) (c : CtxKey) (tick : Nat) : Bool :=
  let mine (n : Nat) : Bool := match s.launch? n with | some l => l.ctx == c | none => false
  (s.ops.all fun o => !mine o.launch || decide (tick ≤ o.beat))
    && s.launches.all fun l => l.ctx != c || l.groups.all fun g => g.gangs.all fun r => r.arrivals.all fun a => decide (tick ≤ a.beat)

/-- Writes a predicate in the lanes of a wait. -/
def Arch.waitPred (a : Arch) (w : Wait) (pd : Nat) (b : Bool) : Arch :=
  { a.setPred pd w.active (fun _ => b) with poison := clearPoison [.p pd] w.active a.poison }

/-- A wait at a barrier ends with its phase; an arrival that waited counts in the next one (R266). -/
def State.wakeBarrier (s : State) (id : WarpId) (w : Wait) (lv : Level) (n phase : Nat) (arrive : Option (Option Nat × Bool)) :
    State :=
  let b := s.barrier id.launch id.group lv n
  if b.phase = phase then s
  else match arrive with
    | none => s.endWait id w (fun a => a) []
    | some (cnt, thenWait) =>
      let bit := memberBit lv id
      if b.arrived.contains bit then s.changeWait id w (.barArrive lv n cnt b.phase thenWait)
      else
        let s := s.setBarrier id.launch id.group lv n (b.arrive bit cnt)
        if thenWait then s.changeWait id w (.barWait lv n b.phase) else s.endWait id w (fun a => a) []

/-- HWAIT and HTEST end when their operation's state is no longer Pending (R101, R242). -/
def State.wakeHandle (s : State) (id : WarpId) (l : Launch) (x : Warp) (w : Wait) (r : HReg) (h : Nat) (pd : Option Nat)
    (test : Bool) : State :=
  let r := match x.arch.h.getD h none with | some y => if y.num = r.num then y else r | none => r
  let st := l.handleState r
  if st == .pending then s
  else if handleFails st pd test then
    s.takeFault id { code := .transformFailed, lane := lowestLane w.active, warp := id.warp, group := id.group, pc := w.pc }
  else
    let fl := l.recFlags id r.num
    s.endWait id w (fun a => a.handleEnd r st fl w.active pd test) (x.arch.handleItems r st fl pd)

/-- The pre-emption phase of a context. -/
def State.phaseOf (s : State) (c : CtxKey) : CtxPhase := match s.context? c with | some x => x.phase | none => .running

/-- One wait of a warp, once its condition holds. Waits that act on the machine end only when no squash can undo them. A YDONE that
waits while no pre-emption of its context is in progress goes on at the word after it. DESIGN CHOICE: log 74. -/
def State.wakeWait (s : State) (id : WarpId) (w : Wait) : State :=
  match s.launch? id.launch, s.warp? id with
  | some l, some x =>
    let plain (b : Bool) : State := if b then s.endWait id w (fun a => a) [] else s
    let firm := x.chunk.start.waits.contains w
    match w.kind with
    | .barArrive lv n cnt phase thenWait => if firm then s.wakeBarrier id w lv n phase (some (cnt, thenWait)) else s
    | .barWait lv n phase => s.wakeBarrier id w lv n phase none
    | .settle ops recs => plain (s.settled l ops recs)
    | .beat tick => plain (decide (tick < s.beatOf l.ctx) && s.beatClear l.ctx tick)
    | .word a gen =>
      if ((upTo 8).map a.plus).any s.isPoisoned then
        s.takeFault id { code := .poison, lane := lowestLane w.active, warp := id.warp, group := id.group, pc := w.pc, addr := a.addr }
      else plain (bits (s.arrivalWord a) 48 16 != gen)
    | .handle r h pd test => s.wakeHandle id l x w r h pd test
    | .sleep d rounds => plain (rounds && decide (d ≤ s.beatOf l.ctx))
    | .depdone ops recs =>
      if firm && s.settled l ops recs then (s.mapWarp id fun y => { y with depArrived := true }).endWait id w (fun a => a) []
      else s
    | .ydone ops recs =>
      if firm && s.settled l ops recs then
        if s.phaseOf l.ctx == .yielding then s.mapWarp id fun y => { y with ydone := true } else s.endWait id w (fun a => a) []
      else s
    | .stepend n flag pd =>
      match getKey n (s.part l.ctx.part).regions with
      | none => if firm then s.endWait id w (fun a => a.waitPred w pd false) [] else s
      | some r =>
        if firm && !s.stepWaits l.ctx r flag then
          let (t, ok) := s.stepEnd id l.ctx n flag
          t.endWait id w (fun a => a.waitPred w pd ok) []
        else s
    | .scrub c d =>
      if firm && (match s.context? c with | some y => !y.scrubbing | none => true) then
        s.endWait id w (fun a => { a.setReg (.s (fin32 d)) 0 0 with poison := clearPoison [.s d] w.active a.poison }) []
      else s
    | .wsync _ => s
    | .txend => s
    | .brk => s
  | _, _ => s

/-- Groups whose live warps have all passed DEPDONE set their bits (R302). -/
def State.depBits (s : State) : State :=
  s.launches.foldl (fun s l => l.groups.foldl (fun s g =>
    let live := g.warps.filter fun w => !w.ended
    if !g.bitSet && !live.isEmpty && live.all (fun w => w.depArrived) then
      match (s.launch? l.num).bind fun x => s.setBit x g.index with
      | some t => t.mapGroup l.num g.index fun y => { y with bitSet := true }
      | none => s
    else s) s) s

/-- The peers that have arrived in a phase: what a lost one sends is dropped (R361). -/
def State.arrivesNow (s : State) (phase p : Nat) : Bool := Config.peerArrives s.steps phase p && !s.lost.contains (.peer p)

/-- Barrier phases complete, and waits whose condition holds end. -/
def State.wakeAll (s : State) : State :=
  let s := { s with launches := s.launches.map (Launch.stepBarriers s.arrivesNow) }
  (s.allWarps.flatMap fun p => p.2.arch.waits.map fun w => (p.1, w)).foldl (fun s p =>
    match s.group? p.1.launch p.1.group with
    | some g => if g.resident then s.wakeWait p.1 p.2 else s
    | none => s) s

/-- What follows every step: phases complete and waits end, as often as there are waits, since an arrival that waited may
complete its next phase (R266); then bits are set, runs are released, finished runs publish, and faults of
operations are taken in their rounds. -/
def State.settle (s : State) : State :=
  let waits := (s.allWarps.map fun p => p.2.arch.waits.length).sum
  let s := (upTo (waits + 1)).foldl (fun s _ => s.wakeAll) s
  let s := s.depBits
  (s.launches.foldl State.releaseRun s).publishRuns.takeStops

/-! ### Turns (R191) -/

/-- The chunk has issued nothing that is not committed: the warp stands at a chunk boundary (R292). -/
def Warp.atBoundary (w : Warp) : Bool := !w.chunk.ended && decide (w.chunk.count ≤ w.chunk.base) && w.arch.tx.isNone

/-- The launch and its context let its warps run: a launch without a handler stops at a pre-emption (R292, R342). -/
def State.launchRuns (s : State) (l : Launch) : Bool :=
  l.live && l.fault.isNone && !l.saveInvalid
    && (match s.phaseOf l.ctx with | .running => true | .yielding => l.fields.yield != 0 | _ => false)

/-- Launches by queue index, then position (R191). -/
def insertLaunch (l : Launch) : List Launch → List Launch
  | [] => [l]
  | x :: xs =>
    if l.queue.idx < x.queue.idx || (l.queue.idx = x.queue.idx && l.pos < x.pos) then l :: x :: xs else x :: insertLaunch l xs

/-- Groups by index: the order of their dispatch does not matter, which a pre-emption can change (R191, R197). -/
def insertGroup (g : Group) (gs : List Group) : List Group :=
  (gs.takeWhile fun x => decide (x.index < g.index)) ++ g :: gs.dropWhile fun x => decide (x.index < g.index)

/-- Live warps of a context in logical order: queue, position, group, warp. A launch that a pre-emption has stopped keeps its
turns, so that the order is the same as without the pre-emption (R197). -/
def State.turns (s : State) (c : CtxKey) : List (WarpId × Warp) :=
  let ls := (s.launches.filter fun l => l.ctx == c && l.live && l.fault.isNone && !l.saveInvalid).foldr insertLaunch []
  ls.flatMap fun l => ((l.groups.filter fun g => g.resident && g.fill == .done).foldr insertGroup []).flatMap fun g =>
    (g.warps.zipIdx.filter fun p => !p.1.ended).map fun p => (⟨l.num, g.index, p.2⟩, p.1)

/-- The warp whose turn it is. -/
def State.turn? (s : State) (c : CtxKey) : Option (WarpId × Warp) := (s.turns c).find? fun p => !p.2.turnDone

/-- Operations of a context whose round has come: they publish before any further turn (R191, R192, R243). -/
def State.opsDue (s : State) (c : CtxKey) : Bool :=
  s.ops.any fun o => s.due o && (match s.launch? o.launch with | some l => l.ctx == c | none => false)

/-- The machine without other contexts' groups, and with the splits that the context's own give its cores: whether a group can
enter a round does not hang on the others (R4, R192). -/
def State.alone (s : State) (c : CtxKey) : State :=
  let mine := s.launches.flatMap fun l => if l.ctx = c then l.groups.filter fun g => g.resident else []
  { s with
    splits := mine.foldl (fun t g => setKey g.core g.split t) []
    launches := s.launches.map fun l =>
      if l.ctx = c then l else { l with homes := [], groups := l.groups.map fun g => { g with resident := false } } }

/-- Some group of the context could be placed if the context had the machine to itself. -/
def State.dispatchable (s : State) (c : CtxKey) : Bool :=
  let t := s.alone c
  s.launches.any fun l => l.ctx == c && (match s.readyGroup l with | some g => allCores.any (t.placeable l g) | none => false)

/-- Something that the round waits for: admissions, dispatches, fills, completions and ends of launches (R191, R192). -/
def State.roundBusy (s : State) (c : CtxKey) : Bool :=
  (s.launches.any fun l => l.ctx == c && (l.fault.isSome || l.saveInvalid
    || (l.groups.any fun g => g.fill == .pending || s.groupOver l g)
    || s.runs.any fun r => r.launch == l.num && r.op.isNone && r.finished))
  || s.dispatchable c
  || s.queues.any fun q => q.ctx == c && q.slot.isSome && !q.blocked
      && (match s.headerWord q hdrHead with | some h => decide (h < q.target) | none => false)

/-- Faults of a context's launches that wait for the end of the round are taken (R344). -/
def State.takeEndFaults (s : State) (c : CtxKey) (which : FaultInfo → Bool) : State :=
  s.launches.foldl (fun s l => match l.endFault with
    | some f => if l.ctx = c && which f then (s.latchFault l.num f).mapLaunch l.num fun x => { x with endFault := none } else s
    | none => s) s

/-- The end of a round: faults attributed to launches are taken (R344). -/
def State.endRound (s : State) (c : CtxKey) : State :=
  let s := s.mapContext c fun x => { x with rounds := x.rounds + 1 }
  let fresh (g : Group) : Group := { g with warps := g.warps.map fun w => { w with turnDone := false } }
  let s : State := { s with launches := s.launches.map fun l => if l.ctx = c then { l with groups := l.groups.map fresh } else l }
  s.takeEndFaults c fun _ => true

/-- A round that cannot go on now does not keep a launch that the watchdog or the loss of an agent ends: it may never end
(R298, R360). DEDUCED: log 19. -/
def State.endStuck (s : State) (c : CtxKey) : State := s.takeEndFaults c fun f => f.code == .watchdog || f.code == .agentLost

/-- A round is in progress: the context has a live warp, an operation whose publish has a round, or a fault for the end of the
round. Between launches no round passes, so that their count does not hang on the time between them (R4, R189). DEDUCED: log 19. -/
def State.inRound (s : State) (c : CtxKey) : Bool :=
  !(s.turns c).isEmpty
    || (s.ops.any fun o => o.publishRound.isSome && (match s.launch? o.launch with | some l => l.ctx == c | none => false))
    || s.launches.any fun l => l.ctx == c && l.endFault.isSome

/-- The warp passes its turn, or has had it. -/
def State.passTurn (s : State) (id : WarpId) : State := s.mapWarp id fun x => { x with turnDone := true }

/-- A run that waits to be pinned keeps the chunk from its commit or from its row, and the chunk keeps the run from its
pinning. -/
def State.runBlocks (s : State) (c : Chunk) : Bool :=
  s.ops.any fun o => s.runWaits o && touchesAny c.loose o.sources

/-- A warp passes its turn. A chunk that then still holds lines, written or read, which are to be recalled squashes (R357). -/
def State.passOver (s : State) (id : WarpId) (c : Chunk) : State :=
  (if s.holdsRows c then (s.mapWarp id Warp.squash).countSquash id.launch else s).passTurn id

/-- The warp's core has been declared lost: it issues nothing more (R360). -/
def State.onLost (s : State) (id : WarpId) : Bool :=
  match s.group? id.launch id.group with | some g => s.lost.contains (.core g.core) | none => false

/-- One turn: a fault is taken, an ended chunk commits, a warp that only waits passes (R191, R344); a chunk that holds lines
which a run must recall squashes at its turn (R357), and a warp of a lost core does nothing (R360). DEDUCED: log 19. -/
def State.takeTurn (s : State) (id : WarpId) (w : Warp) : State :=
  if !(match s.launch? id.launch with | some l => s.launchRuns l | none => false) then s
  else if s.onLost id then s.passTurn id
  else match w.fault with
  | some f => (s.latchFault id.launch f).passTurn id
  | none =>
    if s.runBlocks w.chunk then (s.mapWarp id Warp.squash).countSquash id.launch
    else if w.chunk.ended then
      match s.commitChunk id with
      | .done t => t.passTurn id
      | .fault t => t
      | .pass => s.passOver id w.chunk
      | .wait t => (match t.ctxOf id with | some k => t.endStuck k | none => t)
    else if w.chunk.pregrant == .waiting then
      (match s.ctxOf id with
        | some k => if s.grantOwn id k then s.passOver id w.chunk else s.endStuck k
        | none => s)
    else if w.handlerDue && w.atBoundary then s
    else if w.arch.candidates = 0 || w.ydone then s.passOver id w.chunk
    else s

/-- COMMIT_ROUND (R191): the turn at hand, or the end of the round when every warp has had its turn. -/
def execCommitRound (c : CtxKey) (s : State) : Host.Outcome State Fault Refusal :=
  .next (if !s.reproOf c || !(s.phaseOf c == .running || s.phaseOf c == .yielding) then s
    else if s.opsDue c then s.endStuck c
    else match s.turn? c with
      | some (id, w) => s.takeTurn id w
      | none => if s.roundBusy c then s.endStuck c else if s.inRound c then s.endRound c else s)

/-! ### Issue -/

/-- The warp may issue now (R178, R191, R249, R292, R360). -/
def State.canIssue (s : State) (id : WarpId) : Bool :=
  match s.launch? id.launch, s.group? id.launch id.group, s.warp? id with
  | some l, some g, some w =>
    s.launchRuns l && g.resident && !s.lost.contains (.core g.core) && g.fill == .done && !w.chunk.ended && w.chunk.pregrant != .waiting && !w.ydone
      && !(w.handlerDue && w.atBoundary) && w.fault.isNone && w.arch.candidates != 0
      && (!s.reproOf l.ctx || ((match s.turn? l.ctx with | some t => t.1 == id | none => false) && !s.opsDue l.ctx))
  | _, _, _ => false

end Sys2Proof.Machine
end

