-- ==== Sys2Proof/Machine/Preempt.lean ====
section
/-! DEFINITION. Pre-emption, saving and resuming (R169 to R171, R291 to R297, R303, R348), the watchdogs (R298, R299), and the
limits and releases of backing (R217, R218). -/

namespace Sys2Proof.Machine

/-! ### The start of a pre-emption (R291, R292, R294) -/

/-- Groups whose fill has not published return to the undispatched state. -/
def Launch.dropUnfilled (l : Launch) : Launch := { l with groups := l.groups.filter fun g => g.fill != .pending }

/-- A context is pre-empted: the cooperative phase begins, and its warps are due to enter their yield handlers. -/
def State.preempt (s : State) (c : CtxKey) : State :=
  if s.phaseOf c != .running then s
  else
    let s := s.mapContext c fun x => { x with phase := .yielding, since := s.cycle }
    let due (l : Launch) (w : Warp) : Warp :=
      { w with handlerDue := l.fields.yield != 0 && w.arch.yrec.isNone && !w.ended }
    let stop (l : Launch) : Launch :=
      let l := { l.dropUnfilled with preempt := l.preempt + 1 }
      { l with groups := l.groups.map fun g => { g with warps := g.warps.map (due l) } }
    let t : State := { s with launches := s.launches.map fun l => if l.ctx = c && l.live then stop l else l }
    t.freeCores

/-- The context has work that waits: it is saved, or has a group that could be dispatched but for room. -/
def State.hasWork (s : State) (c : Context) : Bool :=
  c.phase == .saved || s.launches.any fun l => l.ctx == c.key && (s.nextGroup l).isSome

/-- TIME_SLICE_EXPIRY (R291). -/
def execTimeSliceExpiry (c : CtxKey) (s : State) : Host.Outcome State Fault Refusal :=
  .next (match s.context? c with
    | none => s
    | some x =>
      if decide (x.since + (s.part c.part).slice ≤ s.cycle)
          && s.contexts.any fun y => y.key != c && y.key.part == c.part && y.key.fw == c.fw && s.hasWork y then s.preempt c
      else s)

/-! ### Yield handlers (R292) -/

/-- The yield record, and the warp at its handler: every lane that has not exited is Ready there with its registers intact. -/
def Arch.enterHandler (a : Arch) (handler : Nat) : Arch :=
  let y : YieldRec :=
    { pc := a.pc, st := a.st, waits := a.waits, rstack := a.rstack, fairF := a.fairF, fairC := a.fairC, fairNext := a.fairNext }
  { (a.setPc a.live fun _ => handler).setSt a.live .ready with waits := [], fairNext := none, yrec := some y }

/-- YIELD_HANDLER_ENTRY: at a chunk boundary (R292). DEDUCED: log 41. -/
def execYieldHandlerEntry (w : WarpId) (s : State) : Host.Outcome State Fault Refusal :=
  .next (match s.launch? w.launch, s.warp? w with
    | some l, some x =>
      if s.phaseOf l.ctx != .yielding || !x.handlerDue || !x.atBoundary then s
      else (s.mapWarp w fun y =>
        let a := y.arch.enterHandler l.fields.yield
        { y with arch := a, chunk := Chunk.fresh a, handlerDue := false }).releasePregrant w
    | _, _ => s)

/-! ### Save blocks (R170, R295) -/

def zeros (n : Nat) : List Byte := List.replicate n 0

/-- Bytes that the device alone understands. DESIGN CHOICE: log 44. -/
def saveFree (seed n : Nat) : List Byte := (upTo n).map fun k => Config.saveByte (seed + k)

/-- Tile images and state words (R87, R170). -/
def Tile.image (t : Tile) : List Byte := t.acc.flatMap fun x => leBytes 12 x.toNat
def Tile.word (t : Tile) : List Byte := leBytes 8 (t.steps % 128 + (if t.running then 128 else 0))

/-- The instruction words of an encoded tile operation. -/
def codeBytes (i : Instr) : List Byte :=
  match encode i with
  | .one w => leBytes 8 w ++ zeros 8
  | .two a b => leBytes 8 a ++ leBytes 8 b
  | .nb w => leBytes 4 w ++ zeros 12
  | .event => zeros 16

def TileKind.instr : TileKind → Instr
  | .mma a => .mma a
  | .accz a _ => .accz a
  | .accld a => .accld a
  | .accst a => .accst a

def valBytes4 (vals : List Word) : List Byte := (upTo 4).flatMap fun k => leBytes 4 (vals.getD k 0).toNat

/-- A saved operation: words, operand values, gang mask, warp, and issue-point sequence number. The issuing warp of a gang is its
lowest, and the mask of an operation other than an MMA is 0. DESIGN CHOICE: log 60. -/
def savedOp (o : Op) (t : TileOp) : List Byte :=
  codeBytes (TileKind.instr t.kind) ++ valBytes4 t.vals ++ leBytes 4 t.mask.toNat ++ leBytes 4 o.warp ++ leBytes 8 o.seq

/-- An open rendezvous. -/
def Rendezvous.bytes (r : Rendezvous) : List Byte :=
  (match r.arrivals with | x :: _ => codeBytes (.mma x.mma) ++ valBytes4 x.vals | [] => zeros 32)
    ++ leBytes 4 r.mask.toNat ++ leBytes 4 (r.arrivals.foldl (fun n x => n + 2 ^ x.warp) 0) ++ zeros 8

/-- Up to four rendezvous for each of up to eight masks. -/
def gangBytes (gs : List Rendezvous) : List Byte :=
  let masks := distinct (gs.map fun r => r.mask)
  (upTo 8).flatMap fun k => match masks[k]? with
    | none => zeros (4 * 48)
    | some m => (upTo 4).flatMap fun j => match (gs.filter fun r => r.mask == m)[j]? with
      | some r => r.bytes
      | none => zeros 48

/-- The matrix part of a group (R170). Every queued operation is saved, and the count is taken modulo 32. DESIGN CHOICE:
log 60. -/
def State.matrixPart (s : State) (l : Launch) (g : Group) : List Byte :=
  let ops := s.ops.filterMap fun o => match o.kind with
    | .tile t => if o.launch = l.num && o.group = g.index && !o.finished then some (savedOp o t) else none
    | _ => none
  (g.tiles.flatMap Tile.image) ++ (g.tiles.flatMap Tile.word) ++ leBytes 8 (ops.length % 32) ++ ops.flatten ++ gangBytes g.gangs

/-- Pads to a length. -/
def padTo (n : Nat) (bs : List Byte) : List Byte := bs ++ zeros (n - bs.length)

/-- The slot of a group: warp part, scratchpad, matrix part, copy part (R295). -/
def State.saveSlot (s : State) (l : Launch) (g : Group) : List Byte :=
  let f := l.fields
  let seed := s.steps * 2 ^ 40 + g.index * 2 ^ 24
  padTo f.slotBytes (saveFree seed (f.warps * (128 * f.regs + 1024))
    ++ memBytes g.spad 0 l.portion ++ padTo (3088 * f.tiles + 2560) (s.matrixPart l g) ++ saveFree (seed + 2 ^ 23) 73728)

/-- The save block: header, bitmap, one slot per live group (R295). -/
def State.saveBlock (s : State) (l : Launch) : List Byte :=
  let f := l.fields
  padTo f.saveBytes (saveFree (s.steps * 2 ^ 40 + 2 ^ 39) 4096
    ++ leBytes (alignUp ((f.groups + 7) / 8) 4096) l.bitmap ++ l.groups.flatMap (s.saveSlot l))

/-! ### The save (R169, R293) -/

/-- An engine still runs an operation other than an MMA of the context: it ends first (R169). -/
def State.engineBusy (s : State) (c : CtxKey) : Bool :=
  s.engines.any fun e => e.running && (match s.headOp e.id with
    | some (o, t) => s.ctxOf ⟨o.launch, o.group, o.warp⟩ == some c && (match t.kind with | .mma _ => false | _ => true)
    | none => false)

/-- The context's operations leave the engines. -/
def State.unloadEngines (s : State) (c : CtxKey) : State :=
  let mine (n : Nat) : Bool := match s.op? n with
    | some o => s.ctxOf ⟨o.launch, o.group, o.warp⟩ == some c
    | none => false
  { s with engines := s.engines.map fun e =>
      { e with running := e.running && !(match e.queue with | n :: _ => mine n | [] => false)
               queue := e.queue.filter fun n => !mine n } }

/-- A warp goes back to its chunk's start, and no handler is due; its pre-grant is kept (R178, R293). It counts in no record
(R296). -/
def Warp.saved (w : Warp) : Warp :=
  let x := if w.chunk.base < w.chunk.count || w.chunk.ended then w.squash else w
  { x with handlerDue := false }

/-- The saved groups' quad placements, and the tier and package of a launch with saved groups, are taken anew at the resume; a
launch between two groups keeps what it holds (R22). -/
def Launch.leaveCores (l : Launch) : Launch :=
  { l with
    homes := l.homes.filter fun p => !l.groups.any fun g => l.placeKey g.index == p.1
    groups := l.groups.map fun g => { g with resident := false } }

/-- One launch is saved; none while the write of its save block must wait. -/
def State.saveLaunch (s : State) (l : Launch) : Option State :=
  if !l.live || l.desc.isSome || l.groups.isEmpty then some s
  else
    let bs := s.saveBlock l
    (s.tryWrite l.ctx l.fields.save bs).map fun t => t.mapLaunch l.num fun x => { x.leaveCores with saved := some (l.fields.save, bs) }

/-- Everything of a context is saved as of its warps' chunk starts (R197, R293); none while a save block must wait. -/
def State.saveContext (s : State) (c : CtxKey) (phase : CtxPhase) : Option State :=
  let back (l : Launch) : Launch := { l with groups := l.groups.map fun g => { g with warps := g.warps.map Warp.saved } }
  let s : State := { s with launches := s.launches.map fun l => if l.ctx = c then back l else l }
  let s := s.unloadEngines c
  (s.launches.foldl (fun (t : Option State) l => if l.ctx = c then t.bind fun t => t.saveLaunch l else t) (some s)).map fun s =>
    (s.mapContext c fun x => { x with phase := phase, since := s.cycle }).freeCores

/-- Every warp that may run a handler has completed YDONE, or has ended. -/
def State.allYielded (s : State) (c : CtxKey) : Bool :=
  s.launches.all fun l => l.ctx != c || l.fields.yield == 0 || l.groups.all fun g => g.warps.all fun w => w.ydone || w.ended

/-- FORCED_SAVE_DEADLINE: 17,000 cycles after the pre-emption, or once nothing is left to yield; the halt of a BRK saves at
once (R292, R293, R348). -/
def execForcedSaveDeadline (c : CtxKey) (s : State) : Host.Outcome State Fault Refusal :=
  .next (match s.context? c with
    | none => s
    | some x =>
      if s.engineBusy c then s
      else match x.phase with
        | .yielding => if s.allYielded c || decide (x.since + 17000 ≤ s.cycle) then (s.saveContext c .saved).getD s else s
        | .halting => (s.saveContext c .halted).getD s
        | _ => s)

/-! ### Resume (R171, R296, R297, R303) -/

/-- A warp that completed YDONE restarts after it: its v registers and predicates are zero. -/
def Warp.resumeYield (w : Warp) : Warp :=
  if !w.ydone then w
  else
    let next := match w.arch.waits.find? fun x => match x.kind with | .ydone _ _ => true | _ => false with
      | some x => x.next
      | none => 0
    let live := w.arch.live
    let a := { (w.arch.setPc live fun _ => next).setSt live .ready with
      waits := [], v := w.arch.v.map fun r => r.map fun _ => 0, p := w.arch.p.map fun _ => 0
      poison := w.arch.poison.filter fun p => match p.1 with | .v _ => false | .p _ => false | _ => true }
    { w with arch := a, chunk := Chunk.fresh a, ydone := false }

/-- Lanes that wait at the BRK that halted their context go on (R348). -/
def Warp.resumeBrk (w : Warp) : Warp :=
  let wake (a : Arch) : Arch :=
    a.waits.foldl (fun a x => match x.kind with | .brk => a.release x.lanes x.next | _ => a) a
  let a := wake w.arch
  { w with arch := a, chunk := { w.chunk with start := wake w.chunk.start } }

/-- Saved groups of a context. -/
def State.savedGroups (s : State) (c : CtxKey) : List (Nat × Nat) :=
  s.launches.flatMap fun l => if l.ctx = c then (l.groups.filter fun g => !g.resident).map fun g => (l.num, g.index) else []

/-- Restores one group to a core, none where it does not fit. -/
def State.restoreGroup (s : State) (p : Placement) : Option State :=
  match s.launch? p.launch, s.group? p.launch p.group with
  | some l, some g =>
    if g.resident || !s.placeOne l p.group p.core then none
    else
      some (((s.setSplit l p.core).mapLaunch p.launch fun x => x.housed p.group p.core).mapGroup p.launch p.group fun x =>
        { x with core := p.core, evenEngine := s.evenFor p.core, resident := true, split := s.ownSplit l p.core
                 warps := x.warps.map fun (w : Warp) => w.resumeYield.resumeBrk })
  | _, _ => none

def State.restoreAll (s : State) : List Placement → Option State
  | [] => some s
  | p :: ps => (s.restoreGroup p).bind fun t => t.restoreAll ps

/-- A save block that software has changed (R297). DESIGN CHOICE: log 44. -/
def State.blockChanged (s : State) (l : Launch) : Bool :=
  match l.saved with
  | none => false
  | some (a, bs) => match s.readCtx l.ctx a bs.length with | .ok x => x != bs | .error _ => true

/-- Launches of a context that end at its resume, since their blocks were changed (R297). -/
def State.badBlocks (s : State) (c : CtxKey) : List Nat :=
  (s.launches.filter fun l => l.ctx == c && s.blockChanged l).map fun l => l.num

/-- The saved groups that are to return: but those of launches that end (R296, R297). -/
def State.toReturn (s : State) (c : CtxKey) : List (Nat × Nat) :=
  (s.savedGroups c).filter fun p => !(s.badBlocks c).contains p.1

/-- Groups that a pre-emption has made undispatched while others of their placement began (R294). -/
def Launch.strays (l : Launch) : List Nat :=
  if l.fields.span = 0 then []
  else l.undispatched.filter fun k => l.groups.any fun y => l.placeKey y.index == l.placeKey k

/-- They are dispatched again with the others' return, since they are co-resident with them (R21): none where there is no room
for one, or its fill waits for the host. DEDUCED: log 46. -/
def State.rejoin (s : State) (c : CtxKey) (bad : List Nat) : Option State :=
  s.launches.foldl (fun (t : Option State) l =>
    if l.ctx != c || bad.contains l.num || l.strays.isEmpty then t
    else t.bind fun t => (t.seatAll l.num l.strays).bind (t.placeGroups l)) (some s)

/-- A saved launch's block cannot be read now: the host holds it, or no request can be sent to it (R187, R397). -/
def State.blocksHeld (s : State) (c : CtxKey) : Bool :=
  s.launches.any fun l => l.ctx == c && (match l.saved with | some (a, bs) => s.ctxOwned c a bs.length | none => false)

/-- The machine with a context's saved groups on some cores; none where they are not room for all, or a block cannot be read
(R171, R296). The blocks' lines fill windows (R112). -/
def State.returned (s : State) (c : CtxKey) (places : List Placement) : Option State :=
  if s.blocksHeld c then none
  else
  let s := s.launches.foldl (fun s l => if l.ctx == c then (match l.saved with | some (a, bs) => s.fillCtx c a bs.length | none => s) else s) s
  (s.restoreAll places).bind fun t => t.rejoin c (s.badBlocks c)

/-- Places for some saved groups, the first that leave room for all of them and for what returns with them. -/
def State.resumeCores (s : State) (c : CtxKey) (bad : List Nat) : List (Nat × Nat) → Option (List Placement)
  | [] => if (s.rejoin c bad).isSome then some [] else none
  | p :: ps => allCores.findSome? fun k =>
    (s.restoreGroup ⟨p.1, p.2, k⟩).bind fun t => (t.resumeCores c bad ps).map fun l => ⟨p.1, p.2, k⟩ :: l

/-- Places for every group that returns, none where there is no room for all of them now. -/
def State.resumePlaces (s : State) (c : CtxKey) : Option (List Placement) := s.resumeCores c (s.badBlocks c) (s.toReturn c)

/-- The context's tile operations return to their engines' queues in issue-point order (R171). -/
def State.reloadEngines (s : State) (c : CtxKey) : State :=
  s.ops.foldl (fun s o => match o.kind with
    | .tile t => if s.ctxOf ⟨o.launch, o.group, o.warp⟩ == some c && !o.finished then s.enqueue o t else s
    | _ => s) s

/-- CONTEXT_RESUME (R296): every saved group returns, to the named cores; a launch whose block was changed ends. -/
def execContextResume (c : CtxKey) (places : List Placement) (s : State) : Host.Outcome State Fault Refusal :=
  .next (match s.context? c with
    | none => s
    | some x =>
      if x.phase != .saved || s.roleChange.isSome || (!c.fw && s.unnumbered c.part) then s
      else
        let bad := s.badBlocks c
        let want := s.toReturn c
        let named := places.map fun p => (p.launch, p.group)
        if !(want.all named.contains) || !(named.all want.contains) then s
        else match s.returned c places with
          | none => s
          | some t =>
            let t : State := { t with launches := t.launches.map fun l =>
              if l.ctx = c then { l with saved := none, saveInvalid := l.saveInvalid || bad.contains l.num } else l }
            (t.reloadEngines c).mapContext c fun y => { y with phase := .running, since := s.cycle })

/-! ### Priority (R291) -/

/-- A launch cannot be placed now: no core takes its next group, or the saved groups of its context cannot all return. -/
def State.unplaced (s : State) (l : Launch) : Bool :=
  let stuck : Bool := match s.readyGroup l with | some g => !allCores.any (s.placeable l g) | none => false
  match s.phaseOf l.ctx with
  | .running => (s.nextGroup l).isSome && stuck
  | .saved => l.live && (stuck || ((!l.groups.isEmpty || (s.readyGroup l).isSome) && (s.resumePlaces l.ctx).isNone))
  | _ => false

/-- A launch takes precedence over every live launch of a context: by priority within the partition, and as firmware that serves
the partition and has no quads but the partition's (R291, R315, R317). DEDUCED: log 12. -/
def State.above (s : State) (x : Launch) (c : CtxKey) : Bool :=
  (x.ctx.part == c.part && x.ctx.fw == c.fw && s.launches.all fun l => l.ctx != c || !l.live || decide (l.fields.prio < x.fields.prio))
    || (x.ctx.fw && !c.fw && x.serves == some c.part && !s.unownedCore && allCores.any (s.coreFor x))

/-- PRIORITY_PREEMPTION: such a launch of another context cannot be placed (R291). -/
def execPriorityPreemption (c : CtxKey) (s : State) : Host.Outcome State Fault Refusal :=
  .next (if s.launches.any fun x => x.ctx != c && s.unplaced x && s.above x c then s.preempt c else s)

/-! ### Watchdogs (R298, R299) -/

/-- Kinds of wait: external, not external, or neither. -/
inductive WaitClass where
  | external | internal | neither
  deriving DecidableEq, Repr

def State.waitClass (s : State) (l : Launch) (w : Wait) : WaitClass :=
  match w.kind with
  | .barArrive .pkg _ _ _ _ | .barWait .pkg _ _ => if l.peers = 0 then .internal else .external
  | .word a _ => if flag (s.arrivalWord a) 47 then .external else .internal
  | .handle r _ _ _ => match l.rec? r.num with
    | some x => if x.external then .external else .internal
    | none => .internal
  | .scrub _ _ => .external
  | .sleep _ _ => .neither
  | _ => .internal

/-- Where a late operation of the launch holds the round, its warps wait for the operation (R192, R298). DEDUCED: log 19. -/
def State.roundWaits (s : State) (l : Launch) : List WaitClass :=
  (s.ops.filter fun o => o.launch == l.num && o.publishRound.isSome && s.due o).map fun o =>
    if o.recs.any fun r => (match l.rec? r.2 with | some x => x.external | none => false) then .external else .internal

/-- Classes of what a warp waits for. A chunk that cannot commit waits too; a warp that waits for backing counts as nothing. -/
def State.warpWaits (s : State) (l : Launch) (w : Warp) : List WaitClass :=
  if w.chunk.poolSince.isSome then []
  else (w.arch.waits.map (s.waitClass l)) ++ (if w.chunk.ended then [.internal] else []) ++ s.roundWaits l

/-- The lowest group of a launch with a wait that is not external (R288). -/
def State.stuckGroup (s : State) (l : Launch) : Option Nat :=
  (l.groups.filter fun g => g.resident && g.warps.any fun w => !w.ended && (s.warpWaits l w).contains .internal).foldl
    (fun b g => match b with | none => some g.index | some n => some (min n g.index)) none

/-- NO_COMMIT_WATCHDOG_EXPIRY (R298). -/
def execNoCommitWatchdogExpiry (c : CtxKey) (s : State) : Host.Outcome State Fault Refusal :=
  .next (match s.context? c with
    | none => s
    | some x =>
      if !x.phase.resident || x.watch < Config.watchdogCycles then s
      else s.launches.foldl (fun t l =>
        if l.ctx = c then match s.stuckGroup l with
          | some g => t.launchFault l.num { code := .watchdog, group := g }
          | none => t
        else t) s)

/-- The oldest live launch of a context. -/
def State.oldest (s : State) (c : CtxKey) : Option Launch := s.launches.find? fun l => l.ctx == c && l.live

/-- EXTERNAL_WAIT_LIMIT: every waiting warp waits externally, and the limit has passed again (R299). -/
def execExternalWaitLimit (c : CtxKey) (s : State) : Host.Outcome State Fault Refusal :=
  .next (match s.context? c, s.oldest c with
    | some x, some l =>
      let lim := (s.part c.part).extWait
      let classes := s.launches.flatMap fun y => if y.ctx = c then y.groups.flatMap fun g => g.warps.flatMap (s.warpWaits y) else []
      if lim = 0 || !x.phase.resident || x.watch < (x.extSent + 1) * lim || !classes.contains .external
          || classes.contains .internal then s
      else (s.mapContext c fun y => { y with extSent := y.extSent + 1 }).notifyPart c.part 2 (ctxId c) (l.id.setWidth 64) 0
    | _, _ => s)

/-! ### Backing (R217, R218) -/

/-- The wait for backing has passed the partition's limit. -/
def State.poolLate (s : State) (p : Nat) (since : Option Nat) : Bool :=
  match since with | some n => decide (n + (s.part p).poolWait ≤ s.cycle) | none => false

/-- The fault of a chunk that found no backing: the store that first needed the page, which is the first of a byte other than
the default (R80, R216). Pages of external regions draw on no pool, and of several pages that the pool must give, the one that
the chunk stored to first is named. DESIGN CHOICE: log 9. -/
def Chunk.noBacking (c : Chunk) (s : State) (w : WarpId) : FaultInfo :=
  let need := (s.toAllocate c.resets c.writes).filter s.drawsPool
  match c.firstStore.find? fun p => need.contains p.1 with
  | some (x, pc, lane) =>
    { code := .backingExhausted, lane := lane, warp := w.warp, group := w.group, pc := pc, addr := canonForm x.addr }
  | none => { code := .backingExhausted, warp := w.warp, group := w.group }

/-- What an operation writes where it can need backing. -/
def State.opBytes (s : State) (o : Op) : List (Loc × Byte) :=
  match o.kind with
  | .red r => r.locs.zip (leBytes r.locs.length (aopApply r.op r.ty (leNat (r.locs.map s.byteAt)) r.value.toNat).1)
  | _ => o.shadow.getD []

/-- The page that an operation's writes need of the pool. -/
def State.opPage (s : State) (o : Op) : Nat :=
  match (s.toAllocate [] (s.opBytes o)).filter s.drawsPool with | x :: _ => canonForm x.addr | [] => 0

/-- Backing for some writes is still missing (R217). -/
def State.lacks (s : State) (resets : List Loc) (ws : List (Loc × Byte)) : Bool := (s.place resets ws).isNone

/-- POOL_WAIT_EXPIRY (R217). -/
def execPoolWaitExpiry (x : PoolWaiter) (s : State) : Host.Outcome State Fault Refusal :=
  .next (match x with
    | .chunk w => match s.ctxOf w, s.warp? w with
      | some c, some y =>
        if s.poolLate c.part y.chunk.poolSince && s.lacks y.chunk.resets y.chunk.writes then s.takeFault w (y.chunk.noBacking s w) else s
      | _, _ => s
    | .op n => match s.op? n with
      | some o => match s.launch? o.launch with
        | some l => if s.poolLate l.ctx.part o.poolSince && s.lacks [] (s.opBytes o) then s.opFault o .backingExhausted (s.opPage o) else s
        | none => s
      | none => s
    | .stall n k => match s.run? n with
      | some r => match r.stall? k with
        | some y =>
          if s.poolLate r.part y.poolSince && (s.part r.part).pool.isEmpty then
            s.runOpFault r .backingExhausted ((match y.open_.bind (s.openLoc r y) with | some z => canonForm z.page.addr | none => 0))
              (y.row.getD 0 / 32)
          else s
        | none => s
      | none => s)

/-- PAGE_RELEASE: in free mode a page that equals its default is released at its home slice (R218). The mode is that of the context
that requested the region. DESIGN CHOICE: log 72. -/
def execPageRelease (part va : Nat) (s : State) : Host.Outcome State Fault Refusal :=
  let x : Loc := { space := .region part, addr := va / 65536 * 65536 }
  .next (match s.regionAt part x.addr with
    | none => s
    | some (_, r) =>
      let t : Touch := { words := [], wiped := [], states := [x] }
      if !r.sparse || s.reproOf { part := part, ctx := r.ctx, fw := false } || !s.isBacked x || !s.releasable x || s.pinnedPage x
          || s.dirty.any (fun d => d.line.page = x) || s.heldBack none t then s
      else s.releasePage none x)

end Sys2Proof.Machine
end

