-- ==== Sys2Proof/Machine/Roll.lean ====
section
/-! DEFINITION. The Assize Roll (R330 to R332), the freeing and scrubbing of pages and contexts (R333, R334), and mailbox answers
(R316, R393). -/

namespace Sys2Proof.Machine

/-! ### The Assize Roll -/

/-- Bytes 0x00 to 0xC7 of an entry (R330). -/
def RollEntry.bytes (e : RollEntry) (seq : Nat) : List Byte :=
  leBytes 8 seq ++ leBytes 8 e.beat ++ leBytes 2 e.type ++ leBytes 1 e.src ++ leBytes 2 e.ctxid ++ leBytes 3 0 ++ e.body ++ e.prev

/-- Hash of the newest entry; 48 zeros before the first. -/
def State.rollHead (s : State) : List Byte := match s.roll.getLast? with | some e => e.hash | none => zeros 48

/-- Entries that can still be appended: every scrub and role change in progress has one reserved (R332). -/
def State.rollFree (s : State) : Nat :=
  Config.rollEntries - (s.roll.length + (s.contexts.filter fun c => c.scrubbing).length + (if s.roleChange.isSome then 1 else 0))

/-- A notification to the partition manager and to every partition. -/
def State.notifyHost (s : State) (kind : Nat) : State :=
  ((upTo 16).filter fun p => (s.part p).exists_).foldl (fun s p => s.notifyPart p kind 0x7FF 0 0) (s.notifyAdmin kind 0x7FF 0 0)

/-- Appends an entry; the host is told when 90 per cent are used (R330, R332). -/
def State.appendRoll (s : State) (type src ctx : Nat) (body : List Byte) : State :=
  let e : RollEntry := { beat := s.beat, type := type, src := src, ctxid := ctx, body := body, prev := s.rollHead, hash := [] }
  let n := s.roll.length
  let t := { s with roll := s.roll ++ [{ e with hash := sha384 (e.bytes n) }] }
  if 10 * n < 9 * Config.rollEntries && 9 * Config.rollEntries ≤ 10 * (n + 1) then t.notifyHost 6 else t

/-- A hardware entry: its BODY's layout is the device's own (R331). DEDUCED: log 21. -/
def State.hwRoll (s : State) (type ctx : Nat) (data : List Byte) : State :=
  s.appendRoll type 0 ctx ((upTo 128).map (Config.rollBody type data))

/-! ### Pages (R333, R334) -/

/-- Pages that a place lies on. -/
def State.onPages (s : State) (pages : List Nat) (x : Loc) : Bool :=
  match s.placeOf x with | some pa => pages.contains (pa / 65536) | none => false

/-- A location of the pages under its physical name. -/
def State.physName (s : State) (pages : List Nat) (x : Loc) : Loc :=
  match s.placeOf x with
  | some pa => if pages.contains (pa / 65536) then { space := .dev, addr := pa } else x
  | none => x

/-- Pages become free through scrubbing: SCRB is set at one place in the order, and cached lines of the pages are invalid, in the
cores, in the slices, and in the host (R6, R112, R187). No region holds them any more, and the poison in them goes by their physical
addresses until they are zeroed. -/
def State.freePages (s : State) (pages : List Nat) : State :=
  let t := pages.foldl (fun s pg => s.setRot pg { s.rotOf pg with scrb := true }) s
  { t with
    seq := t.seq + 1
    dirty := t.dirty.filter fun d => !s.onPages pages d.line
    halves := t.halves.filter fun h => !s.onPages pages h.1
    poison := t.poison.map (s.physName pages)
    parts := t.parts.map fun (p : Partition) => { p with regions := p.regions.map fun r =>
      if r.2.sparse then (r.1, { r.2 with backed := r.2.backed.filter fun b => !pages.contains b.2 }) else r }
    winLines := t.winLines.filter fun a => !pages.contains (a / 65536) }

/-- A freed page holds zeros, no poison, and is class 0 with SCRB clear. -/
def State.zeroPage (s : State) (pg : Nat) : State :=
  { s with mem := memZero s.mem (pg * 65536) 65536, poison := s.poison.filter fun y => !s.onPages [pg] y }.setRot pg
    { RotEntry.reset with scrb := false }

/-- Class-1 pages of a context. -/
def State.ctxPages (s : State) (c : CtxKey) : List Nat :=
  s.rotPages.filter fun pg => let e := s.rotOf pg; e.cls == 1 && e.part == c.part && e.ctx == c.ctx

/-! ### Translation and answers -/

/-- Every translation changes at one place (R326). -/
def State.rtinv (s : State) (skip : Option WarpId) : State :=
  { s with seq := s.seq + 1 }.translationChange skip (fun _ => true) (fun _ => true)

/-- The answer at mailbox offset 0x200 (R316). -/
def State.answerReq (s : State) (admin : Bool) (p : Nat) (tag : Word) (status : Nat) : State :=
  if admin then { s with adminTag := tag, adminStatus := status }
  else s.mapPart p fun x => { x with tag := tag, status := status, serving := none }

/-- The context and its queues are gone; a later notify to them is dropped (R316). -/
def State.dropContext (s : State) (c : CtxKey) : State :=
  let gone := s.queues.filter fun q => q.ctx == c
  { s with
    contexts := s.contexts.filter fun x => x.key ≠ c
    queues := s.queues.filter fun q => q.ctx ≠ c
    slots := s.slots.filter fun n => !gone.any fun q => q.slot == some n }

/-! ### Scrubbing a context (R333, R340) -/

/-- What a scrub-completion entry records: the context, and the digest of its scrub report (R331). -/
def scrubData (c : CtxKey) : List Byte := leBytes 2 (ctxId c) ++ sha384 ((upTo 128).map (Config.scrubReport (ctxId c)))

/-- A scrub is complete when every freed page is zeroed: its entry is appended, and a release frees the number and ends as a
change of ownership does (R316).
DEDUCED: log 21. -/
def State.finishScrub (s : State) (c : CtxKey) : State :=
  match s.context? c with
  | none => s
  | some x =>
    if !x.scrubbing || !(s.ctxPages c).isEmpty then s
    else
      let t := (s.hwRoll 5 (ctxId c) (scrubData c)).mapContext c fun y => { y with scrubbing := false, release := none }
      match x.release with
      | some tag => ((t.dropContext c).rtinv none).answerReq false c.part tag 0
      | none => t

/-- A scrub begins: translations go, and the class-1 pages are freed. Registers, scratchpad, tiles and buffers of a context
without live launches hold nothing. -/
def State.startScrub (s : State) (c : CtxKey) (release : Option Word) : State :=
  let t := { s with tlb := s.tlb.filter fun e => e.ctx ≠ c }.freePages (s.ctxPages c)
  (t.mapContext c fun x => { x with scrubbing := true, release := release }).finishScrub c

/-- A launch of the context is live. -/
def State.hasLaunch (s : State) (c : CtxKey) : Bool := s.launches.any fun l => l.ctx == c

/-- PAGE_SCRUB_COMPLETE (R334). -/
def execPageScrubComplete (page : Nat) (s : State) : Host.Outcome State Fault Refusal :=
  .next (let e := s.rotOf page
    if !e.scrb then s
    else (s.zeroPage page).finishScrub { part := e.part, ctx := e.ctx, fw := false })

end Sys2Proof.Machine
end

