-- ==== Sys2Proof/Machine/Space.lean ====
section
/-! DEFINITION. Control space: what each word reads as and what a write of it does (R110, R111, R311, R312, R314, R317, R319,
R326, R337, R338, R350, R392), and the end of a role change (R319). A write is performed whole, or refused with a cause. -/

namespace Sys2Proof.Machine

/-! ### Bitmaps as words -/

def word64 {n : Nat} (x : BitVec n) (k : Nat) : Nat := bits x.toNat (64 * k) 64

def setWord64 {n : Nat} (x : BitVec n) (k v : Nat) : BitVec n :=
  BitVec.ofNat n (x.toNat - word64 x k * 2 ^ (64 * k) + v % 2 ^ 64 * 2 ^ (64 * k))

/-- Bits 51:16 of a register, as an address. -/
def pageField (v : Nat) : Nat := bits v 16 36 * 65536

/-- A word of an ownership block (R311). -/
def Partition.block (p : Partition) (off : Nat) : Nat :=
  if off < 0x030 then word64 p.quads (off / 8)
  else if off < 0x0F0 then word64 p.slices ((off - 0x030) / 8)
  else if off < 0x150 then word64 p.chans ((off - 0x0F0) / 8)
  else if off < 0x2D0 then word64 p.meng ((off - 0x150) / 8)
  else if off < 0x390 then word64 p.ceng ((off - 0x2D0) / 8)
  else if off = 0x390 then p.stalls.toNat + p.fwins.toNat * 2 ^ 16
  else if off < 0x418 then
    let h := p.hosts.getD ((off - 0x398) / 16) (0, 0)
    if (off - 0x398) / 8 % 2 = 0 then h.1 else h.2
  else if off = 0x418 then p.share.toNat
  else 0

/-- The block after a word is written; reserved bits are ignored. -/
def Partition.setBlock (p : Partition) (off v : Nat) : Partition :=
  if off < 0x030 then { p with quads := setWord64 p.quads (off / 8) v }
  else if off < 0x0F0 then { p with slices := setWord64 p.slices ((off - 0x030) / 8) v }
  else if off < 0x150 then { p with chans := setWord64 p.chans ((off - 0x0F0) / 8) v }
  else if off < 0x2D0 then { p with meng := setWord64 p.meng ((off - 0x150) / 8) v }
  else if off < 0x390 then { p with ceng := setWord64 p.ceng ((off - 0x2D0) / 8) v }
  else if off = 0x390 then { p with stalls := BitVec.ofNat 8 v, fwins := BitVec.ofNat 16 (v / 2 ^ 16) }
  else if off < 0x418 then
    let put (h : Nat × Nat) : Nat × Nat := if (off - 0x398) / 8 % 2 = 0 then (pageField v, h.2) else (h.1, pageField v)
    { p with hosts := updAt put p.hosts ((off - 0x398) / 16) }
  else if off = 0x418 then { p with share := BitVec.ofNat 64 (v % 2 ^ 24) }
  else p

/-! ### Ownership rules (R312) -/

/-- Two partitions own one resource. -/
def Partition.overlaps (a b : Partition) : Bool :=
  a.quads &&& b.quads != 0 || a.slices &&& b.slices != 0 || a.chans &&& b.chans != 0 || a.meng &&& b.meng != 0
    || a.ceng &&& b.ceng != 0 || a.stalls &&& b.stalls != 0 || a.fwins &&& b.fwins != 0

/-- Engines stand in the partition's own quads of compute tiers. -/
def Partition.enginesOk (p : Partition) (roles : BitVec 8) : Bool :=
  let home (core : Nat) : Bool := p.quads.getLsbD (quadOf core) && roles.getLsbD (tierOf core)
  (p.meng == 0 || (upTo 3072).all fun k => !p.meng.getLsbD k || home (k / 2))
    && (p.ceng == 0 || (upTo 1536).all fun k => !p.ceng.getLsbD k || home k)

/-- Stall groups need their tier's channels, and channels a slice of their tier. -/
def Partition.memoryOk (p : Partition) : Bool :=
  (upTo 8).all fun t =>
    let chans := (p.chans.toNat / 2 ^ (96 * t)) % 2 ^ 96
    let slices := (p.slices.toNat / 2 ^ (192 * t)) % 2 ^ 192
    (!p.stalls.getLsbD t || chans == 2 ^ 96 - 1) && (chans == 0 || slices != 0)

/-- A live context of the partition uses a tier's memory: a page of the partition has a row there (R24, R372). -/
def State.tierUsed (s : State) (p t : Nat) : Bool :=
  (s.contexts.any fun c => c.key.part == p)
    && s.rotPages.any fun pg => (let e := s.rotOf pg; e.part == p && (e.cls == 1 || e.cls == 2))
      && (upTo 32).any fun k => Config.bankGroup (pg * 32 + k) % (8 * Config.stallsPerTier) / Config.stallsPerTier == t

/-- Resident groups of a partition. -/
def State.groupsOf (s : State) (p : Nat) : List (Launch × Group) :=
  s.launches.flatMap fun l => if l.ctx.part = p then (l.groups.filter fun g => g.resident).map fun g => (l, g) else []

/-- A write would clear the bit of a resource that a live context uses. DEDUCED: log 25. -/
def State.clearsUsed (s : State) (n : Nat) (a b : Partition) : Bool :=
  let gone {w : Nat} (x y : BitVec w) (k : Nat) : Bool := x.getLsbD k && !y.getLsbD k
  let gs := s.groupsOf n
  (gs.any fun g => gone a.quads b.quads (quadOf g.2.core))
    || (gs.any fun g => !g.2.tiles.isEmpty && (gone a.meng b.meng (2 * g.2.core) || gone a.meng b.meng (2 * g.2.core + 1)))
    || (gs.any fun g => gone a.ceng b.ceng g.2.core
      && s.ops.any fun o => o.launch == g.1.num && o.group == g.2.index && (match o.kind with | .copy _ => true | _ => false))
    || (s.runs.any fun r => r.part == n && r.stalls.any fun x => gone a.stalls b.stalls (x.stall / Config.stallsPerTier))
    || ((a.chans != b.chans || a.slices != b.slices) && (upTo 8).any fun t =>
      ((upTo 96).any (fun k => gone a.chans b.chans (96 * t + k)) || (upTo 192).any (fun k => gone a.slices b.slices (192 * t + k)))
        && s.tierUsed n t)
    || (upTo 16).any fun k => gone a.fwins b.fwins k && (match s.fwins[k]? with | some w => w.en && w.part == n | none => false)

/-- The cause that refuses a block in place of a partition's own, 0 for none (R312, R317, R338). DEDUCED: log 25. -/
def State.ownCause (s : State) (n : Nat) (b : Partition) : Nat :=
  let others := (upTo 16).filter fun k => k ≠ n
  if others.any fun k => b.overlaps (s.part k) then 4
  else if !b.enginesOk s.roles || !b.memoryOk then 4
  else if s.clearsUsed n (s.part n) b then 6
  else if 255 < shareMin b.share + (others.map fun k => shareMin (s.part k).share).sum then 2
  else 0

/-! ### Format windows (R110, R111) -/

/-- A word of a window's registers. -/
def FWin.word (w : FWin) (k : Nat) : Nat :=
  match k with
  | 0 => w.base
  | 1 => w.limit
  | 2 => w.scale
  | _ => w.malf.toNat * 2 ^ 32 + w.part * 2 ^ 8 + w.fmt * 2 + (if w.en then 1 else 0)

def FWin.setWord (w : FWin) (k v : Nat) : FWin :=
  match k with
  | 0 => { w with base := pageField v }
  | 1 => { w with limit := pageField v }
  | 2 => { w with scale := pageField v }
  | _ => { w with malf := BitVec.ofNat 32 (v / 2 ^ 32), part := bits v 8 4, fmt := bits v 1 2, en := flag v 0 }

/-- Every page of a physical range is assigned to the partition. -/
def State.assigned (s : State) (p lo hi : Nat) : Bool :=
  (upTo ((hi + 65535) / 65536 - lo / 65536)).all fun k =>
    let e := s.rotOf (lo / 65536 + k)
    !e.scrb && !s.rotBad (lo / 65536 + k) && (e.cls == 1 || e.cls == 2) && e.part == p

/-- What EN := 1 asks of a window. -/
def State.windowOk (s : State) (n : Nat) (w : FWin) : Bool :=
  let size := (w.limit - w.base) / 16
  let meet (lo hi lo' hi' : Nat) : Bool := decide (lo < hi') && decide (lo' < hi)
  let on := s.fwins.zipIdx.filter fun p => p.1.en && p.2 != n
  decide (w.base < w.limit) && w.fmt != 3 && !(on.any fun p => meet w.base w.limit p.1.base p.1.limit)
    && !((w :: on.map fun p => p.1).any fun x => meet w.scale (w.scale + size) x.base x.limit)
    && s.assigned w.part w.base w.limit && s.assigned w.part w.scale (w.scale + size)

/-- The cause that refuses a window register's new value, 0 for none. -/
def State.windowCause (s : State) (n : Nat) (a b : FWin) : Nat :=
  if b.fmt = 3 then 2
  else if a.en then (if (a.base, a.limit, a.scale, a.fmt, a.part) ≠ (b.base, b.limit, b.scale, b.fmt, b.part) then 3 else 0)
  else if b.en && !s.windowOk n b then 2
  else 0

/-- A window is disabled: its lines are recalled and written back, and their scales dropped (R111, R355).
DEDUCED: log 30. -/
def State.disableWindow (s : State) (w : FWin) : State :=
  let r : List (Loc × Nat) := [({ space := .dev, addr := w.base }, w.limit - w.base)]
  let t := s.recallRanges (!Config.grantLate s.steps) r
  { t with winLines := t.winLines.filter fun x => decide (x < w.base) || decide (w.limit ≤ x) }

/-! ### Tier roles (R15, R319) -/

/-- A role assignment that R15 and the thermal table allow. -/
def State.rolesOk (s : State) (r : BitVec 8) : Bool :=
  decide (((upTo 8).filter fun t => r.getLsbD t).length ≤ 5)
    && (upTo 6).all (fun t => !(r.getLsbD t && r.getLsbD (t + 1) && r.getLsbD (t + 2)))
    && !(r.getLsbD 0 && r.getLsbD 1) && !s.forbidden.contains r

/-- Step 1 of a role change: contexts on the changing tiers are pre-empted (R291, R319). -/
def State.startRoles (s : State) (r : BitVec 8) : State :=
  let diff := s.roles ^^^ r
  let t := { s with roleChange := some r }
  ((s.contexts.map fun c => c.key).filter (s.onTiers diff)).foldl State.preempt t

/-- A partition's quads change under resident groups: their contexts are drained, and the quads are numbered anew after that
(R19, R291). DEDUCED: log 25. -/
def State.drainGroups (s : State) (p : Nat) : State :=
  (distinct ((s.groupsOf p).map fun g => g.1.ctx)).foldl State.preempt s

/-- Microinstructions of stall groups that change their owner are gone (R6). -/
def State.clearStores (s : State) (gone : BitVec 8) : State :=
  if gone = 0 then s
  else { s with nbStore := s.nbStore.zipIdx.map fun p => if gone.getLsbD p.2 then List.replicate 256 (0, false) else p.1 }

/-- The cause that refuses a value of ROLES, 0 for none. -/
def State.rolesCause (s : State) (r : BitVec 8) : Nat :=
  if s.roleChange.isSome then 6
  else if !s.rolesOk r then 5
  else if s.rollFree = 0 then 7
  else 0

/-- Engine bits of memory-only tiers become 0. -/
def Partition.trimEngines (p : Partition) (roles : BitVec 8) : Partition :=
  { p with
    meng := BitVec.ofNat 3072 ((upTo 8).foldl (fun n t =>
      n + (if roles.getLsbD t then p.meng.toNat / 2 ^ (384 * t) % 2 ^ 384 * 2 ^ (384 * t) else 0)) 0)
    ceng := BitVec.ofNat 1536 ((upTo 8).foldl (fun n t =>
      n + (if roles.getLsbD t then p.ceng.toNat / 2 ^ (192 * t) % 2 ^ 192 * 2 ^ (192 * t) else 0)) 0) }

/-- Placements on a quad or a tier that no longer computes are given up. -/
def Launch.keepHomes (l : Launch) (roles : BitVec 8) : Launch :=
  { l with homes := l.homes.filter fun p => match l.fields.span with
      | 1 => roles.getLsbD (p.2 / Config.quadsPerTier)
      | 2 => roles.getLsbD p.2
      | _ => true }

/-- Dirty lines that lie on the tiers or have their homes there. -/
def State.flushedLines (s : State) (diff : BitVec 8) : List Loc :=
  (s.dirty.filter fun d => diff.getLsbD (tierOf d.core)
    || (match s.homeTier d.line with | some t => diff.getLsbD t | none => false)).map fun d => d.line

/-- The numbers of a partition's quads after a role change: anew, but not under groups that stay, which are on no changing
tier (R19). -/
def State.numberedUnder (s : State) (r : BitVec 8) (n : Nat) (p : Partition) : List Nat :=
  if (s.groupsOf n).isEmpty then p.owned r else p.numbered

/-- ROLE_CHANGE_RE_ENUMERATION: steps 2 to 4, once the contexts are drained (R19, R319, R355). A chunk that waits for a withheld grant is not
squashed (R320). -/
def execRoleChangeReEnumeration (s : State) : Host.Outcome State Fault Refusal :=
  .next (match s.roleChange with
    | none => s
    | some r =>
      let diff := s.roles ^^^ r
      if !s.drained diff then s
      else
        let on (core : Nat) : Bool := diff.getLsbD (tierOf core)
        let lines := (s.flushedLines diff).map fun x => (x, 128)
        let waits (w : Warp) : Bool := w.chunk.ended && s.withheld (memLocs (w.chunk.writes.map (·.1)))
        let s := s.recallRanges (!Config.grantLate s.steps) lines waits
        { s with
          roles := r
          roleChange := none
          parts := s.parts.zipIdx.map fun (p : Partition × Nat) => { p.1.trimEngines r with numbered := s.numberedUnder r p.2 p.1 }
          launches := s.launches.map fun (l : Launch) => l.keepHomes r
          tlb := s.tlb.filter fun e => !on (if e.quad then 4 * e.unit else e.unit)
          engines := s.engines.filter fun e => !on e.id.core }.hwRoll 3 0x7FF (leBytes 1 s.roles.toNat ++ leBytes 1 r.toNat))

/-! ### Mailboxes as memory (R316, R350) -/

/-- Words of notification n of the ring. -/
def Notification.word (n : Notification) (k : Nat) : Nat :=
  match k with
  | 0 => n.kind + n.ctx % 2 ^ 11 * 2 ^ 16
  | 1 => n.beat
  | 2 => n.data0.toNat
  | _ => n.data1.toNat

/-- A word of a notification ring of which `n` have been posted, the newest first. -/
def ringWord (ring : List Notification) (n off : Nat) : Nat :=
  match ring[(n + 1023 - off / 32) % 1024]? with
  | some x => x.word (off / 8 % 4) % 2 ^ 64
  | none => 0

/-- A word of a mailbox: the answer, NCOUNT and the ring; the rest holds what the driver and the firmware wrote.
DESIGN CHOICE: log 22. -/
def State.mailWord (s : State) (p off : Nat) : Nat :=
  let x := s.part p
  if off = 0x200 then x.tag.toNat + x.status * 2 ^ 32
  else if off = 0x300 then x.ncount % 2 ^ 64
  else if 0x8000 ≤ off then ringWord x.ring x.ncount (off - 0x8000)
  else match getKey (0x80000 + 0x10000 * p + off) s.mail with
    | some v => v.toNat
    | none => (Config.mailboxWord (16 * x.heard + p) off).toNat

/-- A word of the administrative mailbox, which has the same layout and lies apart from control space (R391, R393). -/
def State.adminWord (s : State) (off : Nat) : Nat :=
  if off = 0x200 then s.adminTag.toNat + s.adminStatus * 2 ^ 32
  else if off = 0x300 then s.adminCount % 2 ^ 64
  else if 0x8000 ≤ off then ringWord s.adminRing s.adminCount (off - 0x8000)
  else match getKey (0x180000 + off) s.mail with
    | some v => v.toNat
    | none => (Config.mailboxWord (16 * s.adminHeard + 2 ^ 64) off).toNat

def State.setMail (s : State) (p off v : Nat) : State :=
  if off = 0x200 then s.mapPart p fun x => { x with tag := BitVec.ofNat 32 v, status := v / 2 ^ 32 % 2 ^ 32 }
  else if off = 0x300 || 0x8000 ≤ off then s
  else { s with mail := setKey (0x80000 + 0x10000 * p + off) (BitVec.ofNat 64 v) s.mail }

/-! ### Reads and writes -/

/-- The device status word (R392). -/
def State.status (s : State) : Nat :=
  let b (x : Bool) (n : Nat) : Nat := if x then 2 ^ n else 0
  b s.devready 0 + b s.failed 1 + s.bringStep % 16 * 2 ^ 4 + s.lwidth % 16 * 2 ^ 8 + b s.lrate 12 + b s.gated 13 + b s.thermwarn 14
    + s.fports.toNat * 2 ^ 16

/-- LASTERR (R338). -/
def State.lastErr (s : State) : Nat := s.lastOff.toNat * 2 ^ 32 + s.lastCause % 256

/-- The control word at an offset (R314). -/
def State.control (s : State) (off : Nat) : Nat :=
  if off = 0 then s.status
  else if off = 8 then s.lastErr
  else if 0x10000 ≤ off && off < 0x18000 then (s.part ((off - 0x10000) / 0x800)).block (off % 0x800)
  else if off = 0x20000 then s.roles.toNat
  else if 0x40000 ≤ off && off < 0x40200 then
    (match s.fwins[(off - 0x40000) / 0x20]? with | some w => w.word (off / 8 % 4) | none => 0)
  else if 0x80000 ≤ off && off < 0x180000 then s.mailWord ((off - 0x80000) / 0x10000) (off % 0x10000)
  else 0

/-- A write of an ownership word (R312). The quads are numbered anew once no group of the partition is resident; a change of them
drains the contexts that have groups (R15, R19, R291). DEDUCED: log 25. -/
def State.writeOwn (s : State) (p off v : Nat) : Except Nat State :=
  if 0x418 < off then .error 1
  else
    let a := s.part p
    let b := a.setBlock off v
    match s.ownCause p b with
    | 0 =>
      let t := s.mapPart p fun _ => if (s.groupsOf p).isEmpty then { b with numbered := b.owned s.roles } else b
      let t := t.clearStores (a.stalls &&& ~~~b.stalls)
      .ok (if a.quads = b.quads then t else t.drainGroups p)
    | n => .error n

/-- Everything that operations, runs and fills have pinned, with the partitions that did (R236, R287, R327, R374). -/
def State.pinnedLocs (s : State) : List (Nat × Loc) :=
  let of (n : Nat) (xs : List Loc) : List (Nat × Loc) :=
    match s.launch? n with | some l => xs.map fun x => (l.ctx.part, x) | none => []
  (s.ops.flatMap fun o => of o.launch o.pins) ++ (s.runs.flatMap fun r => r.locs.flatMap fun xs => xs.map fun x => (r.part, x))
    ++ s.launches.flatMap fun l => l.groups.flatMap fun g => of l.num g.pins

/-- A control write covers a pinned page and waits for its release: RTINV any, and a write of a HOST range one that the partition
could not reach afterwards (R327). -/
def State.writeHeld (s : State) (off v : Nat) : Bool :=
  if off = 0x10 then !s.pinnedLocs.isEmpty
  else if 0x10000 ≤ off && off < 0x18000 && 0x398 ≤ off % 0x800 && off % 0x800 < 0x418 && off % 8 = 0 then
    let n := (off - 0x10000) / 0x800
    let b := (s.part n).setBlock (off % 0x800) v
    let has (p : Partition) (a : Nat) : Bool := p.hosts.any fun r => decide (r.1 ≤ a) && decide (a < r.2)
    s.ownCause n b == 0
      && s.pinnedLocs.any fun p => p.1 == n && p.2.space == .host && has (s.part n) p.2.addr && !has b p.2.addr
  else false

/-- A write of a window register (R111). -/
def State.writeWindow (s : State) (n k v : Nat) : Except Nat State :=
  let a := s.fwins.getD n FWin.reset
  let b := a.setWord k v
  match s.windowCause n a b with
  | 0 =>
    let t := if a.en && !b.en then s.disableWindow a else s
    .ok { t with fwins := updAt (fun _ => b) t.fwins n }
  | c => .error c

/-- A write of a control word: the machine after it, or the cause of its refusal (R314, R337, R338). The status word and
LASTERR are read-only, and a write of them changes nothing. -/
def State.writeWord (s : State) (skip : Option WarpId) (off v : Nat) : Except Nat State :=
  if off % 8 ≠ 0 then .error 1
  else if off = 0 || off = 8 then .ok s
  else if off = 0x10 then .ok (s.rtinv skip)
  else if 0x10000 ≤ off && off < 0x18000 then s.writeOwn ((off - 0x10000) / 0x800) (off % 0x800) v
  else if off = 0x20000 then
    (match s.rolesCause (BitVec.ofNat 8 v) with
      | 0 => .ok (s.startRoles (BitVec.ofNat 8 v))
      | n => .error n)
  else if 0x40000 ≤ off && off < 0x40200 then s.writeWindow ((off - 0x40000) / 0x20) (off / 8 % 4) v
  else if 0x80000 ≤ off && off < 0x180000 then .ok (s.setMail ((off - 0x80000) / 0x10000) (off % 0x10000) v)
  else .error 1

/-- The write with its mark in LASTERR, and whether it was accepted (R337). -/
def State.controlWrite (s : State) (skip : Option WarpId) (off v : Nat) : State × Bool :=
  match s.writeWord skip off v with
  | .ok t => ({ t with lastOff := 0, lastCause := 0 }, true)
  | .error n => ({ s with lastOff := BitVec.ofNat 32 off, lastCause := n }, false)

/-! ### The writes as steps of the partition manager -/

/-- The write, once no pin keeps it from its place (R327). -/
def State.managerWrite (s : State) (off v : Nat) : State :=
  if s.writeHeld off v then s.hold else (s.controlWrite none off v).1

/-- ROLES_WRITE (R319). -/
def execRolesWrite (v : DWord) (s : State) : Host.Outcome State Fault Refusal := .next (s.managerWrite 0x20000 v.toNat)

/-- RTINV_WRITE (R326). -/
def execRtinvWrite (v : DWord) (s : State) : Host.Outcome State Fault Refusal := .next (s.managerWrite 0x10 v.toNat)

/-- FWIN_CTL_WRITE (R111). -/
def execFwinCtlWrite (n : Fin 16) (v : DWord) (s : State) : Host.Outcome State Fault Refusal :=
  .next (s.managerWrite (0x40018 + 0x20 * n.val) v.toNat)

/-- OWNERSHIP_WRITE (R312). -/
def execOwnershipWrite (p : Fin 16) (off : Nat) (v : DWord) (s : State) : Host.Outcome State Fault Refusal :=
  .next (s.managerWrite (0x10000 + 0x800 * p.val + off % 0x800) v.toNat)

/-- CONTROL_REGISTER_WRITE (R337). -/
def execControlRegisterWrite (off : Nat) (v : DWord) (s : State) : Host.Outcome State Fault Refusal :=
  .next (s.managerWrite off v.toNat)

end Sys2Proof.Machine
end

