-- ==== Sys2Proof/Machine/Mailbox.lean ====
section
/-! DEFINITION. Requests of a partition's mailbox and of the administrative mailbox (R214, R313, R316, R349, R365, R381, R393,
R396). One step performs one request whole; a request that must wait for a pinned page, or for the request before it, changes
nothing until it can be performed (R316, R327). -/

namespace Sys2Proof.Machine

/-! ### Hearing and answering -/

/-- The mailbox takes requests: the device is ready, the partition exists, and the host reaches it, or the administrator does over
the management port, which does not use the link (R389, R391, R393, R399). -/
def State.hears (s : State) (rq : Req) : Bool :=
  s.devready && (s.hostThere || (rq.admin && rq.mgmt)) && (rq.admin || (s.part rq.part).exists_)

/-- The request of a partition's mailbox that an instruction makes. -/
def requestOf : Instr → Option Req
  | .ctxCreate rq _ _ _ _ | .ctxRelease rq _ | .queueReg rq _ _ _ _ | .queueUnreg rq _ _ | .regionCreate rq _ _
  | .regionDestroy rq _ | .poolGrant rq _ _ | .pageAssign rq _ _ _ _ _ _ | .pageFree rq _ _ | .tlbInv rq _ _ _ _
  | .setLimits rq _ _ _ | .debugCtl rq _ _ | .schedSet rq _ _ _ | .mailboxUnknownCode rq _ => some rq
  | _ => none

/-- A request of a partition's mailbox waits: for the one that is in service, or for one that waits with a smaller tag, since they
are performed one at a time in tag order (R316). -/
def State.serving (s : State) (rq : Req) : Bool :=
  !rq.admin && (match (s.part rq.part).serving with
    | some p => p.1 != rq.tag
    | none => (s.deferred.filterMap requestOf).any fun r => !r.admin && r.part == rq.part && decide (r.tag.toNat < rq.tag.toNat))

/-- Offset in `mail` of a request's mailbox. -/
def reqBase (rq : Req) : Nat := if rq.admin then 0x180000 else 0x80000 + 0x10000 * rq.part

/-- The driver's request lies in the mailbox: its code and tag, and arguments whose layout the manual does not give (R316).
DESIGN CHOICE: log 22. -/
def State.putRequest (s : State) (rq : Req) (code : Nat) : State :=
  let old := s.mail.filter fun p => !(decide (reqBase rq ≤ p.1) && decide (p.1 < reqBase rq + 0x108))
  let first := code % 256 + bits (Config.mailboxWord (16 * s.steps + rq.part) 0).toNat 8 24 * 2 ^ 8 + rq.tag.toNat * 2 ^ 32
  let t := { s with mail := (reqBase rq, BitVec.ofNat 64 first) :: (reqBase rq + 0x100, BitVec.ofNat 64 rq.tag.toNat) :: old }
  if rq.admin then { t with adminHeard := s.steps } else t.mapPart rq.part fun x => { x with heard := s.steps }

/-- The request is served, but must wait; firmware may read the pages that it names (R325). -/
def State.keepServing (s : State) (rq : Req) (pages : List Nat) : State :=
  if rq.admin then s else s.mapPart rq.part fun x => { x with serving := some (rq.tag, pages) }

/-- One request with its code: `f` gives the machine and the status, or nothing while it waits, and `pages` are those that
its arguments name. A code of the other mailbox is unknown (R349). -/
def mailbox (rq : Req) (admin : Bool) (code : Nat) (pages : List Nat) (f : State → Option (State × Nat)) (s : State) :
    Host.Outcome State Fault Refusal :=
  .next (if !s.hears rq then s
    else if s.serving rq then s.hold
    else
      let t := s.putRequest rq code
      if rq.admin != admin then t.answerReq rq.admin rq.part rq.tag 1
      else match f t with
        | none => (t.keepServing rq pages).hold
        | some (u, n) => u.answerReq rq.admin rq.part rq.tag n)

/-- A request of the partition's driver, with the partition. -/
def driver (rq : Req) (code : Nat) (f : State → Nat → Option (State × Nat)) (s : State) :
    Host.Outcome State Fault Refusal :=
  mailbox rq false code [] (fun t => f t rq.part) s

/-! ### Contexts and queues -/

/-- CTX_CREATE. DEDUCED: log 23. -/
def execCtxCreate (rq : Req) (ctx : Nat) (repro exact : Bool) (root : Nat) (s : State) : Host.Outcome State Fault Refusal :=
  driver rq 0x01 (fun s p => some (
    if 64 ≤ ctx || root % 4096 ≠ 0 || 2 ^ 52 ≤ root then (s, 1)
    else if (s.context? (userCtx p ctx)).isSome then (s, 3)
    else
      let c : Context :=
        { key := userCtx p ctx, repro := repro, exact := exact, debug := false, root := root, rounds := 0, phase := .running
          since := s.cycle, watch := 0, extSent := 0, sched := [], schedNext := none, scrubbing := false, release := none }
      ({ s with contexts := s.contexts ++ [c] }, 0))) s

/-- CTX_RELEASE: the context is scrubbed first, and the answer comes when the scrub is complete (R316, R333). -/
def execCtxRelease (rq : Req) (ctx : Nat) (s : State) : Host.Outcome State Fault Refusal :=
  .next (if !s.hears rq then s
    else if s.serving rq then s.hold
    else
      let s := s.putRequest rq 0x02
      let ans (n : Nat) : State := s.answerReq rq.admin rq.part rq.tag n
      if rq.admin then ans 1
      else match s.context? (userCtx rq.part ctx) with
        | none => ans 1
        | some x =>
          if s.hasLaunch x.key then ans 4
          else if x.scrubbing then (s.keepServing rq []).mapContext x.key fun y => { y with release := some rq.tag }
          else if s.rollFree = 0 then ans 5
          else (s.keepServing rq []).startScrub x.key (some rq.tag))

/-- QUEUE_REG: `page` is the queue's index within the notify aperture (R270, R391). DEDUCED: log 23. -/
def execQueueReg (rq : Req) (ctx idx : Nat) (header : DWord) (page : Nat) (s : State) : Host.Outcome State Fault Refusal :=
  driver rq 0x03 (fun s p => some (
    if (s.context? (userCtx p ctx)).isNone || 256 ≤ idx || page ≠ idx || header.toNat % 512 ≠ 0 || !canonical header.toNat then (s, 1)
    else if (s.queue? ⟨p, idx⟩).isSome then (s, 3)
    else
      let q : Queue :=
        { key := ⟨p, idx⟩, ctx := userCtx p ctx, header := header.toNat, page := page, slot := none, target := 0, asked := 0, blocked := false }
      ({ s with queues := s.queues ++ [q] }, 0))) s

/-- QUEUE_UNREG: not while a launch of the queue is live. -/
def execQueueUnreg (rq : Req) (ctx idx : Nat) (s : State) : Host.Outcome State Fault Refusal :=
  driver rq 0x04 (fun s p => some (match s.queue? ⟨p, idx⟩ with
    | none => (s, 1)
    | some q =>
      if q.ctx ≠ userCtx p ctx then (s, 1)
      else if s.launches.any fun l => l.queue == q.key then (s, 4)
      else ({ s with queues := s.queues.filter fun x => x.key ≠ q.key, slots := s.slots.filter fun n => q.slot ≠ some n }, 0))) s

/-! ### Pins (R327) -/

/-- An operation, a run or a fill has pinned one of the physical pages. -/
def State.pinned (s : State) (pages : List Nat) : Bool :=
  s.ops.any (fun o => o.pins.any (s.onPages pages)) || (s.runs.any fun r => r.locs.any fun l => l.any (s.onPages pages))
    || s.launches.any fun l => l.groups.any fun g => g.pins.any (s.onPages pages)

/-- An operation, a run or a fill has pinned a page of the region, backed or not. -/
def State.pinnedIn (s : State) (p : Nat) (r : Region) : Bool :=
  s.pinnedLocs.any fun x => x.2.space == Space.region p && r.holds (x.2.addr / 65536)

/-- Virtual ranges that a COPY with pinned pages uses, the replica's among them (R236). -/
def CopyOp.ranges (c : CopyOp) : List (Nat × Nat) :=
  (if c.srcSpad then [] else [(c.src, (c.rows - 1) * c.srcPitch + c.rowBytes)])
    ++ (if c.dstSpad then [] else [(c.dst, (c.rows - 1) * c.dstPitch + c.dstRow)])
    ++ (match c.replica with | some a => [(a, c.rowBytes)] | none => [])

/-- A pinned operation of a context uses a virtual page of a set. -/
def State.pinnedVa (s : State) (c : CtxKey) (pages : Nat → Bool) : Bool :=
  let hits (r : Nat × Nat) : Bool := (upTo ((r.1 % 65536 + r.2 + 65535) / 65536)).any fun k => pages (r.1 % 2 ^ 57 / 65536 + k)
  let mine (n : Nat) : Bool := match s.launch? n with | some l => l.ctx == c | none => false
  (s.ops.any fun o => mine o.launch && !o.pins.isEmpty && match o.kind with | .copy x => x.ranges.any hits | _ => false)
    || (s.launches.any fun l => l.ctx == c && l.groups.any fun g =>
      !g.pins.isEmpty && l.binds.any fun b => (b.command g.index).ranges.any hits)
    || s.runs.any fun r => r.ctx == c && r.pinned && (r.desc.bases.take r.desc.streams).any fun b => hits (b, 2048 * r.desc.rows)

/-! ### Regions (R214, R381) -/

def Region.meets (a b : Region) : Bool := decide (a.base < b.base + b.pages * 65536) && decide (b.base < a.base + a.pages * 65536)

/-- The region that a descriptor describes, none where a field is out of range. -/
def regionOf (ctx : Nat) (a : RegionArgs) : Option Region :=
  let w0 := a.w0.toNat
  let w1 := a.w1.toNat
  let r : Region :=
    { ctx := ctx, base := bits w0 16 41 * 65536, pages := bits w1 0 24, es := bits w1 24 2, trans := flag w1 32, vers := flag w1 33
      ext := flag w1 34, fwin := if flag w1 35 then some (bits w1 36 4) else none, default := a.w2, fpa := a.fpa, voff := a.voff
      backed := [], cur := false, open_ := false, fail := false, written := [] }
  let fixed := r.ext || r.fwin.isSome
  if bits w0 57 7 ≠ 0 || bits w0 0 16 ≠ 0 || bits w1 26 6 ≠ 0 || bits w1 40 24 ≠ 0
      || a.w3 ≠ 0 || r.pages = 0 || 2 ^ 57 < r.base + r.pages * 65536 || 2 ^ (8 * r.esBytes) ≤ a.w2.toNat
      || (fixed && a.fpa % 65536 ≠ 0) || (r.vers && (a.voff % 65536 ≠ 0 || a.w2 ≠ 0 || r.trans || r.fwin.isSome)) then none
  else some r

/-- A physical page is assigned to the context or its partition. -/
def State.ownPage (s : State) (p ctx pg : Nat) : Bool := s.ownsPage (userCtx p ctx) pg

/-- The fixed pages of a window-bound or external region are the requester's, and those of the first kind lie in the window. Those
of a versioned external region are of its version 0 (R214, R381). -/
def State.fixedOk (s : State) (p : Nat) (r : Region) : Bool :=
  ((upTo r.pages).all fun k => s.ownPage p r.ctx (r.fpa / 65536 + k))
    && (match r.fwin with
      | none => true
      | some n => match s.fwins[n]? with
        | some w => w.en && decide (w.base ≤ r.fpa) && decide (r.fpa + r.pages * 65536 ≤ w.limit)
        | none => false)

/-- Physical pages of both versions of a versioned region, none where an entry is missing. -/
def State.versPages (s : State) (p : Nat) (r : Region) : Option (List Nat) :=
  (upTo r.pages).foldl (fun acc k => match acc, s.versPage (userCtx p r.ctx) r k with
    | some l, some pa => some (l ++ [pa / 65536, (pa + r.voff) / 65536])
    | _, _ => none) (some [])

/-- Lowest free entry of a region table. -/
def Partition.freeRegion (p : Partition) : Option Nat := (upTo Config.regionTableSize).find? fun n => (getKey n p.regions).isNone

/-- The region's entry is made: pages of a window-bound region are backed, both versions of a versioned one are zeroed. -/
def State.addRegion (s : State) (p n : Nat) (r : Region) (zero : List Nat) : State :=
  let r := if r.fwin.isSome then { r with backed := (upTo r.pages).map fun k => (k, r.fpa / 65536 + k) } else r
  let s := zero.foldl (fun s pg => { s with
    mem := memZero s.mem (pg * 65536) 65536
    poison := s.poison.filter fun y => y.space != .dev || y.addr / 65536 ≠ pg
    dirty := s.dirty.filter fun d => d.line.space != .dev || d.line.addr / 65536 ≠ pg
    halves := s.halves.filter fun h => h.1.space != .dev || h.1.addr / 65536 ≠ pg }) s
  let wiped := zero.map fun pg => ({ space := .dev, addr := pg * 65536 } : Loc)
  let s := ({ s with seq := s.seq + 1 }.squashReaders none { words := [], wiped := wiped, states := [] })
  (s.mapPart p fun x => { x with regions := x.regions ++ [(n, r)] }).translationChange none (inPart p) r.holds

/-- REGION_CREATE (R214, R381). DEDUCED: log 23. -/
def execRegionCreate (rq : Req) (ctx : Nat) (a : RegionArgs) (s : State) : Host.Outcome State Fault Refusal :=
  driver rq 0x05 (fun s p => some (match regionOf ctx a with
    | none => (s, 1)
    | some r =>
      if (s.context? (userCtx p ctx)).isNone then (s, 1)
      else if (s.part p).regions.any fun x => r.meets x.2 then (s, 3)
      else match (s.part p).freeRegion with
        | none => (s, 2)
        | some n =>
          if r.vers then
            match s.versPages p r with
            | none => (s, 1)
            | some pages =>
              if r.ext && !s.fixedOk p r then (s, 3)
              else if pages.all (s.ownPage p ctx) then (s.addRegion p n r pages, 0)
              else (s, 1)
          else if (r.ext || r.fwin.isSome) && !s.fixedOk p r then (s, 3)
          else (s.addRegion p n r [], 0))) s

/-- Every change of ownership ends so (R316). -/
def State.ownershipDone (s : State) : State × Nat := (s.rtinv none, 0)

/-- REGION_DESTROY: the region's pages become free through scrubbing (R316, R334). DEDUCED: log 25. -/
def execRegionDestroy (rq : Req) (idx : Nat) (s : State) : Host.Outcome State Fault Refusal :=
  driver rq 0x06 (fun s p => match getKey idx (s.part p).regions with
    | none => some (s, 1)
    | some r =>
      let pages := s.regionPages p r
      if s.pinned pages || s.pinnedIn p r then none
      else
        let t := s.freePages pages
        let t := { t with poison := t.poison.filter fun y => y.space != Space.region p || !r.holds (y.addr / 65536) }
        some (t.mapPart p fun x => { x with regions := dropKey idx x.regions }).ownershipDone) s

/-! ### Pages (R316, R334) -/

def pageRange (page n : Nat) : List Nat := (upTo n).map fun k => page + k

/-- The page exists, is class 0 and not pending a scrub. -/
def State.freePage (s : State) (pg : Nat) : Bool :=
  decide (pg * 65536 < Config.dramBytes) && (s.rotOf pg).cls == 0 && !(s.rotOf pg).scrb && !s.rotBad pg

/-- Every row of the page lies on a channel of the partition (R24, R316). DEDUCED: log 25. -/
def State.onChannels (s : State) (p pg : Nat) : Bool :=
  (upTo 32).all fun k => (s.part p).chans.getLsbD (Config.bankGroup (pg * 32 + k) % (8 * Config.stallsPerTier) / 16)

/-- Free pages take an entry. -/
def State.grantPages (s : State) (pages : List Nat) (e : RotEntry) : State := pages.foldl (fun s pg => s.setRot pg e) s

/-- POOL_GRANT. -/
def execPoolGrant (rq : Req) (page n : Nat) (s : State) : Host.Outcome State Fault Refusal :=
  driver rq 0x07 (fun s p =>
    let pages := pageRange page n
    if n = 0 then some (s, 1)
    else if !pages.all (fun pg => s.freePage pg && s.onChannels p pg) then some (s, 3)
    else
      let t := s.grantPages pages { scrb := false, px := false, hx := false, ctx := 0, cls := 2, part := p }
      some (t.mapPart p fun x => { x with pool := x.pool ++ pages }).ownershipDone) s

/-- PAGE_ASSIGN. -/
def execPageAssign (rq : Req) (page n cls ctx : Nat) (hx px : Bool) (s : State) : Host.Outcome State Fault Refusal :=
  driver rq 0x08 (fun s p =>
    let pages := pageRange page n
    if n = 0 || !(cls = 1 || cls = 2) || (cls = 1 && (s.context? (userCtx p ctx)).isNone) then some (s, 1)
    else if !pages.all (fun pg => s.freePage pg && s.onChannels p pg) then some (s, 3)
    else
      let e : RotEntry := { scrb := false, px := px, hx := hx, ctx := if cls = 1 then ctx else 0, cls := cls, part := p }
      some (s.grantPages pages e).ownershipDone) s

/-- The page backs a region of the partition. -/
def State.backs (s : State) (p pg : Nat) : Bool := (s.part p).regions.any fun r => (s.regionPages p r.2).contains pg

/-- PAGE_FREE: the partition's own pages; a page of its pool leaves the pool, and one behind a region is in use. -/
def execPageFree (rq : Req) (page n : Nat) (s : State) : Host.Outcome State Fault Refusal :=
  let p := rq.part
  mailbox rq false 0x09 (pageRange page n) (fun s =>
    let pages := pageRange page n
    let mine (pg : Nat) : Bool := let e := s.rotOf pg; e.part == p && (e.cls == 1 || e.cls == 2) && !e.scrb
    if n = 0 then some (s, 1)
    else if !pages.all mine then some (s, 3)
    else if pages.any (s.backs p) then some (s, 4)
    else if s.pinned pages then none
    else
      let t := s.freePages pages
      some (t.mapPart p fun x => { x with pool := x.pool.filter fun pg => !pages.contains pg }).ownershipDone) s

/-- TLB_INV: `n` pages from an address, or every page of the context (R326). -/
def execTlbInv (rq : Req) (ctx : Nat) (all : Bool) (va n : Nat) (s : State) : Host.Outcome State Fault Refusal :=
  driver rq 0x0A (fun s p =>
    let c := userCtx p ctx
    let first := va % 2 ^ 57 / 65536
    let pages (k : Nat) : Bool := all || (decide (first ≤ k) && decide (k < first + n))
    if (s.context? c).isNone then some (s, 1)
    else if s.pinnedVa c pages then none
    else some ({ s with seq := s.seq + 1 }.translationChange none (fun x => x == c) pages, 0)) s

/-! ### Limits, debugging, schedules -/

/-- SET_LIMITS, in cycles (R217, R291, R299): 1 ms to 1 s, 100 µs to 100 ms, and any external-wait limit.
DEDUCED: log 24. -/
def execSetLimits (rq : Req) (pool slice ext : Nat) (s : State) : Host.Outcome State Fault Refusal :=
  driver rq 0x0B (fun s p => some (
    if pool < 850000 || 850000000 < pool || slice < 85000 || 85000000 < slice then (s, 1)
    else (s.mapPart p fun x => { x with poolWait := pool, slice := slice, extWait := ext }, 0))) s

/-- DEBUG_CTL: disable, enable, or resume a halted context (R348, R349). -/
def execDebugCtl (rq : Req) (ctx op : Nat) (s : State) : Host.Outcome State Fault Refusal :=
  driver rq 0x0C (fun s p => some (
    let c := userCtx p ctx
    match s.context? c with
    | none => (s, 1)
    | some x =>
      if op = 0 || op = 1 then (s.mapContext c fun y => { y with debug := op = 1 }, 0)
      else if op ≠ 2 then (s, 1)
      else if x.phase != .halted then (s, 4)
      else (s.mapContext c fun y => { y with phase := .saved, since := s.cycle }, 0))) s

/-- Consecutive schedule entries are sorted by line, and each is well-formed (R363, R365). -/
def schedOk : Nat → List (Nat × Nat) → Bool
  | _, [] => true
  | lo, (a, b) :: es =>
    bits a 57 7 == 0 && bits a 0 7 == 0 && decide (bits b 16 24 < bits b 40 24) && decide (lo ≤ a) && schedOk a es

/-- Entries of a schedule at a physical address. -/
def State.schedTable (s : State) (addr n : Nat) : List (Nat × Nat) :=
  (upTo n).map fun k => (s.phys64 (addr + 16 * k), s.phys64 (addr + 16 * k + 8))

/-- The places of its words. -/
def State.schedWords (s : State) (addr n : Nat) : List Loc := (upTo (2 * n)).map fun k => s.devLoc (addr + 8 * k)

/-- SCHED_SET: a table in the partition's own pages is copied, and is in force from the next admission; address 0 clears (R363,
R365). DEDUCED: log 24. It waits for what the host owns of the table (R187), whose lines fill windows (R112); a table with a poisoned
word is refused, since it cannot be read (R341). DESIGN CHOICE: log 70. -/
def execSchedSet (rq : Req) (ctx : Nat) (addr : DWord) (n : Nat) (s : State) : Host.Outcome State Fault Refusal :=
  driver rq 0x0D (fun s p =>
    let c := userCtx p ctx
    let a := addr.toNat
    if (s.context? c).isSome && a ≠ 0 && n ≤ 65536 && (s.schedWords a n).any s.hostOwns then none else some (
    let t := s.fillLines (s.schedWords a n)
    if (s.context? c).isNone then (s, 1)
    else if a = 0 then (s.mapContext c fun y => { y with sched := [], schedNext := none }, 0)
    else if 65536 < n || a % 16 ≠ 0 || !s.assigned p a (a + 16 * n) then (s, 1)
    else if (s.schedWords a n).any s.isPoisoned || !schedOk 0 (s.schedTable a n) then (t, 1)
    else (t.mapContext c fun y => { y with
      schedNext := some ((s.schedTable a n).map fun e => (BitVec.ofNat 64 e.1, BitVec.ofNat 64 e.2)) }, 0))) s

/-- Codes that a mailbox knows (R316, R349, R393). -/
def knownCode (admin : Bool) (code : Nat) : Bool :=
  if admin then decide (0x20 ≤ code) && decide (code ≤ 0x24) else decide (1 ≤ code) && decide (code ≤ 0x0D)

/-- MAILBOX_UNKNOWN_CODE (R349). -/
def execMailboxUnknownCode (rq : Req) (code : Byte) (s : State) : Host.Outcome State Fault Refusal :=
  .next (if !s.hears rq || knownCode rq.admin code.toNat then s
    else if s.serving rq then s.hold
    else (s.putRequest rq code.toNat).answerReq rq.admin rq.part rq.tag 1)

/-! ### The administrative mailbox (R313, R393) -/

/-- A request of the partition manager. -/
def manager (rq : Req) (code : Nat) (f : State → State × Nat) (s : State) : Host.Outcome State Fault Refusal :=
  mailbox rq true code [] (fun t => some (f t)) s

/-- A refusal writes LASTERR (R338) and gives status 3, 4 for a resource in use, or 5 for a full Roll. -/
def State.refuseReq (s : State) (off cause : Nat) : State × Nat :=
  ({ s with lastOff := BitVec.ofNat 32 off, lastCause := cause }, if cause = 6 then 4 else if cause = 7 then 5 else 3)

/-- A control write as a request's effect. -/
def State.requestWrite (s : State) (off v : Nat) : State × Nat :=
  match s.writeWord none off v with
  | .ok t => ({ t with lastOff := 0, lastCause := 0 }, 0)
  | .error n => s.refuseReq off n

def blockOffset (p : Nat) : Nat := 0x10000 + 0x800 * p

/-- A new partition with the images, its key and the default limits. Its slices fix the homes of its lines (R24), and its
SHARE is zero, whatever was written there before, until SHARE_SET (R313, R393). DESIGN CHOICE: log 33. -/
def PartImage.partition (img : PartImage) : Partition :=
  { Partition.reset with
    exists_ := true, key := true, quads := img.quads, slices := img.slices, mapped := img.slices, chans := img.chans, meng := img.meng
    ceng := img.ceng, stalls := img.stalls, fwins := img.fwins
    hosts := (img.hosts.map (fun (h : Nat × Nat) => (pageField h.1, pageField h.2)) ++ List.replicate 8 (0, 0)).take 8 }

/-- The digest that a partition-create entry records. -/
def Partition.digest (p : Partition) : List Byte := sha384 ((upTo 0x84).flatMap fun k => leBytes 8 (p.block (8 * k)))

/-- PART_CREATE (R313). DESIGN CHOICE: log 33. -/
def execPartCreate (rq : Req) (p : Nat) (img : PartImage) (s : State) : Host.Outcome State Fault Refusal :=
  manager rq 0x20 (fun s =>
    if 16 ≤ p then (s, 1)
    else
      let b := PartImage.partition img
      let b := { b with numbered := b.owned s.roles }
      if (s.part p).exists_ then s.refuseReq (blockOffset p) 6
      else match s.ownCause p b with
        | 0 =>
          if s.rollFree = 0 then s.refuseReq (blockOffset p) 7
          else (((s.mapPart p fun _ => b).hwRoll 1 0x7FF (leBytes 1 p ++ b.digest)).rtinv none, 0)
        | n => s.refuseReq (blockOffset p) n) s

/-- Every context of a partition is scrubbed and released. -/
def State.releaseAll (s : State) (p : Nat) : State :=
  (s.contexts.filter fun c => c.key.part == p).foldl (fun s c =>
    let pages := s.ctxPages c.key
    let t := { s with tlb := s.tlb.filter fun e => e.ctx ≠ c.key }.freePages pages
    let t := pages.foldl State.zeroPage t
    let t := t.mapContext c.key fun x => { x with scrubbing := false }
    (t.hwRoll 5 (ctxId c.key) (scrubData c.key)).dropContext c.key) s

/-- What the partition's driver and firmware wrote in its mailbox is gone (R6). -/
def State.clearMail (s : State) (p : Nat) : State :=
  let base := 0x80000 + 0x10000 * p
  { s with mail := s.mail.filter fun x => decide (x.1 < base) || decide (base + 0x10000 ≤ x.1) }

/-- The partition's windows are disabled (R111). -/
def State.closeWindows (s : State) (p : Nat) : State :=
  let mine (w : FWin) : Bool := w.en && w.part == p
  let t := (s.fwins.filter mine).foldl State.disableWindow s
  { t with fwins := t.fwins.map fun (w : FWin) => if w.part = p then { w with en := false } else w }

/-- PART_DESTROY (R313): refused while a launch of the partition is live. Its windows are closed, its pages zeroed, and its mailbox
and its stalls' stores cleared for the next owner (R6). -/
def execPartDestroy (rq : Req) (p : Nat) (s : State) : Host.Outcome State Fault Refusal :=
  manager rq 0x21 (fun s =>
    if 16 ≤ p || !(s.part p).exists_ then (s, 1)
    else
      let cs := (s.contexts.filter fun c => c.key.part == p)
      if s.launches.any fun l => l.ctx.part == p then s.refuseReq (blockOffset p) 6
      else if s.rollFree + (cs.filter fun c => c.scrubbing).length < cs.length + 1 then s.refuseReq (blockOffset p) 7
      else
        let t := (s.releaseAll p).closeWindows p
        let pages := t.rotPages.filter fun pg => let e := t.rotOf pg; e.part == p && (e.cls == 1 || e.cls == 2)
        let t := pages.foldl State.zeroPage (t.freePages pages)
        let t := (t.clearMail p).clearStores (s.part p).stalls
        (((t.mapPart p fun _ => Partition.reset).hwRoll 2 0x7FF (leBytes 1 p)).rtinv none, 0)) s

/-- ROLES_SET. -/
def execRolesSet (rq : Req) (roles : BitVec 8) (s : State) : Host.Outcome State Fault Refusal :=
  manager rq 0x22 (fun s => s.requestWrite 0x20000 roles.toNat) s

/-- SHARE_SET. -/
def execShareSet (rq : Req) (p : Nat) (share : DWord) (s : State) : Host.Outcome State Fault Refusal :=
  manager rq 0x23 (fun s => if 16 ≤ p then (s, 1) else s.requestWrite (blockOffset p + 0x418) share.toNat) s

/-- ROUTE_SET (R396). -/
def execRouteSet (rq : Req) (pkg : Nat) (masks : List (BitVec 24)) (s : State) : Host.Outcome State Fault Refusal :=
  manager rq 0x24 (fun s => if 64 ≤ pkg || masks.length ≠ 64 then (s, 1) else ({ s with pkg := pkg, routes := masks }, 0)) s

end Sys2Proof.Machine
end

