-- ==== Sys2Proof/Machine/Outside.lean ====
section
/-! DEFINITION. The host and the peers at the links (R187, R325, R389 to R397, R399, R415). A host or peer access is answered in
`answer`; a refused one is completed with poison, changes nothing and is logged. -/

namespace Sys2Proof.Machine

/-! ### Answers -/

def State.reply (s : State) (bs : List Byte) : State := { s with answer := .data bs }

/-- Completed with poison (R325). -/
def State.replyPoison (s : State) : State := { s with answer := .poison }

/-- Nothing answers. -/
def State.silent (s : State) : State := { s with answer := .none }

/-- Refused: poison, and logged. -/
def State.refuseAccess (s : State) (pa : Nat) : State :=
  { s.replyPoison with refusedLog := { space := .dev, addr := pa } :: s.refusedLog }

/-! ### Who may reach a device page -/

/-- A versioned region inside an open step has the page, in either version (R382). -/
def State.stepOpenAt (s : State) (pg : Nat) : Bool :=
  (upTo 16).any fun p => (s.part p).regions.any fun r =>
    r.2.vers && r.2.open_ && (upTo r.2.pages).any fun k => match s.versPage (userCtx p r.2.ctx) r.2 k with
      | some pa => pa / 65536 == pg || (pa + r.2.voff) / 65536 == pg
      | none => false

/-- The page lets the host in by HX, or a peer by PX (R324, R325). -/
def State.admits (s : State) (host : Bool) (pa : Nat) : Bool :=
  let e := s.rotOf (pa / 65536)
  decide (pa < Config.dramBytes) && !e.scrb && !s.rotBad (pa / 65536) && (if host then e.hx else e.px)

/-- Every byte of an access, and the first of an empty one. -/
def State.admitsAll (s : State) (host : Bool) (pa n : Nat) : Bool := (upTo (max n 1)).all fun i => s.admits host (pa + i)

/-- A read of device bytes from outside, as committed: a running chunk that holds a line goes on, dirty lines are recalled to
their homes, and lines of a window are filled (R112, R355, R394, R396, R415). -/
def State.outsideRead (s : State) (pa n : Nat) : State :=
  let xs := (upTo n).map fun i => s.devLoc (pa + i)
  let t := (s.cleanRanges (distinct (xs.map fun x => (x.line, 128)))).fillLines xs
  if xs.any s.isPoisoned then t.replyPoison else t.reply (xs.map s.byteAt)

/-- A write from outside at one place in the order; it waits for a pre-grant's holder and for an operation that still reads the
bytes (R178, R183, R394, R415). The host's copies of the halves are gone. -/
def State.outsideWrite (s : State) (pa : Nat) (data : List Byte) : State :=
  let ws := data.zipIdx.map fun p => (s.devLoc (pa + p.2), p.1)
  let locs := ws.map fun p => p.1
  if s.sourceHeld none locs then s.hold
  else match s.singleton ws with
    | .done t => ({ t with
        halves := t.halves.filter fun h => !(s.devLoc pa :: locs).any fun x => x.half = h.1
        dirty := t.dirty.filter fun d => !locs.any fun x => x.line = d.line } : State).reply []
    | _ => s.hold

/-! ### The host over CXL.mem (R394) -/

/-- The decoder's range of device memory (R391). -/
def inDecoder (pa : Nat) : Bool := decide (pa < Config.dramBytes)

/-- HOST_MEM_READ of a half, with what the host keeps of it (R187). Outside the decoder's range it reads zeros (R391). -/
def execHostMemRead (pa : Nat) (how : HostRead) (s : State) : Host.Outcome State Fault Refusal :=
  .next (let a := pa / 64 * 64
    let x := s.devLoc a
    if !s.hostThere then s.silent
    else if !s.devready then s.replyPoison
    else if !inDecoder a then s.reply (List.replicate 64 0)
    else if !s.admits true a then s.refuseAccess a
    else
      let t := s.outsideRead a 64
      match how with
      | .plain => t
      | .shared => { t with halves := setKey x .shared t.halves }
      | .owned => { t with halves := setKey x .owned t.halves })

/-- HOST_MEM_WRITE: the bytes of one half. Outside the decoder's range it is ignored (R391). -/
def execHostMemWrite (pa : Nat) (data : List Byte) (s : State) : Host.Outcome State Fault Refusal :=
  .next (if !s.hostThere then s.silent
    else if !s.devready then s.replyPoison
    else if !inDecoder pa then s.reply []
    else if !s.admits true pa || s.stepOpenAt (pa / 65536) then s.refuseAccess pa
    else s.outsideWrite pa (data.take (64 - pa % 64)))

/-- HOST_SNOOP: the bridge cache gives up its copy of a host line; the host's own new bytes, if any, are what a device access
reads next (R394). -/
def execHostSnoop (pa : Nat) (data : Option (List Byte)) (s : State) : Host.Outcome State Fault Refusal :=
  .next (let a := pa / 64 * 64
    let t := { s with bridge := s.bridge.filter fun x => x.addr ≠ a }
    match if s.hostThere then data else none with
    | none => if s.hostThere then t else s
    | some bs => { t with hostMem := memPutBytes t.hostMem a (bs.take 64) })

/-! ### Configuration and registers (R389, R391, R399) -/

/-- The function exists: the physical one, and the virtual one of a partition that exists. -/
def State.function? (s : State) (fn : Nat) : Bool :=
  fn == 0 || (decide (fn ≤ 16) && (s.part (fn - 1)).exists_)

/-- The 8-byte word at an offset of the physical function's BAR0 (R391): the status word, LASTERR and the administrative mailbox.
Outside these it reads zero. -/
def State.barWord0 (s : State) (off : Nat) : Nat :=
  if off = 0 then s.status
  else if off = 8 then s.lastErr
  else if 0x10000 ≤ off && off < 0x20000 then s.adminWord (off - 0x10000)
  else 0

/-- The 8-byte word at an offset of a function's BAR n (R391): that of the physical function; a partition's mailbox in BAR0 and its
notify pages in BAR2, whose reads the manual leaves open. Outside these, and where the partition does not exist, it reads zero.
DESIGN CHOICE: log 22. -/
def State.barWord (s : State) (fn n off : Nat) : Nat :=
  if fn = 0 then (if n = 0 then s.barWord0 off else 0)
  else if !s.function? fn then 0
  else if n = 0 && off < 0x10000 then s.mailWord (fn - 1) off
  else if n = 2 && off < 2 ^ 24 then (Config.mailboxWord (2 ^ 65 + fn) off).toNat
  else 0

/-- CONFIG_REQUEST: of configuration space, retry status before DEVREADY, and no answer from a function that does not exist; or
a read of a BAR, which the status word answers at any time (R399). -/
def execConfigRequest (fn : Nat) (what : ConfigRead) (s : State) : Host.Outcome State Fault Refusal :=
  .next (if !s.hostThere then s.silent
    else match what with
      | .bar n off => s.reply (leBytes 8 (s.barWord fn n (off / 8 * 8)))
      | .config off =>
        if !s.devready then { s with answer := .retry }
        else if s.function? fn then s.reply (leBytes 4 (Config.configWord (fn * 65536 + off)).toNat)
        else s.silent)

/-- CDAT_REQUEST, over DOE (R389). -/
def execCdatRequest (entry : Nat) (s : State) : Host.Outcome State Fault Refusal :=
  .next (if !s.hostThere then s.silent
    else if s.devready then s.reply (leBytes 4 (Config.configWord (2 ^ 32 + entry)).toNat)
    else { s with answer := .retry })

/-! ### Peers (R396, R397) -/

/-- The host may hold a newer copy of some of the bytes. -/
def State.hostHas (s : State) (pa n : Nat) : Bool := (upTo n).any fun i => s.hostOwns (s.devLoc (pa + i))

/-- Every port that leads to a peer is stopped for responses (R397). -/
def State.answersStopped (s : State) (peer : Nat) : Bool :=
  !(s.peerPorts peer).isEmpty && (s.peerPorts peer).all fun p => s.xoff.contains (p, 1)

/-- PEER_ACCESS_REQUEST: checked against PX; it waits for a port that takes its completion, whatever that is (R397), and for halves
that the host owns. A lost peer's message is dropped (R361). Before DEVREADY it is answered as the host is. DESIGN CHOICE: log 13. -/
def execPeerAccessRequest (peer pa : Nat) (acc : PeerAccess) (s : State) : Host.Outcome State Fault Refusal :=
  .next (if s.lost.contains (.peer peer) then { s with droppedLog := .peer peer :: s.droppedLog }
    else if s.answersStopped peer then s.hold
    else if !s.devready then s.replyPoison
    else match acc with
      | .load n =>
        if !s.admitsAll false pa n then s.refuseAccess pa
        else if s.hostHas pa n then s.hold
        else s.outsideRead pa n
      | .store bs =>
        if !s.admitsAll false pa bs.length || s.stepOpenAt (pa / 65536) then
          s.refuseAccess pa
        else if s.hostHas pa bs.length then s.hold
        else s.outsideWrite pa bs)

/-- FLOW_XOFF: nothing more is sent through the port in the class (R397). -/
def execFlowXoff (port cls : Nat) (s : State) : Host.Outcome State Fault Refusal :=
  .next (if port < 24 && cls < 4 then { s with xoff := insertNew (port, cls) s.xoff } else s)

/-- FLOW_XON. -/
def execFlowXon (port cls : Nat) (s : State) : Host.Outcome State Fault Refusal :=
  .next { s with xoff := s.xoff.filter fun p => p ≠ (port, cls) }

/-! ### The link (R389, R390) -/

/-- Lanes 0 to n - 1 are among some lanes. -/
def lanesFrom0 (lanes : BitVec 32) (n : Nat) : Bool := decide (lanes.toNat % 2 ^ n = 2 ^ n - 1)

/-- The widest of x32, x16 and x8, up to a width, whose lanes are all among some lanes; 0 for none. -/
def widest (lanes : BitVec 32) (most : Nat) : Nat := ([32, 16, 8].find? fun n => decide (n ≤ most) && lanesFrom0 lanes n).getD 0

/-- A training state reaches its exit, on the lanes that it has found present or passing; else the state stays. At the fallback
rate only x32 is supported (R389). DEDUCED: log 26. -/
def LinkDir.exit (d : LinkDir) (lanes : BitVec 32) : LinkDir :=
  match d.state with
  | .detect =>
    if 8 ≤ ((upTo 32).filter fun k => lanes.getLsbD k).length then { d with state := .align, present := lanes } else d
  | .align =>
    let n := widest d.present 32
    if n = 0 || (d.slow && n ≠ 32) then d else { d with state := .equalise, width := n }
  | .equalise => if lanesFrom0 lanes d.width then { d with state := .rate } else d
  | .rate =>
    if d.slow then (if lanesFrom0 lanes 32 then { d with state := .active, restarts := 0 } else d)
    else
      let n := widest lanes d.width
      if n = 0 then { d with state := .align, width := 32, slow := true } else { d with state := .active, width := n, restarts := 0 }
  | .active | .down => d

/-- An active link trains again from Detect. -/
def LinkDir.again (d : LinkDir) : LinkDir := { LinkDir.reset with width := d.width }

/-- A training state has not reached its exit in time: training restarts from Detect, and the third restart in a row leaves the
direction down. -/
def LinkDir.restart (d : LinkDir) : LinkDir :=
  match d.state with
  | .active | .down => d
  | _ =>
    if d.restarts + 1 = 3 then { LinkDir.reset with state := .down, restarts := 3 }
    else { LinkDir.reset with restarts := d.restarts + 1 }

/-- LWIDTH's code of a width (R392). -/
def widthCode (n : Nat) : Nat := if n = 32 then 3 else if n = 16 then 2 else if n = 8 then 1 else 0

/-- LWIDTH and LRATE report the result once both directions are active, of the narrower and the slower one; a link that is
down has width 0. DEDUCED: log 26. -/
def State.reportLink (s : State) : State :=
  if s.linkIn.state == .down || s.linkOut.state == .down then { s with lwidth := 0 }
  else if s.linkIn.state == .active && s.linkOut.state == .active then
    { s with lwidth := widthCode (min s.linkIn.width s.linkOut.width), lrate := s.linkIn.slow || s.linkOut.slow }
  else s

/-- One direction changes, once bring-up has reached its step 5: there is no link before (R398, R399). -/
def State.mapLink (s : State) (out : Bool) (f : LinkDir → LinkDir) : State :=
  if s.bringStep < 5 then s
  else (if out then { s with linkOut := f s.linkOut } else { s with linkIn := f s.linkIn }).reportLink

/-- TRAINING_STATE_TIMEOUT, of the direction that the event concerns (R390). -/
def execTrainingStateTimeout (s : State) : Host.Outcome State Fault Refusal :=
  .next (s.mapLink (Config.linkSide s.steps) LinkDir.restart)

/-- LINK_RETRAIN: an active link trains again from Detect in both directions; in training, a direction's state reaches its exit
(R390). DEDUCED: log 26. -/
def execLinkRetrain (s : State) : Host.Outcome State Fault Refusal :=
  .next (if decide (5 ≤ s.bringStep) && s.linkIn.state == .active && s.linkOut.state == .active then
      { s with linkIn := s.linkIn.again, linkOut := s.linkOut.again }
    else s.mapLink (Config.linkSide s.steps) fun d => d.exit (Config.linkLanes s.steps))

/-- LINK_LEVEL_RETRY costs time only (R389, R396); the model counts it. -/
def execLinkLevelRetry (_ : Bool) (_ : Nat) (s : State) : Host.Outcome State Fault Refusal :=
  .next { s with linkRetries := s.linkRetries + 1 }

end Sys2Proof.Machine
end

