-- ==== Sys2Proof/Machine/Pair.lean ====
section
/-! DEFINITION. Pair words: two restricted operations of one issue, both on every lane of it (R57 to R59, R72, R73). -/

namespace Sys2Proof.Machine

/-- A packed operation on both 16-bit halves. -/
def twoHalves (f : Nat → Nat → Nat × Fl) (x y : Nat) : Nat × Fl :=
  let lo := f (x % 65536) (y % 65536)
  let hi := f (x / 65536) (y / 65536)
  (lo.1 + 65536 * hi.1, lo.2 ||| hi.2)

/-- Effect of a half on its destination's old value, its source and its immediate (R72, R73): RNE, no saturation but
that of CVT.I32.F32. -/
def pairVal (o : PairOp) (d a : Nat) (x : BitVec 8) : Nat × Fl :=
  let sd : Int := signed 32 d
  let sa : Int := signed 32 a
  let k : Int := signed 8 x.toNat
  let n := x.toNat % 32
  match o with
  | .iadd => ((d + a) % 2 ^ 32, 0)
  | .isub => (wrapInt 32 ((d : Int) - a), 0)
  | .imul => (d * a % 2 ^ 32, 0)
  | .iminS => (if sd ≤ sa then d else a, 0)
  | .imaxS => (if sd ≤ sa then a else d, 0)
  | .iminU => (min d a, 0)
  | .imaxU => (max d a, 0)
  | .and => (d &&& a, 0)
  | .or => (d ||| a, 0)
  | .xor => (d ^^^ a, 0)
  | .shl => (d * 2 ^ (a % 32) % 2 ^ 32, 0)
  | .shrU => (d / 2 ^ (a % 32), 0)
  | .shrS => (wrapInt 32 (sd / (2 ^ (a % 32) : Nat)), 0)
  | .iaddi => (wrapInt 32 (a + k), 0)
  | .andi => (a &&& wrapInt 32 k, 0)
  | .ori => (a ||| wrapInt 32 k, 0)
  | .xori => (a ^^^ wrapInt 32 k, 0)
  | .shli => (a * 2 ^ n % 2 ^ 32, 0)
  | .shriU => (a / 2 ^ n, 0)
  | .shriS => (wrapInt 32 (sa / (2 ^ n : Nat)), 0)
  | .movi8 => (wrapInt 32 k, 0)
  | .faddF32 => fadd fmtF32 .rne false d a
  | .fsubF32 => fsub fmtF32 .rne false d a
  | .fmulF32 => fmul fmtF32 .rne false d a
  | .fminF32 => fminmax fmtF32 false d a
  | .fmaxF32 => fminmax fmtF32 true d a
  | .faddF16x2 => twoHalves (fadd fmtF16 .rne false) d a
  | .fmulF16x2 => twoHalves (fmul fmtF16 .rne false) d a
  | .faddBf16x2 => twoHalves (fadd fmtBF16 .rne false) d a
  | .fmulBf16x2 => twoHalves (fmul fmtBF16 .rne false) d a
  | .mov => (a, 0)
  | .cvtF32I32 => cvtIF fmtF32 .rne false sa
  | .cvtI32F32 => cvtFI 32 true .rne true (unpack fmtF32 a)
  | .cvtF32F16 => froundV fmtF32 .rne false (unpack fmtF16 (a % 65536))
  | .cvtF32Bf16 => froundV fmtF32 .rne false (unpack fmtBF16 (a % 65536))

/-- The values of a half in a lane, from the registers before the issue. -/
def Iss.half (i : Iss) (h : PairHalf) (l : Nat) : Nat × Fl := pairVal h.op (i.val h.d l 1) (i.val h.a l 1) h.x

/-- Writes one half's results, computed on `b`. -/
def Iss.putHalf (i b : Iss) : Option PairHalf → Iss
  | none => i
  | some h => i.result h.d 1 (b.half h)

/-- How a pair word issues: no guard (R48). -/
def pairKind (h0 h1 : Option PairHalf) : Kind :=
  let hs := h0.toList ++ h1.toList
  { g := { p := 7, neg := false }, pair := true, srcs := hs.flatMap fun h => h.reads.map fun r => (r, 1)
    dsts := hs.map fun h => (h.d, 1) }

/-- A pair word whose naming half has the operation: both halves read before either writes (R58). -/
def pairWord (op : PairOp) (p : PairArgs) (s : State) : Host.Outcome State Fault Refusal :=
  issue (pairKind (p.h0 op) (p.h1 op)) (fun i => .ok ((i.putHalf i (p.h0 op)).putHalf i (p.h1 op))) s

/-! ### The pair operations (R72) -/

def execPairIadd (p : PairArgs) (s : State) : Host.Outcome State Fault Refusal := pairWord .iadd p s
def execPairIsub (p : PairArgs) (s : State) : Host.Outcome State Fault Refusal := pairWord .isub p s
def execPairImul (p : PairArgs) (s : State) : Host.Outcome State Fault Refusal := pairWord .imul p s
def execPairIminS (p : PairArgs) (s : State) : Host.Outcome State Fault Refusal := pairWord .iminS p s
def execPairImaxS (p : PairArgs) (s : State) : Host.Outcome State Fault Refusal := pairWord .imaxS p s
def execPairIminU (p : PairArgs) (s : State) : Host.Outcome State Fault Refusal := pairWord .iminU p s
def execPairImaxU (p : PairArgs) (s : State) : Host.Outcome State Fault Refusal := pairWord .imaxU p s
def execPairAnd (p : PairArgs) (s : State) : Host.Outcome State Fault Refusal := pairWord .and p s
def execPairOr (p : PairArgs) (s : State) : Host.Outcome State Fault Refusal := pairWord .or p s
def execPairXor (p : PairArgs) (s : State) : Host.Outcome State Fault Refusal := pairWord .xor p s
def execPairShl (p : PairArgs) (s : State) : Host.Outcome State Fault Refusal := pairWord .shl p s
def execPairShrU (p : PairArgs) (s : State) : Host.Outcome State Fault Refusal := pairWord .shrU p s
def execPairShrS (p : PairArgs) (s : State) : Host.Outcome State Fault Refusal := pairWord .shrS p s
def execPairIaddi (p : PairArgs) (s : State) : Host.Outcome State Fault Refusal := pairWord .iaddi p s
def execPairAndi (p : PairArgs) (s : State) : Host.Outcome State Fault Refusal := pairWord .andi p s
def execPairOri (p : PairArgs) (s : State) : Host.Outcome State Fault Refusal := pairWord .ori p s
def execPairXori (p : PairArgs) (s : State) : Host.Outcome State Fault Refusal := pairWord .xori p s
def execPairShli (p : PairArgs) (s : State) : Host.Outcome State Fault Refusal := pairWord .shli p s
def execPairShriU (p : PairArgs) (s : State) : Host.Outcome State Fault Refusal := pairWord .shriU p s
def execPairShriS (p : PairArgs) (s : State) : Host.Outcome State Fault Refusal := pairWord .shriS p s
def execPairMovi8 (p : PairArgs) (s : State) : Host.Outcome State Fault Refusal := pairWord .movi8 p s
def execPairFaddF32 (p : PairArgs) (s : State) : Host.Outcome State Fault Refusal := pairWord .faddF32 p s
def execPairFsubF32 (p : PairArgs) (s : State) : Host.Outcome State Fault Refusal := pairWord .fsubF32 p s
def execPairFmulF32 (p : PairArgs) (s : State) : Host.Outcome State Fault Refusal := pairWord .fmulF32 p s
def execPairFminF32 (p : PairArgs) (s : State) : Host.Outcome State Fault Refusal := pairWord .fminF32 p s
def execPairFmaxF32 (p : PairArgs) (s : State) : Host.Outcome State Fault Refusal := pairWord .fmaxF32 p s
def execPairFaddF16x2 (p : PairArgs) (s : State) : Host.Outcome State Fault Refusal := pairWord .faddF16x2 p s
def execPairFmulF16x2 (p : PairArgs) (s : State) : Host.Outcome State Fault Refusal := pairWord .fmulF16x2 p s
def execPairFaddBf16x2 (p : PairArgs) (s : State) : Host.Outcome State Fault Refusal := pairWord .faddBf16x2 p s
def execPairFmulBf16x2 (p : PairArgs) (s : State) : Host.Outcome State Fault Refusal := pairWord .fmulBf16x2 p s
def execPairMov (p : PairArgs) (s : State) : Host.Outcome State Fault Refusal := pairWord .mov p s
def execPairCvtF32I32 (p : PairArgs) (s : State) : Host.Outcome State Fault Refusal := pairWord .cvtF32I32 p s
def execPairCvtI32F32 (p : PairArgs) (s : State) : Host.Outcome State Fault Refusal := pairWord .cvtI32F32 p s
def execPairCvtF32F16 (p : PairArgs) (s : State) : Host.Outcome State Fault Refusal := pairWord .cvtF32F16 p s
def execPairCvtF32Bf16 (p : PairArgs) (s : State) : Host.Outcome State Fault Refusal := pairWord .cvtF32Bf16 p s

end Sys2Proof.Machine
end

