-- ==== Sys2Proof/Machine/Power.lean ====
section
/-! DEFINITION. Bring-up (R398), temperature and power (R12, R401), and the Assay Block: measurement, loaded firmware and
attestation (R328 to R330). -/

namespace Sys2Proof.Machine

/-! ### Measurement (R328) -/

/-- Extends a measurement register. -/
def extend (old digest : List Byte) : List Byte := sha384 (old ++ digest)

/-- Extends some measurement registers, with the digest that bring-up finds for each. -/
def measure (regs : List Nat) (digest : Nat → List Byte) (meas : List (List Byte)) : List (List Byte) :=
  regs.foldl (fun m k => updAt (fun x => extend x (digest k)) m k) meas

/-- The digest of the image of a register: the firmware context's image itself, and what bring-up is given for the others. -/
def bringDigest (o : BringUp) (k : Nat) : List Byte := if k = 2 then sha384 o.fwImage else o.digests.getD k (zeros 48)

/-! ### Bring-up (R398) -/

/-- What outlives a loss of power: the Roll, the record of a trip, and memory outside the module.
DESIGN CHOICE: log 27. -/
def State.dark (s : State) : State :=
  { State.reset with roll := s.roll, tripped := s.tripped, hostMem := s.hostMem, peerMem := s.peerMem, steps := s.steps
                     agenda := s.agenda }

/-- BRING_UP: power-on, or PERST: step 1 begins (R398, R399). DESIGN CHOICE: log 5. -/
def execBringUp (o : BringUp) (s : State) : Host.Outcome State Fault Refusal :=
  .next { s.dark with bringStep := 1, bringing := some o }

/-- The step fails: it is named, or MilperLink trains below x8 or at a width that its rate does not have (R389). Step 7 has no
failure. -/
def bringFails (o : BringUp) (k : Nat) : Bool :=
  (match o.failStep with | some n => n.val == k && k != 7 | none => false)
    || (k == 5 && (o.lwidth.val == 0 || decide (3 < o.lwidth.val) || (o.lrate && o.lwidth.val != 3)))

/-- Loading of the firmware that runs is logged, as long as the Roll has room (R331, R332). -/
def State.logImages (s : State) (o : BringUp) (regs : List Nat) : State :=
  regs.foldl (fun s k => if s.rollFree = 0 then s else s.hwRoll 4 0x7FF (bringDigest o k ++ leBytes 1 k)) s

/-- Lanes of a width code, and a direction that has trained. -/
def trainedLink (o : BringUp) : LinkDir :=
  let n := 4 * 2 ^ o.lwidth.val
  { state := .active, present := BitVec.ofNat 32 (2 ^ n - 1), width := n, slow := o.lrate, restarts := 0 }

/-- Step 6: DRAM is zero, so its pages are class 0; the firmware's are class 3 and hold its image, and so are those of the
reverse ownership table, which follow them (R324). DESIGN CHOICE: log 5. -/
def State.initMemory (s : State) (o : BringUp) : State :=
  let t := { s with
    mem := memPutBytes [] (o.fwBase * 65536) (o.fwImage.take (65536 * o.fwPages))
    rotAt := some ((o.fwBase + o.fwPages) * 65536)
    images := [(o.fwBase, o.fwPages)] }
  (upTo (o.fwPages + Config.rotPages)).foldl
    (fun t k => t.setRot (o.fwBase + k) { RotEntry.reset with scrb := false, cls := 3 }) t

/-- The firmware context and its queue in slot 255 (R315). -/
def State.withFirmware (s : State) (o : BringUp) : State :=
  let c : Context :=
    { key := firmwareCtx, repro := false, exact := false, debug := false, root := o.fwRoot, rounds := 0, phase := .running
      since := 0, watch := 0, extSent := 0, sched := [], schedNext := none, scrubbing := false, release := none }
  let q : Queue :=
    { key := ⟨firmwareCtx.part, 255⟩, ctx := firmwareCtx, header := o.fwHeader, page := 255, slot := some 255, target := 0
      asked := 0, blocked := false }
  { s with contexts := [c], queues := [q], slots := [255] }

/-- What a step of bring-up leaves. -/
def State.bringDone (s : State) (o : BringUp) : Nat → State
  | 1 => { s with meas := measure [0, 1, 2, 4] (bringDigest o) s.meas }.logImages o [1, 2, 4]
  | 4 => { s with meas := measure [3] (bringDigest o) s.meas, forbidden := o.forbidden }
  | 5 => { s with lwidth := o.lwidth.val, lrate := o.lrate, fports := o.fports, linkIn := trainedLink o
                  linkOut := trainedLink o }
  | 6 => s.initMemory o
  | 7 => { s with roles := 0, dirty := [], devready := true, bringing := none }.withFirmware o
  | _ => s

/-- The step of bring-up in progress ends, with each step of the machine: the next one begins, or bring-up stops. -/
def State.bringOn (s : State) : State :=
  match s.bringing with
  | none => s
  | some o =>
    if bringFails o s.bringStep then { s with failed := true, bringing := none }
    else { s.bringDone o s.bringStep with bringStep := s.bringStep + 1 }

/-! ### Temperature and power (R12, R401) -/

/-- THERMWARN and GATED follow the causes. -/
def State.gate (s : State) : State := { s with thermwarn := s.hotTiers != 0, gated := s.hotTiers != 0 || s.overPower }

/-- THERMAL_GATING: a tier above its warning temperature, or the module above its cap. -/
def execThermalGating (tier : Option (Fin 8)) (s : State) : Host.Outcome State Fault Refusal :=
  .next (match tier with
    | some t => { s with hotTiers := s.hotTiers ||| BitVec.ofNat 8 (2 ^ t.val) }.gate
    | none => { s with overPower := true }.gate)

/-- THERMAL_GATING_RELEASE. -/
def execThermalGatingRelease (tier : Option (Fin 8)) (s : State) : Host.Outcome State Fault Refusal :=
  .next (match tier with
    | some t => { s with hotTiers := s.hotTiers &&& ~~~(BitVec.ofNat 8 (2 ^ t.val)) }.gate
    | none => { s with overPower := false }.gate)

/-- THERMAL_TRIP: the power goes, and the trip is recorded. -/
def execThermalTrip (_ : Fin 8) (s : State) : Host.Outcome State Fault Refusal :=
  .next { s.dark with powered := false, tripped := true }

/-- MODULE_POWER_LOSS (R12). -/
def execModulePowerLoss (s : State) : Host.Outcome State Fault Refusal := .next { s.dark with powered := false }

/-- FIRMWARE_LOAD: a verified image is measured into MEAS2 and logged, and lies in class-3 pages (R328, R331, R332). -/
def execFirmwareLoad (pa : Nat) (image : List Byte) (verified : Bool) (s : State) : Host.Outcome State Fault Refusal :=
  .next (if !verified || s.rollFree = 0 || !(pageRange (pa / 65536) ((pa % 65536 + image.length + 65535) / 65536)).all fun pg =>
        (s.rotOf pg).cls == 3 then s
    else
      let d := sha384 image
      let t := { s with meas := updAt (fun x => extend x d) s.meas 2, mem := memPutBytes s.mem pa image }
      { t with images := (pa / 65536, (pa % 65536 + image.length + 65535) / 65536) :: t.images }.hwRoll 4 0x400 (d ++ leBytes 1 2))

/-! ### Attestation (R329, R330) -/

def State.spdmReply (s : State) (bs : List Byte) : State := { s with spdm := { s.spdm with last := bs } }

/-- Bytes that the device chooses, new in each step. -/
def State.attest (s : State) : List Byte := Config.attestBytes s.steps

/-- A signature with the identity key over what is answered; a key-use entry is appended, so a full Roll refuses it (R329,
R332). -/
def State.sign (s : State) (purpose : Nat) (body : List Byte) : State :=
  if s.rollFree = 0 then s.spdmReply []
  else ((s.hwRoll 6 0x7FF (leBytes 2 purpose ++ sha384 body)).spdmReply (body ++ Config.signature body))

/-- The Roll's head as GET_MEASUREMENTS gives it: SEQ and hash. -/
def State.headBytes (s : State) : List Byte := leBytes 8 (s.roll.length - 1) ++ s.rollHead

/-- Index n of GET_MEASUREMENTS. -/
def State.measurement (s : State) (n : Nat) : List Byte :=
  if 1 ≤ n && n ≤ 5 then s.meas.getD (n - 1) [] else if n = 6 then s.headBytes else []

/-- The exchange has agreed on version, capabilities and algorithms. PRESUMED: log 29. -/
def Spdm.ready (x : Spdm) : Bool := x.version && x.caps && x.algs

/-- GET_VERSION begins an exchange afresh. -/
def execGetVersion (_ : SpdmArgs) (s : State) : Host.Outcome State Fault Refusal :=
  .next ({ s with spdm := { s.spdm with version := true, caps := false, algs := false } }.spdmReply (leBytes 2 0x1300))

/-- GET_CAPABILITIES. -/
def execGetCapabilities (_ : SpdmArgs) (s : State) : Host.Outcome State Fault Refusal :=
  .next (if s.spdm.version then { s with spdm := { s.spdm with caps := true } }.spdmReply s.attest else s.spdmReply [])

/-- The offer holds ECDSA P-384 and SHA-384: bit 7 of its first word and bit 1 of its second. PRESUMED: log 29. -/
def offered (bs : List Byte) : Bool := flag (leNat (bs.take 4)) 7 && flag (leNat ((bs.drop 4).take 4)) 1

/-- NEGOTIATE_ALGORITHMS: ECDSA P-384 with SHA-384, or nothing. -/
def execNegotiateAlgorithms (a : SpdmArgs) (s : State) : Host.Outcome State Fault Refusal :=
  .next (if s.spdm.version && s.spdm.caps && offered a.payload then
      { s with spdm := { s.spdm with algs := true } }.spdmReply (leBytes 4 0x80 ++ leBytes 4 2)
    else s.spdmReply [])

/-- GET_DIGESTS: the digest of slot 0's certificate. -/
def execGetDigests (_ : SpdmArgs) (s : State) : Host.Outcome State Fault Refusal :=
  .next (s.spdmReply (if s.spdm.ready then sha384 (Config.attestBytes 0) else []))

/-- GET_CERTIFICATE: slot 0 alone. -/
def execGetCertificate (a : SpdmArgs) (s : State) : Host.Outcome State Fault Refusal :=
  .next (s.spdmReply (if s.spdm.ready && a.param == 0 then Config.attestBytes 0 else []))

/-- CHALLENGE of slot 0: signed. -/
def execChallenge (a : SpdmArgs) (s : State) : Host.Outcome State Fault Refusal :=
  .next (if s.spdm.ready && a.param == 0 then s.sign 1 (a.payload ++ s.attest) else s.spdmReply [])

/-- GET_MEASUREMENTS: `param` names an index, or all with 0xFF; its bit 8 asks for a signature, which covers the nonce. -/
def execGetMeasurements (a : SpdmArgs) (s : State) : Host.Outcome State Fault Refusal :=
  .next (if !s.spdm.ready then s.spdmReply []
    else
      let n := a.param % 256
      let m := if n = 0xFF then (upTo 6).flatMap fun k => s.measurement (k + 1) else s.measurement n
      if a.param.testBit 8 then s.sign 2 (m ++ a.payload) else s.spdmReply m)

/-- KEY_EXCHANGE opens a session; its answer is signed. -/
def execKeyExchange (a : SpdmArgs) (s : State) : Host.Outcome State Fault Refusal :=
  .next (if !s.spdm.ready || s.rollFree = 0 then s.spdmReply []
    else { s with spdm := { s.spdm with session := some a.param } }.sign 3 (a.payload ++ s.attest))

/-- FINISH ends the handshake; the session then carries the key programming of IDE. -/
def execFinish (a : SpdmArgs) (s : State) : Host.Outcome State Fault Refusal :=
  .next (if a.session.isSome && a.session == s.spdm.session then
      { s with spdm := { s.spdm with ideKey := s.spdm.ideKey || !a.payload.isEmpty } }.spdmReply s.attest
    else s.spdmReply [])

/-- END_SESSION. -/
def execEndSession (a : SpdmArgs) (s : State) : Host.Outcome State Fault Refusal :=
  .next (if a.session.isSome && a.session == s.spdm.session then { s with spdm := { s.spdm with session := none } }.spdmReply s.attest
    else s.spdmReply [])

end Sys2Proof.Machine
end

