-- ==== Sys2Proof/Machine/Recovery.lean ====
section
/-! DEFINITION. Soft errors (R351 to R354), directory recall (R355 to R357), and lost agents (R358 to R361). -/

namespace Sys2Proof.Machine

/-! ### Lost agents (R360) -/

/-- An agent's class and index, as a kind-4 notification names it (R350, R358). -/
def AgentId.code : AgentId → Nat × Nat
  | .core n => (0, n)
  | .stall n => (1, n)
  | .engine e => (2, 2 * e.core + e.eng)
  | .copyEngine n => (3, n)
  | .peer n => (4, n)
  | .hostBridge => (5, 0)

def State.incOf (s : State) (a : AgentId) : BitVec 16 := (getKey a s.incarn).getD 0

/-- What the loss of some bytes touches. -/
def lossTouch (x : Loc) (n : Nat) : Touch := { words := (upTo (n / 4)).map fun k => x.plus (4 * k), wiped := [], states := [] }

/-- Some halves are poisoned at one place in the order: chunks that have read them are squashed (R177, R360). -/
def State.poisonAt (s : State) (x : Loc) (n : Nat) : State :=
  let t := (upTo (n / 64)).foldl (fun t k => t.poisonHalf (x.plus (64 * k))) s
  { t with seq := t.seq + 1 }.squashReaders none (lossTouch x n)

/-- Both halves of a line. -/
def State.poisonLine (s : State) (x : Loc) : State := s.poisonAt x.line 128

/-- Launches that committed dirty lines of the agent. -/
def State.dirtyLaunches (s : State) (a : AgentId) : List Nat :=
  match a with | .core n => distinct ((s.dirty.filter fun d => d.core == n).map fun d => d.launch) | _ => []

/-- The dirty lines and Owned halves of an agent. -/
def State.lossesOf (s : State) (a : AgentId) : List (Loc × Nat) :=
  match a with
  | .core n => (distinct ((s.dirty.filter fun d => d.core == n).map fun d => d.line)).map fun x => (x, 128)
  | .hostBridge => (s.halves.filter fun h => h.2 == .owned).map fun h => (h.1, 64)
  | _ => []

/-- Step 2: the lines that the agent held. -/
def State.loseLines (s : State) (a : AgentId) : State :=
  let t := (s.lossesOf a).foldl (fun t r => t.poisonAt r.1 r.2) s
  match a with
  | .core n => { t with dirty := t.dirty.filter fun d => d.core ≠ n }
  | .hostBridge => { t with halves := [] }
  | _ => t

/-- An operation runs on the agent (R360). -/
def State.opOn (s : State) (a : AgentId) (o : Op) : Bool :=
  match a, o.kind with
  | .copyEngine n, .copy _ => o.shadow.isSome && s.coreOf o.launch o.group == n
  | _, _ => false

/-- A run is at work on the agent. -/
def Run.runsOn (r : Run) (a : AgentId) : Bool :=
  match a with
  | .stall n => r.stalls.any fun x => x.stall == n && (x.phase == .running || x.phase == .suspended)
  | _ => false

/-- Blocks of a near-bank launch that a stall has still to do (R380). -/
def Run.blocksOn (r : Run) (a : AgentId) : List Nat :=
  match a with
  | .stall n => match r.stall? n with | some x => (x.rows.drop x.passed).map fun k => k / 32 | none => []
  | _ => []

/-- Step 3: launches that end. -/
def State.launchesOf (s : State) (a : AgentId) : List Nat :=
  let dirt := s.dirtyLaunches a
  (s.launches.filter fun l =>
    dirt.contains l.num
      || (match a with
        | .core n => l.groups.any fun g => g.resident && g.core == n
        | .peer n => l.peers.getLsbD n && l.pkgBars.any fun b => !b.arrived.isEmpty
        | _ => false)
      || s.ops.any (fun o => o.launch == l.num && s.opOn a o)
      || s.runs.any (fun r => r.launch == l.num && r.runsOn a)).map fun l => l.num

/-- The operation targets a peer. -/
def Op.targets (o : Op) (n : Nat) : Bool :=
  match o.kind with
  | .copy _ => (o.sources ++ o.dests).any fun r => r.1.space == .peer n
  | .coll c => c.peers.getLsbD n
  | _ => false

/-- Handles of operations that target a lost peer become Failed; a collective fails by its own rule, with its RESULT (R385). -/
def State.failPeer (s : State) (a : AgentId) : State :=
  match a with
  | .peer n =>
    let copies := s.ops.filter fun o => o.targets n && (match o.kind with | .copy _ => true | _ => false)
    copies.foldl (fun t o => t.endOp o .failed 0) s
  | _ => s

/-- The group that AGENT_LOST reports: the lowest that is resident on the agent or has an operation on it, else 0 (R288). -/
def State.lostGroup (s : State) (a : AgentId) (l : Launch) : Nat :=
  let here := match a with
    | .core n => (l.groups.filter fun g => g.resident && g.core == n).map fun g => g.index
    | _ => []
  let ops := (s.ops.filter fun o => o.launch == l.num && s.opOn a o).map fun o => o.group
  let runs := s.runs.flatMap fun r =>
    if r.launch = l.num && r.runsOn a then (match r.op.bind s.op? with | some o => [o.group] | none => r.blocksOn a) else []
  match here ++ ops ++ runs with | [] => 0 | x :: xs => xs.foldl min x

/-- The loss meets the bits of a pre-grant's holder that stays: it waits for that chunk (R178). -/
def State.lossHeld (s : State) (a : AgentId) : Bool :=
  let ends := s.launchesOf a
  let t (r : Loc × Nat) : Touch := lossTouch r.1 r.2
  s.allWarps.any fun p => p.2.chunk.pregrant == .held && !ends.contains p.1.launch
    && (s.lossesOf a).any fun r => (t r).conflicts p.2.chunk || (t r).hits (p.2.chunk.writes.map fun x => x.1.word)

/-- Declaring an agent lost (R360). DEDUCED: log 28. -/
def State.declareLost (s : State) (a : AgentId) : State :=
  if s.lost.contains a then s
  else if s.lossHeld a then s.later (.agentDeadlineExpiry a)
  else
    let inc := s.incOf a + 1
    let ends := s.launchesOf a
    let t := { s with incarn := setKey a inc s.incarn, lost := a :: s.lost }.loseLines a
    let t := (ends.foldl (fun t n => t.launchFault n { code := .agentLost, group := ((s.launch? n).map (s.lostGroup a)).getD 0 }) t).failPeer a
    let parts := distinct ((s.launches.filter fun l => ends.contains l.num).map fun l => l.ctx.part)
    let d0 : DWord := BitVec.ofNat 64 ((AgentId.code a).1 * 2 ^ 32 + (AgentId.code a).2)
    parts.foldl (fun t p => t.notifyPart p 4 0x7FF d0 (inc.setWidth 64)) (t.notifyAdmin 4 0x7FF d0 (inc.setWidth 64))

/-- AGENT_DEADLINE_EXPIRY (R359, R360). An engine that a residue mismatch has reset, and that does not return, takes its core
with it (R354). DEDUCED: log 31. -/
def execAgentDeadlineExpiry (a : AgentId) (s : State) : Host.Outcome State Fault Refusal :=
  .next (match a with
    | .engine e => if (s.engine e).reset && (s.engine e).mismatched then (s.declareLost a).declareLost (.core e.core) else s.declareLost a
    | _ => s.declareLost a)

/-- STALE_INCARNATION_MESSAGE: dropped and logged (R361). -/
def execStaleIncarnationMessage (a : AgentId) (inc : BitVec 16) (s : State) : Host.Outcome State Fault Refusal :=
  .next (if inc = s.incOf a then s else { s with droppedLog := a :: s.droppedLog })

/-- AGENT_REINSTATEMENT: an agent that passes its test is in service again, with its new incarnation (R360). -/
def execAgentReinstatement (a : AgentId) (passed : Bool) (s : State) : Host.Outcome State Fault Refusal :=
  .next (if passed then { s with lost := s.lost.filter fun x => x ≠ a } else s)

/-! ### Directory recall (R355 to R357) -/

/-- DIRECTORY_RECALL: `granted` tells whether a cut chunk is granted within 256 cycles. Whatever the reason, committed dirty
data goes to the home once the recall is complete. DEDUCED: log 49. -/
def execDirectoryRecall (line : Loc) (_ : RecallReason) (granted : Bool) (s : State) : Host.Outcome State Fault Refusal :=
  .next (s.recallRanges granted [(line.line, 128)])

/-! ### Soft errors (R351) -/

/-- Warps that a warp-state target belongs to. -/
def SoftTarget.warp? : SoftTarget → Option WarpId
  | .vreg w _ _ | .sreg w _ | .pred w _ | .flags w | .gang w | .handle w _ | .undo w _ | .spad w _ | .l1Spec w => some w
  | _ => none

/-- The item of a warp that the target names, and its lane. -/
def SoftTarget.item? : SoftTarget → Option (Item × Nat)
  | .vreg _ r l => some (.v r, l)
  | .sreg _ r => some (.s r, 32)
  | .pred _ r => some (.p r, 32)
  | .flags _ => some (.flags, 32)
  | .gang _ => some (.gang, 32)
  | .handle _ h => some (.h h, 32)
  | _ => none

/-- Launches that hold the state (R351). -/
def State.holders (s : State) (t : SoftTarget) : List Nat :=
  match SoftTarget.warp? t, t with
  | some w, _ => [w.launch]
  | _, .l1Clean x => (s.launches.filter fun l => l.groups.any fun g => g.warps.any fun w => w.chunk.reads.any fun y => y.line = x.line).map
      fun l => l.num
  | _, .l1Dirty x => (s.dirty.filter fun d => d.line == x.line).map fun d => d.launch
  | _, .memory x => (s.dirty.filter fun d => d.line == x.line).map fun d => d.launch
  | _, .tile l _ _ => [l]
  | _, _ => []

/-- A correction counts in CORR of each launch that holds the state (R288). -/
def State.countAll (s : State) (ls : List Nat) : State := (distinct ls).foldl State.countCorr s

/-- A squash for an uncorrectable error: the eighth in a row loses the core (R354). -/
def State.softSquash (s : State) (w : WarpId) : State :=
  match s.warp? w with
  | none => s
  | some x =>
    let n := x.chunk.soft + 1
    let t := (s.countSquash w.launch).mapWarp w fun y => let z := y.squash; { z with chunk := { z.chunk with soft := n } }
    if 8 ≤ n then t.declareLost (.core (s.coreOf w.launch w.group)) else t

/-- Register state of a warp with an uncorrectable error: replayed where the running chunk wrote it, else poisoned. -/
def State.softItem (s : State) (w : WarpId) (it : Item × Nat) : State :=
  match s.warp? w with
  | none => s
  | some x =>
    if x.chunk.logged.contains it.1 then s.softSquash w
    else
      let mark (a : Arch) : Arch := { a with poison := insertNew it a.poison }
      s.mapWarp w fun y => { y with arch := mark y.arch, chunk := { y.chunk with start := mark y.chunk.start } }

/-- A committed half with an uncorrectable error in L2 or DRAM: poisoned, and its owner is told (R350 to R352).
DEDUCED: log 28. -/
def State.softMemory (s : State) (x : Loc) : State :=
  let t := s.poisonHalf x
  match s.physOf x.half with
  | none => t
  | some pa =>
    let e := s.rotOf (pa / 65536)
    let d0 : DWord := BitVec.ofNat 64 pa
    if e.cls = 1 then t.notifyPart e.part 5 (ctxId { part := e.part, ctx := e.ctx, fw := false }) d0 0
    else if e.cls = 2 then t.notifyPart e.part 5 0x7FF d0 0
    else t.notifyAdmin 5 0x7FF d0 0

/-- The first instruction of a chunk (R351, undo buffer). -/
def Chunk.firstPc (c : Chunk) : Nat := match c.start.pick with | some p => p.1 | none => 0

/-- What an uncorrectable error does (R351). The POISON of a lost undo buffer records lane 0 and address 0.
DESIGN CHOICE: log 64. -/
def State.softBad (s : State) (t : SoftTarget) : State :=
  match t with
  | .vreg w _ _ | .sreg w _ | .pred w _ | .flags w | .gang w | .handle w _ =>
    (match SoftTarget.item? t with | some it => s.softItem w it | none => s)
  | .undo w both =>
    (match both, s.warp? w with
      | true, some x => s.takeFault w { code := .poison, warp := w.warp, group := w.group, pc := x.chunk.firstPc }
      | _, _ => s.countAll [w.launch])
  | .spad w n =>
    (match s.warp? w with
      | none => s
      | some x =>
        if x.chunk.logged.contains (.spad n) then s.softSquash w
        else s.poisonHalf { space := .spad w.launch w.group, addr := 4 * n })
  | .l1Spec w => s.softSquash w
  | .l1Clean _ => s.countAll (s.holders t)
  | .l1Dirty x => (s.cleanRanges [(x.line, 128)]).poisonLine x
  | .memory x => s.softMemory x
  | .tile l g n => s.mapGroup l g fun y => { y with tiles := updAt (fun k => { k with poison := true }) y.tiles n }

/-- SOFT_ERROR (R351). DEDUCED: log 50. -/
def execSoftError (t : SoftTarget) (correctable : Bool) (s : State) : Host.Outcome State Fault Refusal :=
  .next (if correctable then s.countAll (s.holders t) else s.softBad t)

end Sys2Proof.Machine
end

