-- ==== Sys2Proof/Machine/System.lean ====
section
/-! DEFINITION. Class X: TRAP and BRK (R347, R348), the firmware's CTLRD, CTLWR, AUDIT and SCRUB (R336 to R340), and a word that
is no instruction (R77, R79). -/

namespace Sys2Proof.Machine

/-- ILLEGAL_ENCODING_ISSUE: the first check of R77. The lanes and the guard do not matter, and the lane is zero. -/
def execIllegalEncodingIssue (_ : IllegalReason) (s : State) : Host.Outcome State Fault Refusal :=
  match s.issueOf { g := { p := 7, neg := false } } with
  | none => .fault .noIssuer
  | some b => .next (b.resolve { g := { p := 7, neg := false } } (fun _ => none) (b.fault .illegalInstr 0 0))

/-- TRAP's fault: the user code goes to the record (R347). -/
def Iss.trap (i : Iss) (code : Word) : Eff Iss := .error (.fault { i.faultInfo .userTrap i.lane 0 with ucode := code } i.s)

/-- TRAP (R347). -/
def execTrap (a : OffArgs) (s : State) : Host.Outcome State Fault Refusal := issue { g := a.g } (fun i => i.trap a.imm) s

/-- BRK (R348): without debugging a TRAP; in a transaction an abort; else its chunk ends, and the context halts at the commit
with the issuing lanes Waiting here. -/
def execBrk (a : OffArgs) (s : State) : Host.Outcome State Fault Refusal :=
  issue { g := a.g, endsAfter := true }
    (fun i =>
      if !i.l.debug then i.trap a.imm
      else if i.w.arch.tx.isSome then .error (.abort 5 0)
      else .ok ((i.wait i.lanes .brk).mapChunk fun c => { c with halt := some (i.pc, a.imm) })) s

/-- How the firmware's instructions issue (R336): irrevocable, between chunks, and only in firmware. -/
def sysKind (g : Guard) (srcs dsts : List (Reg × Nat)) : Kind :=
  { g := g, srcs := srcs, dsts := dsts, firmware := true, endsBefore := true, forbidden := true }

/-- CTLRD and CTLWR check their offset (R337). -/
def badOffset (off : Nat) : Option Code :=
  if off % 8 ≠ 0 then some .misaligned else if 0x2000000 ≤ off then some .address else none

/-- CTLRD (R337). -/
def execCtlrd (a : TwoRegArgs) (s : State) : Host.Outcome State Fault Refusal :=
  issue (sysKind a.g [(a.a, 1)] [(a.d, 2)])
    (fun i =>
      let off := (i.reg a.a 0).toNat
      match badOffset off with
      | some c => i.fault c i.lane off
      | none => .ok ({ i with irrev := true }.write a.d 2 fun _ => i.s.control off)) s

/-- The issue after a control write: what the write did to this very warp is kept. -/
def Iss.withMachine (i : Iss) (t : State) : Iss :=
  { i with s := t, irrev := true
           w := { i.w with handlerDue := match t.warp? i.wid with | some x => x.handlerDue | none => i.w.handlerDue } }

/-- CTLWR (R337): one that covers a pinned page waits (R327). -/
def execCtlwr (a : CtlwrArgs) (s : State) : Host.Outcome State Fault Refusal :=
  issue (sysKind a.g [(a.a, 1), (a.b, 2)] [])
    (fun i =>
      let off := (i.reg a.a 0).toNat
      match badOffset off with
      | some c => i.fault c i.lane off
      | none =>
        let v := i.val a.b 0 2
        if i.s.writeHeld off v then .error .hold
        else
          let r := i.s.controlWrite (some i.wid) off v
          let j := i.withMachine r.1
          .ok (if a.pw then j.writePred a.pd.val fun _ => r.2 else j)) s

/-- The Assay Block signs (SEQ, HASH) of the Roll's head, with a key-use entry of its own where the Roll has room (R329, R330).
DEDUCED: log 21. -/
def State.signHead (s : State) : State :=
  let body := leBytes 8 (s.roll.length - 1) ++ s.rollHead
  if s.rollFree = 0 then { s with auditSig := [] }
  else { s with auditSig := Config.signature body }.hwRoll 6 0x7FF (leBytes 2 4 ++ sha384 body)

/-- AUDIT (R330, R339): the body is read as one 128-byte load; the entry's SEQ, or all ones. DEDUCED: log 21. -/
def execAudit (a : ThreeRegArgs) (s : State) : Host.Outcome State Fault Refusal :=
  issue (sysKind a.g [(a.a, 2), (a.b, 1)] [(a.d, 2)])
    (fun i =>
      let va := i.val a.a 0 2
      let type := (i.reg a.b 0).toNat % 2 ^ 16
      ({ i with irrev := true }.device i.lane va 128 false .read).bind fun (j, xs) =>
        (j.load i.lane va xs).bind fun (k, x) =>
          if type < 0x8000 || k.s.rollFree = 0 then .ok (k.write a.d 2 fun _ => 2 ^ 64 - 1)
          else .ok ({ k with s := (k.s.appendRoll type 1 0x400 (leBytes 128 x)).signHead }.write a.d 2 fun _ => k.s.roll.length)) s

/-- The context that an identifier names (R315). -/
def ctxOfId (n : Nat) : CtxKey := { part := n % 16, ctx := n / 16 % 64, fw := false }

/-- SCRUB (R340): its lanes wait for the scrub, or have the reason why there is none. -/
def execScrub (a : TwoRegArgs) (s : State) : Host.Outcome State Fault Refusal :=
  issue (sysKind a.g [(a.a, 1)] [(a.d, 1)])
    (fun i =>
      let id := (i.reg a.a 0).toNat % 2 ^ 11
      let c := ctxOfId id
      let i := { i with irrev := true }
      match if id < 1024 then i.s.context? c else none with
      | none => .ok (i.write a.d 1 fun _ => 2)
      | some x =>
        if x.scrubbing then .ok (i.wait i.lanes (.scrub c a.d.num))
        else if i.s.hasLaunch c then .ok (i.write a.d 1 fun _ => 1)
        else if i.s.rollFree = 0 then .ok (i.write a.d 1 fun _ => 3)
        else .ok ({ i with s := i.s.startScrub c none }.wait i.lanes (.scrub c a.d.num))) s

end Sys2Proof.Machine
end

