-- ==== Sys2Proof/Machine/Dispatch.lean ====
section
/-! DEFINITION. One arm per instruction: the meaning that a step runs. -/

namespace Sys2Proof.Machine

def exec (i : Instr) (s : State) : Host.Outcome State Fault Refusal :=
  match i with
  | .iadd a => Sys2Proof.Machine.execIadd a s
  | .isub a => Sys2Proof.Machine.execIsub a s
  | .imul a => Sys2Proof.Machine.execImul a s
  | .imulh a => Sys2Proof.Machine.execImulh a s
  | .imad a => Sys2Proof.Machine.execImad a s
  | .idiv a => Sys2Proof.Machine.execIdiv a s
  | .irem a => Sys2Proof.Machine.execIrem a s
  | .imin a => Sys2Proof.Machine.execImin a s
  | .imax a => Sys2Proof.Machine.execImax a s
  | .iabs a => Sys2Proof.Machine.execIabs a s
  | .iadd64 a => Sys2Proof.Machine.execIadd64 a s
  | .isub64 a => Sys2Proof.Machine.execIsub64 a s
  | .lea a => Sys2Proof.Machine.execLea a s
  | .isetp a => Sys2Proof.Machine.execIsetp a s
  | .isetp64 a => Sys2Proof.Machine.execIsetp64 a s
  | .and a => Sys2Proof.Machine.execAnd a s
  | .or a => Sys2Proof.Machine.execOr a s
  | .xor a => Sys2Proof.Machine.execXor a s
  | .tlog a => Sys2Proof.Machine.execTlog a s
  | .shl a => Sys2Proof.Machine.execShl a s
  | .shr a => Sys2Proof.Machine.execShr a s
  | .shw a => Sys2Proof.Machine.execShw a s
  | .popc a => Sys2Proof.Machine.execPopc a s
  | .clz a => Sys2Proof.Machine.execClz a s
  | .brev a => Sys2Proof.Machine.execBrev a s
  | .bfe a => Sys2Proof.Machine.execBfe a s
  | .bfi a => Sys2Proof.Machine.execBfi a s
  | .bpick a => Sys2Proof.Machine.execBpick a s
  | .sel a => Sys2Proof.Machine.execSel a s
  | .mov a => Sys2Proof.Machine.execMov a s
  | .plog a => Sys2Proof.Machine.execPlog a s
  | .movi a => Sys2Proof.Machine.execMovi a s
  | .iaddi a => Sys2Proof.Machine.execIaddi a s
  | .andi a => Sys2Proof.Machine.execAndi a s
  | .ori a => Sys2Proof.Machine.execOri a s
  | .xori a => Sys2Proof.Machine.execXori a s
  | .isetpi a => Sys2Proof.Machine.execIsetpi a s
  | .movw a => Sys2Proof.Machine.execMovw a s
  | .sread a => Sys2Proof.Machine.execSread a s
  | .fadd a => Sys2Proof.Machine.execFadd a s
  | .fsub a => Sys2Proof.Machine.execFsub a s
  | .fmul a => Sys2Proof.Machine.execFmul a s
  | .ffma a => Sys2Proof.Machine.execFfma a s
  | .fmin a => Sys2Proof.Machine.execFmin a s
  | .fmax a => Sys2Proof.Machine.execFmax a s
  | .fsetp a => Sys2Proof.Machine.execFsetp a s
  | .fclass a => Sys2Proof.Machine.execFclass a s
  | .fdiv a => Sys2Proof.Machine.execFdiv a s
  | .fsqrt a => Sys2Proof.Machine.execFsqrt a s
  | .frcp a => Sys2Proof.Machine.execFrcp a s
  | .frsq a => Sys2Proof.Machine.execFrsq a s
  | .fex2 a => Sys2Proof.Machine.execFex2 a s
  | .flg2 a => Sys2Proof.Machine.execFlg2 a s
  | .fsin a => Sys2Proof.Machine.execFsin a s
  | .fcos a => Sys2Proof.Machine.execFcos a s
  | .expr a => Sys2Proof.Machine.execExpr a s
  | .flagrd a => Sys2Proof.Machine.execFlagrd a s
  | .flagclr a => Sys2Proof.Machine.execFlagclr a s
  | .cvt a => Sys2Proof.Machine.execCvt a s
  | .frnd a => Sys2Proof.Machine.execFrnd a s
  | .pack a => Sys2Proof.Machine.execPack a s
  | .unpk a => Sys2Proof.Machine.execUnpk a s
  | .rgtr a => Sys2Proof.Machine.execRgtr a s
  | .xlane a => Sys2Proof.Machine.execXlane a s
  | .poll a => Sys2Proof.Machine.execPoll a s
  | .wred a => Sys2Proof.Machine.execWred a s
  | .wscan a => Sys2Proof.Machine.execWscan a s
  | .eqm a => Sys2Proof.Machine.execEqm a s
  | .rdlane a => Sys2Proof.Machine.execRdlane a s
  | .ld a => Sys2Proof.Machine.execLd a s
  | .st a => Sys2Proof.Machine.execSt a s
  | .lds a => Sys2Proof.Machine.execLds a s
  | .sts a => Sys2Proof.Machine.execSts a s
  | .atom a => Sys2Proof.Machine.execAtom a s
  | .atoms a => Sys2Proof.Machine.execAtoms a s
  | .red a => Sys2Proof.Machine.execRed a s
  | .cas a => Sys2Proof.Machine.execCas a s
  | .enq a => Sys2Proof.Machine.execEnq a s
  | .deq a => Sys2Proof.Machine.execDeq a s
  | .pgenum a => Sys2Proof.Machine.execPgenum a s
  | .pgstat a => Sys2Proof.Machine.execPgstat a s
  | .pgreset a => Sys2Proof.Machine.execPgreset a s
  | .regsweep a => Sys2Proof.Machine.execRegsweep a s
  | .prefetch a => Sys2Proof.Machine.execPrefetch a s
  | .lnflush a => Sys2Proof.Machine.execLnflush a s
  | .chunk g => Sys2Proof.Machine.execChunk g s
  | .txbegin a => Sys2Proof.Machine.execTxbegin a s
  | .txend g => Sys2Proof.Machine.execTxend g s
  | .txabort a => Sys2Proof.Machine.execTxabort a s
  | .settle g => Sys2Proof.Machine.execSettle g s
  | .beat g => Sys2Proof.Machine.execBeat g s
  | .copy a => Sys2Proof.Machine.execCopy a s
  | .hwait a => Sys2Proof.Machine.execHwait a s
  | .htest a => Sys2Proof.Machine.execHtest a s
  | .hcancel a => Sys2Proof.Machine.execHcancel a s
  | .htok a => Sys2Proof.Machine.execHtok a s
  | .hadopt a => Sys2Proof.Machine.execHadopt a s
  | .awinit a => Sys2Proof.Machine.execAwinit a s
  | .arrive a => Sys2Proof.Machine.execArrive a s
  | .await a => Sys2Proof.Machine.execAwait a s
  | .nbrun a => Sys2Proof.Machine.execNbrun a s
  | .nbload a => Sys2Proof.Machine.execNbload a s
  | .stepopen a => Sys2Proof.Machine.execStepopen a s
  | .stepend a => Sys2Proof.Machine.execStepend a s
  | .coll a => Sys2Proof.Machine.execColl a s
  | .gang a => Sys2Proof.Machine.execGang a s
  | .mma a => Sys2Proof.Machine.execMma a s
  | .accz a => Sys2Proof.Machine.execAccz a s
  | .accld a => Sys2Proof.Machine.execAccld a s
  | .accst a => Sys2Proof.Machine.execAccst a s
  | .accrd a => Sys2Proof.Machine.execAccrd a s
  | .nop g => Sys2Proof.Machine.execNop g s
  | .bra a => Sys2Proof.Machine.execBra a s
  | .brx a => Sys2Proof.Machine.execBrx a s
  | .jmp a => Sys2Proof.Machine.execJmp a s
  | .call a => Sys2Proof.Machine.execCall a s
  | .callr a => Sys2Proof.Machine.execCallr a s
  | .ret a => Sys2Proof.Machine.execRet a s
  | .exit g => Sys2Proof.Machine.execExit g s
  | .wsync a => Sys2Proof.Machine.execWsync a s
  | .bar a => Sys2Proof.Machine.execBar a s
  | .bara a => Sys2Proof.Machine.execBara a s
  | .barw a => Sys2Proof.Machine.execBarw a s
  | .yield a => Sys2Proof.Machine.execYield a s
  | .sleep a => Sys2Proof.Machine.execSleep a s
  | .launch a => Sys2Proof.Machine.execLaunch a s
  | .depdone g => Sys2Proof.Machine.execDepdone g s
  | .ydone g => Sys2Proof.Machine.execYdone g s
  | .yret g => Sys2Proof.Machine.execYret g s
  | .trap a => Sys2Proof.Machine.execTrap a s
  | .brk a => Sys2Proof.Machine.execBrk a s
  | .ctlrd a => Sys2Proof.Machine.execCtlrd a s
  | .ctlwr a => Sys2Proof.Machine.execCtlwr a s
  | .audit a => Sys2Proof.Machine.execAudit a s
  | .scrub a => Sys2Proof.Machine.execScrub a s
  | .illegalEncodingIssue why => Sys2Proof.Machine.execIllegalEncodingIssue why s
  | .pairIadd p => Sys2Proof.Machine.execPairIadd p s
  | .pairIsub p => Sys2Proof.Machine.execPairIsub p s
  | .pairImul p => Sys2Proof.Machine.execPairImul p s
  | .pairIminS p => Sys2Proof.Machine.execPairIminS p s
  | .pairImaxS p => Sys2Proof.Machine.execPairImaxS p s
  | .pairIminU p => Sys2Proof.Machine.execPairIminU p s
  | .pairImaxU p => Sys2Proof.Machine.execPairImaxU p s
  | .pairAnd p => Sys2Proof.Machine.execPairAnd p s
  | .pairOr p => Sys2Proof.Machine.execPairOr p s
  | .pairXor p => Sys2Proof.Machine.execPairXor p s
  | .pairShl p => Sys2Proof.Machine.execPairShl p s
  | .pairShrU p => Sys2Proof.Machine.execPairShrU p s
  | .pairShrS p => Sys2Proof.Machine.execPairShrS p s
  | .pairIaddi p => Sys2Proof.Machine.execPairIaddi p s
  | .pairAndi p => Sys2Proof.Machine.execPairAndi p s
  | .pairOri p => Sys2Proof.Machine.execPairOri p s
  | .pairXori p => Sys2Proof.Machine.execPairXori p s
  | .pairShli p => Sys2Proof.Machine.execPairShli p s
  | .pairShriU p => Sys2Proof.Machine.execPairShriU p s
  | .pairShriS p => Sys2Proof.Machine.execPairShriS p s
  | .pairMovi8 p => Sys2Proof.Machine.execPairMovi8 p s
  | .pairFaddF32 p => Sys2Proof.Machine.execPairFaddF32 p s
  | .pairFsubF32 p => Sys2Proof.Machine.execPairFsubF32 p s
  | .pairFmulF32 p => Sys2Proof.Machine.execPairFmulF32 p s
  | .pairFminF32 p => Sys2Proof.Machine.execPairFminF32 p s
  | .pairFmaxF32 p => Sys2Proof.Machine.execPairFmaxF32 p s
  | .pairFaddF16x2 p => Sys2Proof.Machine.execPairFaddF16x2 p s
  | .pairFmulF16x2 p => Sys2Proof.Machine.execPairFmulF16x2 p s
  | .pairFaddBf16x2 p => Sys2Proof.Machine.execPairFaddBf16x2 p s
  | .pairFmulBf16x2 p => Sys2Proof.Machine.execPairFmulBf16x2 p s
  | .pairMov p => Sys2Proof.Machine.execPairMov p s
  | .pairCvtF32I32 p => Sys2Proof.Machine.execPairCvtF32I32 p s
  | .pairCvtI32F32 p => Sys2Proof.Machine.execPairCvtI32F32 p s
  | .pairCvtF32F16 p => Sys2Proof.Machine.execPairCvtF32F16 p s
  | .pairCvtF32Bf16 p => Sys2Proof.Machine.execPairCvtF32Bf16 p s
  | .nnop => Sys2Proof.Machine.execNnop s
  | .nopen st => Sys2Proof.Machine.execNopen st s
  | .nopens st => Sys2Proof.Machine.execNopens st s
  | .nclose => Sys2Proof.Machine.execNclose s
  | .nrd bd => Sys2Proof.Machine.execNrd bd s
  | .nwr ba => Sys2Proof.Machine.execNwr ba s
  | .nadd bd ba bb => Sys2Proof.Machine.execNadd bd ba bb s
  | .nsub bd ba bb => Sys2Proof.Machine.execNsub bd ba bb s
  | .nmul bd ba bb => Sys2Proof.Machine.execNmul bd ba bb s
  | .nfma bd ba bb => Sys2Proof.Machine.execNfma bd ba bb s
  | .naxpy bd ba ns => Sys2Proof.Machine.execNaxpy bd ba ns s
  | .nscale bd ba ns => Sys2Proof.Machine.execNscale bd ba ns s
  | .nmax bd ba bb => Sys2Proof.Machine.execNmax bd ba bb s
  | .nmin bd ba bb => Sys2Proof.Machine.execNmin bd ba bb s
  | .nrsq bd ba => Sys2Proof.Machine.execNrsq bd ba s
  | .nchk ba => Sys2Proof.Machine.execNchk ba s
  | .nmovb bd ba => Sys2Proof.Machine.execNmovb bd ba s
  | .nset nd imm => Sys2Proof.Machine.execNset nd imm s
  | .nseth nd imm => Sys2Proof.Machine.execNseth nd imm s
  | .naddi nd imm => Sys2Proof.Machine.execNaddi nd imm s
  | .nlds nd k => Sys2Proof.Machine.execNlds nd k s
  | .nloop nd tgt => Sys2Proof.Machine.execNloop nd tgt s
  | .nbra tgt => Sys2Proof.Machine.execNbra tgt s
  | .nbrz nd tgt => Sys2Proof.Machine.execNbrz nd tgt s
  | .npoint => Sys2Proof.Machine.execNpoint s
  | .ndone => Sys2Proof.Machine.execNdone s
  | .chunkCommit w => Sys2Proof.Machine.execChunkCommit w s
  | .preGrant w => Sys2Proof.Machine.execPreGrant w s
  | .redApplication op => Sys2Proof.Machine.execRedApplication op s
  | .commitRound c => Sys2Proof.Machine.execCommitRound c s
  | .heartbeatTick => Sys2Proof.Machine.execHeartbeatTick s
  | .tileOpStart e => Sys2Proof.Machine.execTileOpStart e s
  | .mmaKstep e mismatch => Sys2Proof.Machine.execMmaKstep e mismatch s
  | .tileOpComplete e => Sys2Proof.Machine.execTileOpComplete e s
  | .engineWatchdogExpiry e => Sys2Proof.Machine.execEngineWatchdogExpiry e s
  | .engineReturnToService e => Sys2Proof.Machine.execEngineReturnToService e s
  | .copyEngineStart op => Sys2Proof.Machine.execCopyEngineStart op s
  | .copyPublish op => Sys2Proof.Machine.execCopyPublish op s
  | .barrowFillPublish l g => Sys2Proof.Machine.execBarrowFillPublish l g s
  | .sleepExpiry w => Sys2Proof.Machine.execSleepExpiry w s
  | .directoryRecall line reason granted => Sys2Proof.Machine.execDirectoryRecall line reason granted s
  | .notify q off n => Sys2Proof.Machine.execNotify q off n s
  | .launchAdmission q => Sys2Proof.Machine.execLaunchAdmission q s
  | .queueMap q slot => Sys2Proof.Machine.execQueueMap q slot s
  | .queueUnmap q => Sys2Proof.Machine.execQueueUnmap q s
  | .groupDispatch l core => Sys2Proof.Machine.execGroupDispatch l core s
  | .groupComplete l g => Sys2Proof.Machine.execGroupComplete l g s
  | .launchFaultEnd l => Sys2Proof.Machine.execLaunchFaultEnd l s
  | .timeSliceExpiry c => Sys2Proof.Machine.execTimeSliceExpiry c s
  | .priorityPreemption c => Sys2Proof.Machine.execPriorityPreemption c s
  | .roleChangeReEnumeration => Sys2Proof.Machine.execRoleChangeReEnumeration s
  | .yieldHandlerEntry w => Sys2Proof.Machine.execYieldHandlerEntry w s
  | .forcedSaveDeadline c => Sys2Proof.Machine.execForcedSaveDeadline c s
  | .contextResume c places => Sys2Proof.Machine.execContextResume c places s
  | .noCommitWatchdogExpiry c => Sys2Proof.Machine.execNoCommitWatchdogExpiry c s
  | .externalWaitLimit c => Sys2Proof.Machine.execExternalWaitLimit c s
  | .poolWaitExpiry w => Sys2Proof.Machine.execPoolWaitExpiry w s
  | .pageRelease part va => Sys2Proof.Machine.execPageRelease part va s
  | .pageScrubComplete page => Sys2Proof.Machine.execPageScrubComplete page s
  | .stallRunStart run stall => Sys2Proof.Machine.execStallRunStart run stall s
  | .stallResume run stall => Sys2Proof.Machine.execStallResume run stall s
  | .collectivePublish op => Sys2Proof.Machine.execCollectivePublish op s
  | .collectiveFail op => Sys2Proof.Machine.execCollectiveFail op s
  | .softError t correctable => Sys2Proof.Machine.execSoftError t correctable s
  | .agentDeadlineExpiry a => Sys2Proof.Machine.execAgentDeadlineExpiry a s
  | .staleIncarnationMessage a inc => Sys2Proof.Machine.execStaleIncarnationMessage a inc s
  | .hostMemRead pa how => Sys2Proof.Machine.execHostMemRead pa how s
  | .hostMemWrite pa data => Sys2Proof.Machine.execHostMemWrite pa data s
  | .hostSnoop pa data => Sys2Proof.Machine.execHostSnoop pa data s
  | .configRequest fn off => Sys2Proof.Machine.execConfigRequest fn off s
  | .peerAccessRequest peer pa acc => Sys2Proof.Machine.execPeerAccessRequest peer pa acc s
  | .flowXoff port cls => Sys2Proof.Machine.execFlowXoff port cls s
  | .flowXon port cls => Sys2Proof.Machine.execFlowXon port cls s
  | .trainingStateTimeout => Sys2Proof.Machine.execTrainingStateTimeout s
  | .linkRetrain => Sys2Proof.Machine.execLinkRetrain s
  | .bringUp o => Sys2Proof.Machine.execBringUp o s
  | .thermalGating tier => Sys2Proof.Machine.execThermalGating tier s
  | .thermalTrip tier => Sys2Proof.Machine.execThermalTrip tier s
  | .ctxCreate rq ctx repro exact root => Sys2Proof.Machine.execCtxCreate rq ctx repro exact root s
  | .ctxRelease rq ctx => Sys2Proof.Machine.execCtxRelease rq ctx s
  | .queueReg rq ctx idx header page => Sys2Proof.Machine.execQueueReg rq ctx idx header page s
  | .queueUnreg rq ctx idx => Sys2Proof.Machine.execQueueUnreg rq ctx idx s
  | .regionCreate rq ctx r => Sys2Proof.Machine.execRegionCreate rq ctx r s
  | .regionDestroy rq idx => Sys2Proof.Machine.execRegionDestroy rq idx s
  | .poolGrant rq page n => Sys2Proof.Machine.execPoolGrant rq page n s
  | .pageAssign rq page n cls ctx hx px => Sys2Proof.Machine.execPageAssign rq page n cls ctx hx px s
  | .pageFree rq page n => Sys2Proof.Machine.execPageFree rq page n s
  | .tlbInv rq ctx all va n => Sys2Proof.Machine.execTlbInv rq ctx all va n s
  | .setLimits rq pool slice ext => Sys2Proof.Machine.execSetLimits rq pool slice ext s
  | .debugCtl rq ctx op => Sys2Proof.Machine.execDebugCtl rq ctx op s
  | .schedSet rq ctx addr n => Sys2Proof.Machine.execSchedSet rq ctx addr n s
  | .mailboxUnknownCode rq code => Sys2Proof.Machine.execMailboxUnknownCode rq code s
  | .partCreate rq p img => Sys2Proof.Machine.execPartCreate rq p img s
  | .partDestroy rq p => Sys2Proof.Machine.execPartDestroy rq p s
  | .rolesSet rq roles => Sys2Proof.Machine.execRolesSet rq roles s
  | .shareSet rq p share => Sys2Proof.Machine.execShareSet rq p share s
  | .routeSet rq pkg masks => Sys2Proof.Machine.execRouteSet rq pkg masks s
  | .rolesWrite v => Sys2Proof.Machine.execRolesWrite v s
  | .rtinvWrite v => Sys2Proof.Machine.execRtinvWrite v s
  | .fwinCtlWrite n v => Sys2Proof.Machine.execFwinCtlWrite n v s
  | .ownershipWrite p off v => Sys2Proof.Machine.execOwnershipWrite p off v s
  | .controlRegisterWrite off v => Sys2Proof.Machine.execControlRegisterWrite off v s
  | .getVersion a => Sys2Proof.Machine.execGetVersion a s
  | .getCapabilities a => Sys2Proof.Machine.execGetCapabilities a s
  | .negotiateAlgorithms a => Sys2Proof.Machine.execNegotiateAlgorithms a s
  | .getDigests a => Sys2Proof.Machine.execGetDigests a s
  | .getCertificate a => Sys2Proof.Machine.execGetCertificate a s
  | .challenge a => Sys2Proof.Machine.execChallenge a s
  | .getMeasurements a => Sys2Proof.Machine.execGetMeasurements a s
  | .keyExchange a => Sys2Proof.Machine.execKeyExchange a s
  | .finish a => Sys2Proof.Machine.execFinish a s
  | .endSession a => Sys2Proof.Machine.execEndSession a s
  | .agentReinstatement a passed => Sys2Proof.Machine.execAgentReinstatement a passed s
  | .thermalGatingRelease tier => Sys2Proof.Machine.execThermalGatingRelease tier s
  | .linkLevelRetry fabric port => Sys2Proof.Machine.execLinkLevelRetry fabric port s
  | .firmwareLoad pa image verified => Sys2Proof.Machine.execFirmwareLoad pa image verified s
  | .cdatRequest entry => Sys2Proof.Machine.execCdatRequest entry s
  | .modulePowerLoss => Sys2Proof.Machine.execModulePowerLoss s

end Sys2Proof.Machine
end

