-- ==== Sys2Proof/Machine/Fetch.lean ====
section
/-! DEFINITION. What a step is about to do: the agent whose turn it is (log 2), the fetch of a warp's or a stall's instruction
(R42, R44, R77, R366), and the scaffold on which one given instruction comes next. -/

namespace Sys2Proof.Machine

/-! ### The agent of a step -/

/-- A wait for backing may have passed its limit. -/
def poolAction (x : PoolWaiter) (since : Option Nat) : List Action := if since.isSome then [.event (.poolWaitExpiry x)] else []

/-- Things that a warp's state asks for. -/
def State.warpActions (s : State) (p : WarpId × Warp) : List Action :=
  (if s.canIssue p.1 then [.issue p.1] else [])
    ++ (if p.2.chunk.ended then [.event (.chunkCommit p.1)] else [])
    ++ (if p.2.chunk.pregrant == .waiting then [.event (.preGrant p.1)] else [])
    ++ (if p.2.arch.waits.any fun w => w.kind.sleepOver s.cycle then [.event (.sleepExpiry p.1)] else [])
    ++ (if p.2.handlerDue && p.2.atBoundary then [.event (.yieldHandlerEntry p.1)] else [])
    ++ poolAction (.chunk p.1) p.2.chunk.poolSince

/-- Things that an operation in flight asks for. -/
def State.opActions (s : State) (o : Op) : List Action :=
  poolAction (.op o.num) o.poolSince ++ match o.kind with
  | .red _ => [.event (.redApplication o.num)]
  | .copy _ => [.event (if o.shadow.isSome then .copyPublish o.num else .copyEngineStart o.num)]
  | .coll c => [.event (if s.peerLost c then .collectiveFail o.num else .collectivePublish o.num)]
  | .tile _ => []
  | .run => []

/-- Things that an engine asks for. -/
def Engine.actions (e : Engine) : List Action :=
  [.event (if e.running then .mmaKstep e.id false else .tileOpStart e.id), .event (.tileOpComplete e.id)]
    ++ (if e.running then [.event (.engineWatchdogExpiry e.id)] else [])
    ++ (if e.reset then [.event (.engineReturnToService e.id)] else [])

/-- Things that a stall of a run asks for. -/
def Run.stallActions (r : Run) (k : Nat) : List Action :=
  match (r.stall? k).map fun (x : StallRun) => x.phase with
  | some .running => [.stall r.num k]
  | some .suspended => [.event (.stallResume r.num k)]
  | some .done => []
  | _ => [.event (.stallRunStart r.num k)]

/-- Things that a run asks for. Its pinning is tried at stall 0 where its streams do not name its stalls, since it then ends the
launch (R374). -/
def State.runActions (s : State) (r : Run) : List Action :=
  (match s.stallsOf r with
    | [] => if r.pinned then [] else [.event (.stallRunStart r.num 0)]
    | ks => ks.flatMap r.stallActions)
    ++ r.stalls.flatMap fun (x : StallRun) => poolAction (.stall r.num x.stall) x.poolSince

/-- Things that a launch asks for. -/
def State.launchActions (s : State) (l : Launch) : List Action :=
  (if l.fault.isSome || l.saveInvalid then [.event (.launchFaultEnd l.num)] else [])
    ++ (match s.nextGroup l with
      | some g => (allCores.filter (s.placeable l g)).map fun k => .event (.groupDispatch l.num k)
      | none => [])
    ++ (l.groups.flatMap fun g => (if g.fill == .pending then [.event (.barrowFillPublish l.num g.index)] else [])
      ++ (if s.groupOver l g then [.event (.groupComplete l.num g.index)] else []))
    ++ (if l.desc.isSome then [.event (.groupComplete l.num 0)] else [])

/-- A saved context that waits for its turn to resume: one that could return if it had the machine to itself. -/
def State.couldReturn (s : State) (c : Context) : Bool := c.phase == .saved && ((s.alone c.key).resumePlaces c.key).isSome

/-- Of the saved contexts of a partition the one that was saved first resumes first, so that each comes to its turn (R5).
DESIGN CHOICE: log 2. -/
def State.resumesNext (s : State) (c : Context) : Bool :=
  s.couldReturn c && s.contexts.all fun y =>
    y.key == c.key || y.key.part != c.key.part || y.key.fw != c.key.fw || !s.couldReturn y || decide (c.since < y.since)
      || (c.since == y.since && decide (ctxId c.key < ctxId y.key))

/-- The resume of a saved context, when it is its turn and there is room. -/
def State.resumeActions (s : State) (c : Context) : List Action :=
  if !s.resumesNext c then []
  else match s.resumePlaces c.key with | some ps => [.event (.contextResume c.key ps)] | none => []

/-- Things that a context asks for. -/
def State.contextActions (s : State) (c : Context) : List Action :=
  (if c.repro then [.event (.commitRound c.key)] else [])
    ++ (match c.phase with
      | .running =>
        [.event (.timeSliceExpiry c.key), .event (.priorityPreemption c.key), .event (.noCommitWatchdogExpiry c.key)
          , .event (.externalWaitLimit c.key)]
      | .yielding | .halting =>
        [.event (.forcedSaveDeadline c.key), .event (.noCommitWatchdogExpiry c.key), .event (.externalWaitLimit c.key)]
      | .saved => s.resumeActions c
      | .halted => [])

/-- The lowest hardware slot that is free for a user queue (R272, R315). -/
def State.freeSlot (s : State) : Option Nat := (upTo 255).find? fun n => !s.slots.contains n

/-- Things that a queue asks for: an admission, or a slot. Where none is free, a queue that has one may give it up (R272). -/
def State.queueActions (s : State) (q : Queue) : List Action :=
  (if q.slot.isSome then [.event (.launchAdmission q.key)] else [])
    ++ (match s.freeSlot with
      | some n => if s.waitsSlot q then [.event (.queueMap q.key n)] else []
      | none => if q.slot.isSome && s.queues.any s.waitsSlot then [.event (.queueUnmap q.key)] else [])

/-- Pages that a region could release (R218). -/
def regionActions (p : Nat) (r : Nat × Region) : List Action :=
  if r.2.sparse then r.2.backed.map fun b => .event (.pageRelease p (r.2.base + b.1 * 65536)) else []

/-- Everything that some agent of the device could do next, and the requests that wait; the heartbeat last. -/
def State.actions (s : State) : List Action :=
  (s.allWarps.flatMap s.warpActions) ++ (s.ops.flatMap s.opActions) ++ (s.engines.flatMap Engine.actions)
    ++ (s.runs.flatMap s.runActions) ++ (s.launches.flatMap s.launchActions) ++ (s.contexts.flatMap s.contextActions)
    ++ (s.queues.flatMap s.queueActions) ++ (s.deferred.map Action.event)
    ++ ((s.rotPages.filter fun pg => (s.rotOf pg).scrb).map fun pg => .event (.pageScrubComplete pg))
    ++ (s.parts.zipIdx.flatMap fun p => p.1.regions.flatMap (regionActions p.2))
    ++ (if s.roleChange.isSome then [.event .roleChangeReEnumeration] else []) ++ [.event .heartbeatTick]

/-- What is to be done: the agenda, and when that is empty a round of everything possible, so that whatever stays possible is
done in the next round at the latest (R5). DESIGN CHOICE: log 2. -/
def State.plan (s : State) : List Action := match s.agenda with | [] => s.actions | l => l

/-- The next action. -/
def State.nextAction (s : State) : Action := s.plan.headD (.event .heartbeatTick)

/-! ### Fetch -/

/-- One word of a context's code, as it stands when it is fetched, also where the host has written it since the launch began
(R44). DESIGN CHOICE: log 66. A poisoned word, or one that a peer refuses, is consumed (R353, R397); the line that holds the word,
and the entries walked to it, fill lines of windows (R112). -/
def State.fetchWord (s : State) (c : CtxKey) (core pc : Nat) : Except (State × Code) (State × Nat) :=
  match s.xlate c core pc .exec with
  | .error e => .error (s.walkFill c core pc, e)
  | .ok x =>
    let t := x.s.fillLines [x.loc]
    if t.isPoisoned x.loc || t.refuses x.loc then .error (t, .poison) else .ok (t, leNat (t.bytesAt x.loc 8))

/-- The host holds a newer copy of a word of code, or of an entry that is walked to it, or no request can be sent to the word: the
fetch waits (R187, R397). -/
def State.wordHeld (s : State) (c : CtxKey) (core pc : Nat) : Bool :=
  s.walkOwned c core pc || (match s.xlate c core pc .exec with | .ok x => s.hostOwns x.loc || s.unreachable core x.loc | .error _ => false)

/-- The instruction that a decoder's answer stands for: an illegal encoding issues as such (R49). -/
def decoded (r : Except IllegalReason Instr) : Instr := match r with | .ok i => i | .error why => .illegalEncodingIssue why

/-- The word after an address. -/
def nextWord (pc : Nat) : Nat := (pc + 8) % 2 ^ 64

/-- The fetch of the instruction at an address must wait (R187). -/
def State.fetchWaits (s : State) (c : CtxKey) (core pc : Nat) : Bool :=
  pc % 8 == 0 && (s.wordHeld c core pc || (match s.fetchWord c core pc with
    | .ok (t, w) => wantsContinuation w && t.wordHeld c core (nextWord pc)
    | .error _ => false))

/-- The instruction at an address, or the fault and the address where it is recorded (R42, R77). Only a yield handler's address
can be misaligned here, and it has no transferring instruction: the fault is recorded at the handler's address. DESIGN CHOICE:
log 64. -/
def State.fetch (s : State) (c : CtxKey) (core pc : Nat) : Except (State × Code × Nat) (State × Instr) :=
  if pc % 8 ≠ 0 then .error (s, .misaligned, pc)
  else match s.fetchWord c core pc with
    | .error (t, e) => .error (t, e, pc)
    | .ok (t, w) =>
      if !wantsContinuation w then .ok (t, decoded (decodeCore w none))
      else match t.fetchWord c core (nextWord pc) with
        | .error (u, e) => .error (u, e, nextWord pc)
        | .ok (u, w2) => .ok (u, decoded (decodeCore w (some w2)))

/-- Pages of the code of the instruction at an address: a two-word instruction may lie on two (R326). -/
def State.codePages (s : State) (c : CtxKey) (core pc : Nat) : List Nat :=
  match s.fetchWord c core pc with
  | .error _ => []
  | .ok (_, w) =>
    (if wantsContinuation w then [pc, pc + 8] else [pc]).map fun a => a % 2 ^ 57 / 65536

/-- A warp's issue is set up: its address, its lanes and its instruction (R249). The chunk keeps the pages of its code
(R326). -/
def State.loadWarp (s : State) (id : WarpId) : State × Option Instr :=
  match s.launch? id.launch, s.group? id.launch id.group, s.warp? id with
  | some l, some g, some w =>
    if !s.canIssue id then (s, none)
    else match w.arch.pick with
      | none => (s, none)
      | some (pc, lanes) =>
        if s.fetchWaits l.ctx g.core pc then (s, none)
        else match s.fetch l.ctx g.core pc with
        | .error (t, e, at_) => (t.takeFault id { code := e, warp := id.warp, group := id.group, pc := at_ }, none)
        | .ok (t, i) =>
          let t := t.mapWarp id fun x =>
            { x with chunk := { x.chunk with pages := (t.codePages l.ctx g.core pc).foldl (fun l n => insertNew n l) x.chunk.pages } }
          ({ t with issuer := some { wid := id, pc := pc, lanes := lanes } }, some i)
  | _, _, _ => (s, none)

/-- A stall's microinstruction is set up, from its tier's store (R366, R371). -/
def State.loadStall (s : State) (run stall : Nat) : State × Option Instr :=
  let t := { s with focus := some (run, stall) }
  match t.focused with
  | none => (s, none)
  | some (r, x) =>
    if !s.runLive r || s.lost.contains (.stall stall) then (s, none)
    else
      let w := ((s.nbStore.getD (stall / Config.stallsPerTier) []).getD x.upc (0, false)).1
      match decodeNb w.toNat with
      | .ok i => (t, some i)
      | .error _ => (s.runFault r .nbProgram (x.row.getD 0 / 32), none)

/-- The action is set up: the machine that runs it, and its instruction. -/
def State.load (s : State) (a : Action) : State × Option Instr :=
  match a with
  | .event i => (s, some i)
  | .issue id => s.loadWarp id
  | .stall run stall => s.loadStall run stall

/-- Only bring-up restores power (R398). -/
def Action.isBringUp (a : Action) : Bool := match a with | .event (.bringUp _) => true | _ => false

/-- Cycles of the step, within the heartbeat's interval (R189). DESIGN CHOICE: log 10. -/
def State.stepCycles (s : State) : Nat :=
  if s.devready then min (Config.cyclesOf s.steps) ((s.beat + 1) * 1024 - 1 - s.cycle) else 0

/-- A request that must wait is kept, in its order. -/
def State.keep (s : State) (i : Instr) : State :=
  if s.waiting then { s with waiting := false, deferred := s.deferred ++ [i] } else s

/-- The quads of a partition take their numbers anew while none of its groups is resident (R19). DEDUCED: log 25. -/
def State.renumber (s : State) : State :=
  { s with parts := s.parts.zipIdx.map fun (p : Partition × Nat) =>
      if (s.groupsOf p.2).isEmpty then { p.1 with numbered := p.1.owned s.roles } else p.1 }

/-- What follows the instruction: waits and recalls end, quads are numbered, time passes, and the step is counted. -/
def State.endStep (s : State) : State :=
  let t := s.settle.finishRecalls.renumber.passTime s.stepCycles
  { t with steps := t.steps + 1, issuer := none, focus := none, received := t.received.filter t.deferred.contains }

/-! ### A scaffold for one instruction -/

/-- The context that the scaffold uses, and the page that holds its code. -/
def stageCtx : CtxKey := { part := 0, ctx := 0, fw := false }
def stagePage : Nat := 1

def stageContext : Context :=
  { key := stageCtx, repro := false, exact := false, debug := false, root := 0, rounds := 0, phase := .running, since := 0
    watch := 0, extSent := 0, sched := [], schedNext := none, scrubbing := false, release := none }

/-- One group of one warp at the start of the page; the launch has every register, tile and barrier. -/
def stageLaunch (n : Nat) : Launch :=
  let f : LaunchRec := { regs := 224, tiles := 16, bars := 32, spad := 1024, kernel := stagePage * 65536 }
  let l : Launch :=
    { num := n, ctx := stageCtx, queue := ⟨0, 0⟩, pos := 0, id := 0, fields := f, args := [], binds := [], desc := none, live := true
      debug := false, groups := [], bitmap := 0, fault := none, endFault := none, saveInvalid := false, seq := 0, flags := 0
      squash := 0, corr := 0, preempt := 0, recs := [], quadBars := [], tierBars := []
      pkgBars := List.replicate 2 Barrier.fresh, homes := [], peers := 0, saved := none }
  { l with groups := [Group.begin l 0 0 (0, 0, 0) 0] }

/-- Core 0's translation of the page, readable and executable. -/
def stageEntry : TlbEntry :=
  { quad := false, unit := 0, ctx := stageCtx, page := stagePage, entry := BitVec.ofNat 64 (stagePage * 65536 + 5), owned := true }

/-- A warp stands at the instruction, and has the next step. -/
def State.stage (s : State) : State :=
  let n := s.nextLaunch
  { s with
    powered := true
    bringing := none
    contexts := stageContext :: s.contexts.filter fun c => c.key ≠ stageCtx
    launches := stageLaunch n :: s.launches.filter fun l => l.num ≠ n
    nextLaunch := n + 1
    tlb := stageEntry :: s.tlb
    parts := updAt (fun p => { p with regions := [] }) s.parts 0
    agenda := [.issue ⟨n, 0, 0⟩] }

def State.stageCore (s : State) (w : Nat) : State :=
  { s.stage with mem := memPutBytes s.mem (stagePage * 65536) (leBytes 16 w), poison := [] }

/-- Stall 0 stands at the microinstruction, and has the next step. -/
def State.stageNear (s : State) (w : Nat) : State :=
  let n := s.nextRun
  let r : Run :=
    { num := n, part := 0, ctx := stageCtx, op := none, launch := s.nextLaunch
      desc := { at_ := 0, entry := 0, streams := 0, wmask := 0, rows := 0, bases := [], args := [] }, pinned := true, locs := []
      stalls := [{ StallRun.fresh 0 [] 0 with phase := .running }], nf := false, flags := 0 }
  { s.stage with
    runs := r :: s.runs.filter fun x => x.num ≠ n
    nextRun := n + 1
    lost := s.lost.filter fun a => a ≠ .stall 0
    nbStore := updAt (fun l => updAt (fun _ => (BitVec.ofNat 32 w, true)) l 0) s.nbStore 0
    agenda := [.stall n 0] }

end Sys2Proof.Machine
end

