-- ==== Sys2Proof/Machine/Step.lean ====
section
/-! DEFINITION. One step of the machine: the next agent's action, and what follows it (log 2). -/

namespace Sys2Proof.Machine

/-- What follows an instruction. -/
def after (i : Instr) : Host.Outcome State Fault Refusal → Host.Outcome State Fault Refusal
  | .next s => .next (s.keep i).endStep
  | .fault e => .fault e
  | .refused r => .refused r

/-- The action is off the plan, and no longer among the requests that wait. -/
def State.taken (s : State) : State :=
  { s with
    agenda := s.plan.drop 1
    deferred := match s.nextAction with | .event i => s.deferred.filter fun x => x ≠ i | _ => s.deferred }

/-- Bring-up goes on, and the action is set up. -/
def State.ready (s : State) : State × Option Instr := s.taken.bringOn.load s.nextAction

/-- One step. -/
def step (s : State) : Host.Outcome State Fault Refusal :=
  if !s.powered && !s.nextAction.isBringUp then .fault .unpowered
  else match s.ready with
    | (t, none) => .next t.endStep
    | (t, some i) => after i (exec i t)

/-- The machine in which the next step fetches and runs the given instruction. DESIGN CHOICE: log 47. -/
def State.withFetchWord (s : State) (nbits w : Nat) : State := if nbits ≤ 32 then s.stageNear w else s.stageCore w

end Sys2Proof.Machine
end

