-- ==== Sys2Proof/Safety.lean ====
section
/-! DEFINITION. The terms that claims use: what it is for a warp's issue to run, to complete, and to leave everything else as it
was; the canonical form of memory; and the shape of a warp's registers. -/

namespace Sys2Proof.Machine

/-! ### Memory -/

/-- Device, host and peer memory are in canonical form. -/
def State.memOk (s : State) : Bool := memWf s.mem && memWf s.hostMem && memWf s.peerMem

/-- Every committed byte reads the same. -/
def SameBytes (s t : State) : Prop := ∀ x, t.byteAt x = s.byteAt x

/-! ### An issue that runs -/

/-- The issue runs its word rather than trapping or waiting: operands legal for the launch (R21, R34), firmware's rights
(R336), an active lane, no transaction, the chunk's start where the word asks for it (R172), no poison consumed (R351). -/
def Iss.runs (b : Iss) (k : Kind) : Bool :=
  k.regsOk b.l && k.check b.l b.wid && (!k.firmware || b.ctx.fw) && b.active != 0 && b.w.arch.tx.isNone
    && (!k.endsBefore || !b.w.chunk.begun) && (b.poisonLane k).isNone

/-- The chunk's budget still admits `n` bytes of undo log, and `m` more entries of each set and lines (R193, R414). -/
def Iss.room (b : Iss) (n m : Nat) : Prop :=
  ∀ c : Chunk, c.undo ≤ b.w.chunk.undo + n → c.readEntries b.s ≤ b.w.chunk.readEntries b.s + m →
    c.writeEntries b.s ≤ b.w.chunk.writeEntries b.s + m → c.specLines.length ≤ b.w.chunk.specLines.length + m →
    b.s.overBudget b.repro b.core b.wid c.cost = false

/-- No budget cuts the issue: it is the first of a chunk of reproducible mode, which always fits (R194), or the chunk has room
for more than any issue takes outside the transfers of whole warps (R414). -/
def Iss.first (b : Iss) : Prop := (b.repro = true ∧ b.w.chunk.begun = false) ∨ b.room 4096 256

/-- No budget cuts an issue of a transaction, nor the TXBEGIN that opens it: what its lanes have taken on their paths, with a change
of the lanes' own state or without, is within the budget (R193, R230, R414). -/
def Iss.pathRoom (b : Iss) : Prop :=
  ∀ c, c = b.w.chunk.touched ∨ c = (b.log [.lanes]).w.chunk.touched → match b.w.arch.tx with
    | none => b.s.overBudget b.repro b.core b.wid c = false
    | some t => ∀ l, laneOn b.lanes l = true → b.s.overBudget b.repro b.core b.wid ((t.pathCost l).add c) = false

/-- A warp's own state is as `e` says once the issue is counted: fairness (R251) and the retired count (R39) alone differ. -/
def Arch.follows (x e : Arch) : Prop :=
  x = { e with fairF := x.fairF, fairC := x.fairC, fairNext := x.fairNext, retired := e.retired + 1 }

/-- The machine `t` that the completed issue `i` leaves: the machine as the effect left it but for the issuing warp, whose
registers follow the effect's and whose chunk holds the effect's writes and releases. -/
def Leaves (i : Iss) (t : State) : Prop :=
  ∃ x : Warp, t = i.s.mapWarp i.wid (fun _ => x) ∧ t.warp? i.wid = some x ∧ x.arch.follows i.w.arch
    ∧ x.chunk.writes = i.w.chunk.writes ∧ x.chunk.queued = i.w.chunk.queued ∧ x.seq = i.w.seq

/-- The instruction, issued as `k`, completes wherever it runs, and leaves the issue as `eff` makes it from the issue whose
lanes stand at the next word. -/
def Completes (ins : Instr) (k : Kind) (eff : Iss → Iss) : Prop :=
  ∀ s b, s.issueOf k = some b → b.runs k = true → (eff b.advance).fits b k = true →
    ∃ t, exec ins s = .next t ∧ Leaves (eff b.advance) t

/-- The same for an effect within the warp: nothing but the issuing warp changes, and every committed byte reads as before. -/
def CompletesQuietly (ins : Instr) (k : Kind) (eff : Iss → Iss) : Prop :=
  ∀ s b, s.issueOf k = some b → b.runs k = true → (eff b.advance).fits b k = true →
    ∃ t, exec ins s = .next t ∧ Leaves { eff b.advance with s := s.unissued } t ∧ SameBytes s t

/-- The same where the effect has conditions: it answers an issue, or stops. -/
def CompletesIf (ins : Instr) (k : Kind) (eff : Iss → Eff Iss) : Prop :=
  ∀ s b i, s.issueOf k = some b → b.runs k = true → eff b.advance = .ok i → i.fits b k = true →
    ∃ t, exec ins s = .next t ∧ Leaves i t

/-! ### Results -/

/-- The warp after a result: the lanes of the issue at the next word; register `d`, `w` registers wide, holds `f` in each active
lane, or the lowest one's once (R35); flags raised (R98); overwritten poison gone (R351). -/
def Iss.afterReg (b : Iss) (d : Reg) (w : Nat) (f : Nat → Nat × Fl) : Arch :=
  let a := (b.w.arch.setPc b.lanes fun _ => b.next).setLanes d w b.active fun l => (f l).1
  { a with
    flags := a.flags ||| (flAll ((if d.isS then [b.lane] else b.activeLanes).map fun l => (f l).2)).setWidth 32
    poison := clearPoison (regItems d w) b.active a.poison }

/-- The warp after a predicate result: `pd` takes `f` in the active lanes and keeps the others (R116). -/
def Iss.afterPred (b : Iss) (pd : Nat) (f : Nat → Bool × Fl) : Arch :=
  let a := (b.w.arch.setPc b.lanes fun _ => b.next).setPred pd b.active fun l => (f l).1
  { a with
    flags := a.flags ||| (flAll (b.activeLanes.map fun l => (f l).2)).setWidth 32
    poison := clearPoison [.p pd] b.active a.poison }

/-- Nothing but the issuing warp has changed, whose registers follow `e`; the chunk's view of memory and every committed byte
are as before. -/
def OnlyArch (s : State) (b : Iss) (e : Arch) (t : State) : Prop :=
  ∃ x : Warp, t = s.unissued.mapWarp b.wid (fun _ => x) ∧ t.warp? b.wid = some x ∧ x.arch.follows e
    ∧ x.chunk.writes = b.w.chunk.writes ∧ x.chunk.queued = b.w.chunk.queued ∧ SameBytes s t

/-- A lane instruction whose result `f` goes to a register. -/
def RegResult (ins : Instr) (k : Kind) (d : Reg) (w : Nat) (f : Iss → Nat → Nat × Fl) : Prop :=
  ∀ s b, s.issueOf k = some b → b.runs k = true → (b.advance.result d w (f b)).fits b k = true →
    ∃ t, exec ins s = .next t ∧ OnlyArch s b (b.afterReg d w (f b)) t

/-- A lane instruction whose result `f` goes to a predicate. -/
def PredResult (ins : Instr) (k : Kind) (pd : Nat) (f : Iss → Nat → Bool × Fl) : Prop :=
  ∀ s b, s.issueOf k = some b → b.runs k = true → (b.advance.resultPred pd (f b)).fits b k = true →
    ∃ t, exec ins s = .next t ∧ OnlyArch s b (b.afterPred pd (f b)) t

/-- How a format-W lane instruction issues: the registers it reads and writes, with their widths. -/
def laneKind (a : LaneArgs) (wd wa wb wc : Nat) : Kind :=
  { LaneArgs.kind a wa wb wc with dsts := [(a.d, wd)], once := a.d.isS }

/-- An element-wise lane instruction (R116): `f` of the elements, after the operand modifiers. -/
def ElemResult (ins : Instr) (a : LaneArgs) (wb wc : Nat) (f : Iss → Nat → Nat → Nat → Nat × Fl) : Prop :=
  let w := a.m.ty.regs
  RegResult ins (laneKind a w w wb wc) a.d w fun b l =>
    eachElem a.m (f b) (b.val a.a l w) (b.val a.b l wb) (b.val a.c l wc)

/-- An element-wise integer instruction: `f` of the elements as integers of the type, finished with SAT or wrapped (R120). -/
def IntResult (ins : Instr) (a : LaneArgs) (wb : Nat) (sat : Bool) (f : Int → Int → Int) : Prop :=
  ElemResult ins a wb 0 fun _ x y _ => (intResult a.m.ty sat (f (intElem a.m.ty x) (intElem a.m.ty y)), 0)

/-- A lane instruction over whole operand values, raising no flag. -/
def ValResult (ins : Instr) (a : LaneArgs) (wd wa wb wc : Nat) (f : Nat → Nat → Nat → Nat) : Prop :=
  RegResult ins (laneKind a wd wa wb wc) a.d wd fun b l => (f (b.val a.a l wa) (b.val a.b l wb) (b.val a.c l wc), 0)

/-- A format-WI instruction (R125). -/
def ImmResult (ins : Instr) (a : ImmArgs) (wa : Nat) (f : Nat → Nat) : Prop :=
  RegResult ins { g := a.g, srcs := [(a.a, wa)], dsts := [(a.d, 1)], once := a.d.isS } a.d 1 fun b l =>
    (f (b.val a.a l wa), 0)

/-- A comparison into a predicate, ANDed with the predicate source (R124). -/
def CompareResult (ins : Instr) (a : SetpArgs) (f : Nat → Nat → Bool × Fl) : Prop :=
  let t := a.m.ty
  PredResult ins { g := a.g, srcs := [(a.a, t.regs), (a.b, t.regs)], preds := [a.pc] } a.pd.val fun b l =>
    let r := f (modElem t a.m.aa a.m.na (b.val a.a l t.regs)) (modElem t a.m.ab a.m.nb (b.val a.b l t.regs))
    (r.1 && b.w.arch.psrc a.pc l, r.2)

/-- A floating function of one operand; approximate variants are off in exact mode (R109, R132). -/
def FnResult (ins : Instr) (a : LaneArgs) (f : Fmt → Bool → Rm → Bool → Nat → Nat × Fl) : Prop :=
  ElemResult ins a 0 0 fun b x _ _ => f (fmtOf a.m.ty) (a.m.apx && !b.exact) a.m.rm a.m.sat x

/-- A class X instruction whose result in a lane is register `r` of lane `src l`, none of them poisoned (R141, R351). -/
def LaneResult (ins : Instr) (k : Kind) (d r : Reg) (w : Nat) (src : Iss → Nat → Nat) : Prop :=
  ∀ s b, s.issueOf k = some b → b.runs k = true → (∀ l, laneOn b.active l = true → b.regPoisoned r w (src b l) = false) →
    (b.advance.write d w fun l => b.val r (src b l) w).fits b k = true →
    ∃ t, exec ins s = .next t ∧ OnlyArch s b
      (let a := (b.w.arch.setPc b.lanes fun _ => b.next).setLanes d w b.active fun l => b.val r (src b l) w
       { a with poison := clearPoison (regItems d w) b.active a.poison }) t

/-- The same for a result that the whole issue computes: `f` by lane, and the flags of its nodes (R144). -/
def WarpResult (ins : Instr) (k : Kind) (d : Reg) (w : Nat) (f : Iss → (Nat → Nat) × Fl) : Prop :=
  ∀ s b, s.issueOf k = some b → b.runs k = true → ((b.advance.write d w (f b).1).raise (f b).2).fits b k = true →
    ∃ t, exec ins s = .next t ∧ OnlyArch s b
      (let a := (b.w.arch.setPc b.lanes fun _ => b.next).setLanes d w b.active (f b).1
       { a with flags := a.flags ||| (f b).2.setWidth 32, poison := clearPoison (regItems d w) b.active a.poison }) t

/-! ### Effects by their outcome -/

/-- The instruction, issued as `k` where it runs, no budget cuts it, and where `cond` holds of the state and the operands,
completes: nothing but the issuing warp changes, which becomes `x` with `post`, and every committed byte reads as before. -/
def Does (ins : Instr) (k : Kind) (cond : Iss → Prop) (post : Iss → Warp → Prop) : Prop :=
  ∀ s b, s.issueOf k = some b → b.runs k = true → b.first → cond b →
    ∃ x, exec ins s = .next (s.unissued.mapWarp b.wid fun _ => x) ∧ SameBytes s (s.unissued.mapWarp b.wid fun _ => x) ∧ post b x

/-- The same where the machine beside the warp changes too, as `post` says. -/
def DoesBeyond (ins : Instr) (k : Kind) (cond : Iss → Prop) (post : Iss → State → Warp → Prop) : Prop :=
  ∀ s b, s.issueOf k = some b → b.runs k = true → b.first → cond b →
    ∃ t x, exec ins s = .next t ∧ t.warp? b.wid = some x ∧ post b t x

/-- The warp's lanes at the next word, nothing else changed. -/
def Iss.moved (b : Iss) : Arch := b.w.arch.setPc b.lanes fun _ => b.next

/-- The chunk holds the same writes and releases as before. -/
def SameChunk (b : Iss) (x : Warp) : Prop := x.chunk.writes = b.w.chunk.writes ∧ x.chunk.queued = b.w.chunk.queued

/-- The registers after lanes `m` of the issue have begun to wait at its word (R254); the other lanes go on. -/
def Iss.waits (b : Iss) (m : LaneMask) (k : WaitKind) : Arch :=
  let a := (b.moved.setPc m fun _ => b.pc).setSt m .waiting
  { a with waits := a.waits ++ [{ lanes := m, active := b.active, pc := b.pc, next := b.next, kind := k }] }

/-! ### The chunk's view of memory -/

/-- A byte as the chunk sees it (R174, R180, R220): its own write, the default of a page it has reset, or the committed byte. -/
def State.view (s : State) (c : Chunk) (x : Loc) : Byte :=
  match getKey x c.writes with
  | some b => b
  | none => if c.resets.contains x.page then s.defaultAt x else s.byteAt x

/-- REDs of several lanes in turn, with the releases that they queue. -/
def Iss.redLanes (i : Iss) (find : Iss → Nat → Eff (Iss × List Loc)) (op : Nat → List Loc → RedOp) : List Nat → Eff (Iss × List RedOp)
  | [] => .ok (i, [])
  | l :: ls => (find i l).bind fun r =>
    ((r.1.queue (.red (op l r.2))).redLanes find op ls).bind fun q => .ok (q.1, op l r.2 :: q.2)

/-- The issue makes its access in one lane: the lane of a uniform access, or its only active lane (R205). -/
def Iss.oneAccess (b : Iss) (once : Bool) (l : Nat) : Prop := b.accessLanes once = [l]

/-- Stores of several lanes in turn under a cache hint, with the bytes that they store to. -/
def Iss.storeLanes (i : Iss) (find : Iss → Nat → Eff (Iss × List Loc)) (h : Fin 4) (data : Nat → List Byte) :
    List Nat → Eff (Iss × List Loc)
  | [] => .ok (i, [])
  | l :: ls => (find i l).bind fun r =>
    (((r.1.store l r.2 (data l)).hint h r.2).storeLanes find h data ls).bind fun q => .ok (q.1, r.2 ++ q.2)

/-- The data at some locations may be read now: no half is in the host's hands (R187), none is poisoned (R353), and no peer
refuses (R397). -/
def Iss.readable (b : Iss) (xs : List Loc) : Prop :=
  ∀ x ∈ xs, b.s.hostOwns x = false ∧ (b.w.chunk.owns x = true ∨ b.s.isPoisoned x = false) ∧ b.s.refuses x = false

/-- The issue after it has read some locations: lines of windows are filled but by a bypass access, and read bits set (R112, R173,
R209). -/
def Iss.loaded (b : Iss) (xs : List Loc) (bypass : Bool := false) : Iss :=
  { b with s := if bypass then b.s else b.s.fillLines xs }.noteRead xs

/-- The table words of BRX, an ordinary load for each of some lanes in turn, with the bytes that each reads (R261). -/
def Iss.tableWords (a : BrxArgs) (i : Iss) : List Nat → Eff (Iss × List (Nat × List Loc))
  | [] => .ok (i, [])
  | l :: ls =>
    let va := ea64 (i.val a.b l 2) (4 * (i.reg a.a l).toNat : Nat)
    (i.device l va 4 false .read).bind fun r => (r.1.load l va r.2).bind fun q =>
      (q.1.tableWords a ls).bind fun z => .ok (z.1, (l, r.2) :: z.2)

/-! ### Terms of single statements -/

/-- The class of an encoding by its fields (R131): the bit of the mask. -/
def fclassOf (f : Fmt) (x : Nat) : Nat :=
  let neg := x / 2 ^ (f.eb + f.fb) % 2 == 1
  let e := x / 2 ^ f.fb % 2 ^ f.eb
  let m := x % 2 ^ f.fb
  if e = 2 ^ f.eb - 1 then
    if m = 0 then (if neg then 0 else 7) else if 2 ^ (f.fb - 1) ≤ m then 9 else 8
  else if e = 0 then
    if m = 0 then (if neg then 3 else 4) else (if neg then 2 else 5)
  else if neg then 1 else 6

/-- Every pair operation completes with both halves read before either writes (R57, R58, R72, R73). -/
def PairResult (ins : PairArgs → Instr) (op : PairOp) : Prop :=
  ∀ p : PairArgs, CompletesQuietly (ins p) (pairKind (p.h0 op) (p.h1 op)) fun i =>
    let put (j : Iss) (h : Option PairHalf) : Iss :=
      match h with
      | none => j
      | some h => j.result h.d 1 fun l => pairVal h.op (i.val h.d l 1) (i.val h.a l 1) h.x
    put (put i (p.h0 op)) (p.h1 op)

/-- The ring control block that a chunk sees at some locations, and whether it is one (R225, R226). -/
def ringSeen (s : State) (c : Chunk) (xs : List Loc) : Ring := ringOf (leNat ((xs.take 24).map fun x => s.view c x))

/-- The lanes of a wait go on at the word after it, and the wait is gone; the other lanes stay (R254). -/
def LanesGo (x y : Arch) (w : Wait) : Prop :=
  (∀ l, laneOn w.lanes l = true → y.stOf l = .ready ∧ y.pcOf l = w.next) ∧
    (∀ l, laneOn w.lanes l = false → y.stOf l = x.stOf l ∧ y.pcOf l = x.pcOf l) ∧ ∀ z ∈ y.waits, z.lanes &&& w.lanes = 0

/-- The warp waits so: its state has its shape, and what it waits for is `w`. -/
def State.waitsAt (s : State) (id : WarpId) (w : Wait) (x : Warp) : Prop :=
  s.warp? id = some x ∧ w ∈ x.arch.waits ∧ x.arch.pc.length = 32 ∧ x.arch.st.length = 32

/-- The wait ends (R254): its lanes go on, and `f` is what its instruction still writes. -/
def WaitEnds (s : State) (id : WarpId) (w : Wait) (f : Arch → Arch) : Prop :=
  ∀ x, s.waitsAt id w x → ∃ y, (s.wakeWait id w).warp? id = some y ∧ LanesGo x.arch y.arch w ∧ y.arch.v = (f x.arch).v ∧
    y.arch.s = (f x.arch).s ∧ y.arch.p = (f x.arch).p ∧ y.arch.flags = (f x.arch).flags

/-- No squash can undo the wait: the chunk starts with it. -/
def State.firm (s : State) (id : WarpId) (w : Wait) : Prop := ∀ x, s.warp? id = some x → w ∈ x.chunk.start.waits

/-- The barrier's place exists: one of the group's core barriers, or one of the launch's package barriers. -/
def BarPlaced (a : BarArgs) (b : Iss) : Prop :=
  match a.lv with
  | .core => a.id.val < b.g.bars.length
  | .pkg => a.id.val < b.l.pkgBars.length
  | _ => True

/-- The launch whose warp issues `b` takes the fault: in free mode it is latched where none is, in reproducible mode the warp
keeps it for its turn (R342, R344). -/
def TakesFault (ins : Instr) (k : Kind) (cond : Iss → Prop) (f : Iss → FaultInfo) : Prop :=
  ∀ s b, s.issueOf k = some b → b.runs k = true → cond b → b.l.fault = none → b.l.saveInvalid = false → b.w.fault = none →
    ∃ t x l, exec ins s = .next t ∧ t.warp? b.wid = some x ∧ t.launch? b.wid.launch = some l ∧ SameBytes s t ∧
      x.arch = b.w.arch ∧ (if b.repro then x.fault = some (f b) ∧ x.chunk.ended = true else l.fault = some (f b))

/-- The registers after a new operation has been named by handle register `h` (R241). -/
def Iss.named (b : Iss) (h : Nat) (n : Nat) : Arch :=
  { b.moved with
    h := b.w.arch.h.set h (some { num := n }), opCount := b.w.arch.opCount + 1
    poison := clearPoison [.h h] 0 b.w.arch.poison }

/-- The number of a warp's next operation (R241): one to one over the launch's warps and each warp's operations. -/
def Iss.nextOp (b : Iss) : Nat := b.w.arch.opCount * (32 * b.l.fields.groups) + b.wid.group * 32 + b.wid.warp

/-- A microinstruction of the stall in focus completes where `cond` holds: the stall becomes `f` of itself, the run takes flags and
NF, and neither a committed byte nor a launch changes. -/
def StallDoes (ins : Instr) (cond : State → Run → StallRun → Prop) (f : State → Run → StallRun → StallRun)
    (fl : StallRun → Fl × Bool) : Prop :=
  ∀ s r x, s.focused = some (r, x) → cond s r x →
    ∃ t r', exec ins s = .next t ∧ t.run? r.num = some r' ∧ r'.stall? x.stall = some (f s r x) ∧
      r'.flags = r.flags ||| (fl x).1 ∧ r'.nf = (r.nf || (fl x).2) ∧ t.launches = s.launches ∧ SameBytes s t

/-- An element-wise microinstruction (R367, R369): accumulator `bd` takes `f` of each of the 512 elements, with their flags. -/
def StallElems (ins : Instr) (bd : Nat) (f : StallRun → Nat → Nat × Fl) : Prop :=
  StallDoes ins (fun _ _ _ => True)
    (fun _ _ x => { x with upc := (x.upc + 1) % 256, b := x.b.set bd ((upTo 512).map fun i => BitVec.ofNat 32 (f x i).1) })
    (fun x => (flAll ((upTo 512).map fun i => (f x i).2), false))

/-- A microinstruction over the stall's scalars and UPC. -/
def StallScalar (ins : Instr) (f : StallRun → StallRun) : Prop :=
  StallDoes ins (fun _ _ _ => True) (fun _ _ x => f x) (fun _ => (0, false))

/-! ### Steps of the other agents -/

/-- The step completes, in a machine with `post`. -/
def Gives (ins : Instr) (s : State) (post : State → Prop) : Prop := ∃ t, exec ins s = .next t ∧ post t

/-- An access from outside is refused: completed with poison, and logged, with no byte changed (R325). -/
def Refused (s t : State) : Prop :=
  t.answer = .poison ∧ SameBytes s t ∧ t.refusedLog.length = s.refusedLog.length + 1

/-- A launch has a fault with this code. -/
def State.hasFault (s : State) (l : Nat) (c : Code) : Prop := ∃ x, s.launch? l = some x ∧ x.fault.map (·.code) = some c

/-- A launch in free mode that has no fault yet. -/
def State.sound (s : State) (l : Launch) : Prop :=
  s.launch? l.num = some l ∧ s.reproOf l.ctx = false ∧ l.fault = none ∧ l.saveInvalid = false

/-- A warp with its group and launch. -/
def State.finds (s : State) (w : WarpId) (l : Launch) (g : Group) (x : Warp) : Prop :=
  s.launch? w.launch = some l ∧ s.group? w.launch w.group = some g ∧ s.warp? w = some x

/-- The records of an operation that were Pending are in a state. -/
def RecsEnd (s t : State) (o : Op) (st : HState) : Prop :=
  ∀ l r p, s.launch? o.launch = some l → p ∈ o.recs → l.rec? p.2 = some r → r.state = .pending →
    ∃ l' r', t.launch? o.launch = some l' ∧ l'.rec? p.2 = some r' ∧ r'.state = st

/-- The conditions that R15 puts on a role assignment, beside the thermal table: no more than five compute tiers, no three in a
row, and not both of tiers 0 and 1. -/
def RolesLegal (r : BitVec 8) : Prop :=
  ((upTo 8).filter fun t => r.getLsbD t).length ≤ 5 ∧
    (∀ t, t < 6 → ¬(r.getLsbD t = true ∧ r.getLsbD (t + 1) = true ∧ r.getLsbD (t + 2) = true)) ∧
    ¬(r.getLsbD 0 = true ∧ r.getLsbD 1 = true)

/-- A request of the partition's driver is taken by its mailbox, which serves no other (R316, R399). -/
def State.takes (s : State) (rq : Req) : Prop :=
  rq.admin = false ∧ rq.part < s.parts.length ∧ s.hears rq = true ∧ s.serving rq = false

/-- A request of the partition manager is taken by the administrative mailbox (R313, R399). -/
def State.takesAdmin (s : State) (rq : Req) : Prop := rq.admin = true ∧ s.hears rq = true

/-- A request's answer stands in its partition's mailbox (R316). -/
def Answered (t : State) (rq : Req) (n : Nat) : Prop := (t.part rq.part).tag = rq.tag ∧ (t.part rq.part).status = n

/-! ### Shape -/

/-- A warp's registers have their shape: `regs` vector registers of 32 lanes, 32 uniform registers, 7 predicates (R31). -/
def Arch.shaped (a : Arch) (regs : Nat) : Bool :=
  a.v.length == regs && a.v.all (fun r => r.length == 32) && a.s.length == 32 && a.p.length == 7

end Sys2Proof.Machine
end

