-- ==== Sys2Proof/Certificates/Slice0/Obligations.lean ====
section
/-! DEFINITION. The statements for the provers. Each names the rules of spec/ that it formalises. -/

open Sys2Proof Sys2Proof.Machine

/-! ### Classes I, F, M and X -/

/-- R119 to R121: each integer arithmetic instruction completes wherever it runs, with the exact result of its elements clamped
or wrapped, and changes nothing else. -/
def Obligations.IntegerArithmeticResults : Prop :=
  (∀ a, IntResult (.iadd a) a 1 a.m.sat fun x y => x + y) ∧
  (∀ a, IntResult (.isub a) a 1 a.m.sat fun x y => x - y) ∧
  (∀ a, IntResult (.imul a) a 1 false fun x y => x * y) ∧
  (∀ a, ElemResult (.imulh a) a 1 0 fun _ x y _ =>
    (wrapInt 64 (intElem a.m.ty x * intElem a.m.ty y) / 2 ^ 32 % 2 ^ 32, 0)) ∧
  (∀ a, let w := 1 + a.m.sub.val
    ValResult (.imad a) a w 1 1 w fun x y z =>
      wrapInt (32 * w) (intElem a.m.ty (modElem a.m.ty a.m.aa a.m.na x) * intElem a.m.ty (modElem a.m.ty a.m.ab a.m.nb y) + z)) ∧
  (∀ a, ElemResult (.idiv a) a a.m.ty.regs 0 fun _ x y _ =>
    (if y = 0 then 2 ^ a.m.ty.bits - 1 else intResult a.m.ty false ((intElem a.m.ty x).tdiv (intElem a.m.ty y)), 0)) ∧
  (∀ a, ElemResult (.irem a) a a.m.ty.regs 0 fun _ x y _ =>
    (if y = 0 then x else intResult a.m.ty false ((intElem a.m.ty x).tmod (intElem a.m.ty y)), 0)) ∧
  (∀ a, ElemResult (.imin a) a a.m.ty.regs 0 fun _ x y _ => (if intElem a.m.ty x ≤ intElem a.m.ty y then x else y, 0)) ∧
  (∀ a, ElemResult (.imax a) a a.m.ty.regs 0 fun _ x y _ => (if intElem a.m.ty x ≤ intElem a.m.ty y then y else x, 0)) ∧
  (∀ a, IntResult (.iabs a) a 0 a.m.sat fun x _ => x.natAbs) ∧
  (∀ a, IntResult (.iadd64 a) a 2 a.m.sat fun x y => x + y) ∧
  (∀ a, IntResult (.isub64 a) a 2 a.m.sat fun x y => x - y) ∧
  (∀ a, ValResult (.lea a) a 2 2 1 0 fun x y _ => wrapInt 64 (x + intElem a.m.ty y * (2 ^ a.m.sub.val : Nat)))

/-- R119, R122, R123, R125, R126: logic, shifts, bit counts, bit fields, selection, moves, the immediate forms and MOVW. -/
def Obligations.LogicAndShiftResults : Prop :=
  (∀ a, ElemResult (.and a) a a.m.ty.regs 0 fun _ x y _ => (x &&& y, 0)) ∧
  (∀ a, ElemResult (.or a) a a.m.ty.regs 0 fun _ x y _ => (x ||| y, 0)) ∧
  (∀ a, ElemResult (.xor a) a a.m.ty.regs 0 fun _ x y _ => (x ^^^ y, 0)) ∧
  (∀ a : TlogArgs, RegResult (.tlog a) { g := a.g, srcs := [(a.a, 1), (a.b, 1), (a.c, 1)], dsts := [(a.d, 1)], once := a.d.isS } a.d 1
    fun b l => (bitsWhere 32 fun k => a.tt.getLsbD
      (bitN (flag (b.val a.a l 1) k) + 2 * bitN (flag (b.val a.b l 1) k) + 4 * bitN (flag (b.val a.c l 1) k)), 0)) ∧
  (∀ a, ValResult (.shl a) a a.m.ty.regs a.m.ty.regs 1 0 fun x y _ => (x <<< (y % a.m.ty.bits)) % 2 ^ a.m.ty.bits) ∧
  (∀ a, ValResult (.shr a) a a.m.ty.regs a.m.ty.regs 1 0 fun x y _ =>
    wrapInt a.m.ty.bits (intElem a.m.ty x / (2 ^ (y % a.m.ty.bits) : Nat))) ∧
  (∀ a, ValResult (.shw a) a 1 1 1 1 fun x y z =>
    let w := y * 2 ^ 32 + x
    if a.m.sub.val = 0 then (w >>> (z % 32)) % 2 ^ 32 else (w <<< (z % 32)) / 2 ^ 32 % 2 ^ 32) ∧
  (∀ a, ValResult (.popc a) a 1 a.m.ty.regs 0 0 fun x _ _ => ((upTo a.m.ty.bits).filter fun k => flag x k).length) ∧
  (∀ a, ValResult (.clz a) a 1 a.m.ty.regs 0 0 fun x _ _ => if x = 0 then a.m.ty.bits else a.m.ty.bits - 1 - Nat.log2 x) ∧
  (∀ a, ValResult (.brev a) a a.m.ty.regs a.m.ty.regs 0 0 fun x _ _ => bitsWhere a.m.ty.bits fun k => flag x (a.m.ty.bits - 1 - k)) ∧
  (∀ a, ValResult (.bfe a) a 1 1 1 0 fun x y _ =>
    let len := min (y / 256 % 256) 32
    let bit (k : Nat) : Bool := if y % 256 + k < 32 then flag x (y % 256 + k) else a.m.ty == .i32 && flag x 31
    bitsWhere 32 fun k => if k < len then bit k else a.m.ty == .i32 && decide (0 < len) && bit (len - 1)) ∧
  (∀ a, ValResult (.bfi a) a 1 1 1 1 fun x y z =>
    bitsWhere 32 fun k => if y % 256 ≤ k && k < y % 256 + min (y / 256 % 256) 32 then flag x (k - y % 256) else flag z k) ∧
  (∀ a, ValResult (.bpick a) a 1 1 1 1 fun x y z =>
    leNat ((upTo 4).map fun k =>
      BitVec.ofNat 8 (if flag z (12 + k) then 0 else (y * 2 ^ 32 + x) / 2 ^ (8 * (z / 2 ^ (3 * k) % 8)) % 2 ^ 8))) ∧
  (∀ a : SelArgs, let w := a.m.ty.regs
    RegResult (.sel a) { g := a.g, srcs := [(a.a, w), (a.b, w)], dsts := [(a.d, w)], preds := [a.pc], once := a.d.isS } a.d w
      fun b l => (if b.w.arch.psrc a.pc l then b.val a.a l w else b.val a.b l w, 0)) ∧
  (∀ a, ValResult (.mov a) a a.m.ty.regs a.m.ty.regs 0 0 fun x _ _ => x) ∧
  (∀ a, ImmResult (.movi a) a 0 fun _ => a.imm.toNat) ∧
  (∀ a, ImmResult (.iaddi a) a 1 fun x => (x + a.imm.toNat) % 2 ^ 32) ∧
  (∀ a, ImmResult (.andi a) a 1 fun x => x &&& a.imm.toNat) ∧
  (∀ a, ImmResult (.ori a) a 1 fun x => x ||| a.imm.toNat) ∧
  (∀ a, ImmResult (.xori a) a 1 fun x => x ^^^ a.imm.toNat) ∧
  (∀ a : MovwArgs, RegResult (.movw a) { g := a.g, size := 16, dsts := [(a.d, 2)], once := a.d.isS } a.d 2 fun _ _ => (a.imm.toNat, 0))

/-- R53, R123 to R125, R128: the predicate results of classes I and F. FSETP compares values, raises NV as R53 says, and ANDs the
predicate source. That a predicate which some lanes do not write stays poisoned is the model's choice: log 54. -/
def Obligations.PredicateResults : Prop :=
  (∀ a, CompareResult (.isetp a) a fun x y => (icond a.m.sub.val (intElem a.m.ty x) (intElem a.m.ty y), 0)) ∧
  (∀ a, CompareResult (.isetp64 a) a fun x y => (icond a.m.sub.val (intElem a.m.ty x) (intElem a.m.ty y), 0)) ∧
  (∀ a : SetpiArgs, PredResult (.isetpi a) { g := a.g, srcs := [(a.a, 1)] } a.pd.val fun b l =>
    let t : Ty := if a.signed then .i32 else .u32
    (icond a.cond.val (intElem t (b.val a.a l 1)) (if a.signed then a.imm.toInt else a.imm.toNat), 0)) ∧
  (∀ a : PlogArgs, PredResult (.plog a) { g := a.g, preds := [a.pa, a.pb, a.pc] } a.pd.val fun b l =>
    (a.tt.getLsbD (bitN (b.w.arch.psrc a.pa l) + 2 * bitN (b.w.arch.psrc a.pb l) + 4 * bitN (b.w.arch.psrc a.pc l)), 0)) ∧
  (∀ a, CompareResult (.fsetp a) a fun x y => fcond a.m.sub.val (unpack (fmtOf a.m.ty) x) (unpack (fmtOf a.m.ty) y))

/-- R128, R129, R132: floating arithmetic rounds the exact result of its elements once, and raises its flags. The sign that FSUB
gives to a difference of two zeros is the model's choice: log 65. -/
def Obligations.FloatArithmeticResults : Prop :=
  (∀ a, ElemResult (.fadd a) a a.m.ty.regs 0 fun _ x y _ =>
    let f := fmtOf a.m.ty; froundFl f a.m.rm a.m.sat (xAdd a.m.rm (unpack f x) (unpack f y))) ∧
  (∀ a, ElemResult (.fsub a) a a.m.ty.regs 0 fun _ x y _ =>
    let f := fmtOf a.m.ty; froundFl f a.m.rm a.m.sat (xAdd a.m.rm (unpack f x) (unpack f y).negate)) ∧
  (∀ a, ElemResult (.fmul a) a a.m.ty.regs 0 fun _ x y _ =>
    let f := fmtOf a.m.ty; froundFl f a.m.rm a.m.sat (xMul (unpack f x) (unpack f y))) ∧
  (∀ a, ElemResult (.ffma a) a a.m.ty.regs a.m.ty.regs fun _ x y z =>
    let f := fmtOf a.m.ty; froundFl f a.m.rm a.m.sat (xFma a.m.rm (unpack f x) (unpack f y) (unpack f z))) ∧
  (∀ a, ElemResult (.fmin a) a a.m.ty.regs 0 fun _ x y _ => fminmax (fmtOf a.m.ty) false x y) ∧
  (∀ a, ElemResult (.fmax a) a a.m.ty.regs 0 fun _ x y _ => fminmax (fmtOf a.m.ty) true x y) ∧
  (∀ a, ElemResult (.fdiv a) a a.m.ty.regs 0 fun b x y _ =>
    fdivElem (fmtOf a.m.ty) (a.m.apx && !b.exact) a.m.rm a.m.sat x y) ∧
  (∀ a, FnResult (.fsqrt a) a fun f => fnElem f .sqrt) ∧
  (∀ a, FnResult (.frcp a) a fun f => fnElem f .rcp) ∧
  (∀ a, FnResult (.frsq a) a fun f => fnElem f .rsq) ∧
  (∀ a, FnResult (.fex2 a) a fun f => fnElem f .ex2) ∧
  (∀ a, FnResult (.flg2 a) a fun f => fnElem f .lg2) ∧
  (∀ a, FnResult (.fsin a) a fun f => fnElem f .sin) ∧
  (∀ a, FnResult (.fcos a) a fun f => fnElem f .cos)

/-- R39, R127, R131, R133: FCLASS sets one bit of a class mask for each element, 16 bits apart, and raises no flag; FLAGRD writes
flags.fp; FLAGCLR clears the flags set in a[4:0], once; SREAD writes the special register. -/
def Obligations.ClassFlagAndSpecialReads : Prop :=
  (∀ a, tysFloat4.contains a.m.ty = true → ValResult (.fclass a) a 1 a.m.ty.regs 0 0 fun x _ _ =>
    let f := fmtOf a.m.ty
    if a.m.ty.count = 2 then 2 ^ fclassOf f (x % 65536) + 65536 * 2 ^ fclassOf f (x / 65536 % 65536) else 2 ^ fclassOf f x) ∧
  (∀ a : RegArgs, RegResult (.flagrd a) { g := a.g, reads := [.flags], dsts := [(a.r, 1)], once := a.r.isS } a.r 1
    fun b _ => (b.w.arch.flags.toNat, 0)) ∧
  (∀ a : RegArgs, CompletesQuietly (.flagclr a) { g := a.g, srcs := [(a.r, 1)], once := true } fun i =>
    (i.log [.flags]).mapArch fun x => { x with flags := x.flags &&& ~~~(i.reg a.r i.lane &&& 0x1F#32) }) ∧
  (∀ a : SreadArgs,
    let n := a.sel.toNat
    RegResult (.sread a)
      { g := a.g, reads := if n = 0x11 then [.flags] else [], dsts := [(a.d, specialRegs n)], once := a.d.isS } a.d (specialRegs n)
      fun b l => (b.special n l, 0))

/-- R138 to R140: EXPR writes the value that its tokens compute from its operands, with the flags of every token. R139: what each
token computes, in an expression of that token over the operands, for I32 and F32, and by halves for the packed types. The sign that
SUB gives to a difference of two zeros is the model's choice: log 65. -/
def Obligations.ExprResult : Prop :=
  (∀ a : ExprArgs,
    let rs := [a.a, a.b, a.c, a.e]
    RegResult (.expr a)
      { g := a.g, size := 16, srcs := rs.zipIdx.map fun p => (p.1, if a.pushes p.2 then 1 else 0), dsts := [(a.d, 1)], once := a.d.isS }
      a.d 1 fun b l => ExprArgs.eval a (a.apx && !b.exact) (rs.map fun r => b.val r l 1)) ∧
  (∀ (a : ExprArgs) (apx : Bool) (x y z u : Word), a.ty = .i32 →
    let gives (ts : List Nat) (v : Word) : Prop :=
      a.run = ts → ExprArgs.eval a apx [x.toNat, y.toNat, z.toNat, u.toNat] = (v.toNat, 0)
    gives [0] x ∧ gives [1] y ∧ gives [2] z ∧ gives [3] u ∧ gives [4] 0 ∧ gives [5] 1 ∧ gives [0, 6, 8] (x + x) ∧
    gives [0, 1, 7, 9] (y - x) ∧ gives [0, 1, 8] (x + y) ∧ gives [0, 1, 9] (x - y) ∧ gives [0, 1, 10] (x * y) ∧
    gives [0, 1, 2, 11] (x * y + z) ∧ gives [0, 1, 12] (if x.sle y then x else y) ∧ gives [0, 1, 13] (if x.sle y then y else x) ∧
    gives [0, 14] (-x) ∧ gives [0, 15] (if x.toInt < 0 then -x else x) ∧ gives [0, 1, 2, 23] (if 0 < x.toInt then y else z) ∧
    gives [0, 24] (if 0 < x.toInt then x else 0) ∧ gives [0, 25] (if 0 < x.toInt then 1 else 0)) ∧
  (∀ (a : ExprArgs) (apx : Bool) (x y z u : Nat), a.ty = .f32 → x < 2 ^ 32 → y < 2 ^ 32 → z < 2 ^ 32 →
    let gives (ts : List Nat) (v : Nat × Fl) : Prop := a.run = ts → ExprArgs.eval a apx [x, y, z, u] = v
    let nan (v : Nat) : Prop := 0x7F800000 < v % 2 ^ 31
    let nv (v : Nat) : Fl := if 0x7F800000 < v % 2 ^ 31 ∧ v / 2 ^ 22 % 2 = 0 then flNV else 0
    let quiet (v : Nat) : Nat := if 0x7F800000 < v % 2 ^ 31 then 0x7FC00000 else v
    let pos (v : Nat) : Prop := ¬nan v ∧ 0 < v ∧ v < 2 ^ 31
    gives [0] (x, 0) ∧ gives [1] (y, 0) ∧ gives [2] (z, 0) ∧ gives [3] (u, 0) ∧ gives [4] (0, 0) ∧ gives [5] (0x3F800000, 0) ∧
    gives [0, 6, 8] (fadd fmtF32 a.rm false x x) ∧ gives [0, 1, 7, 9] (fsub fmtF32 a.rm false y x) ∧
    gives [0, 1, 8] (fadd fmtF32 a.rm false x y) ∧ gives [0, 1, 9] (fsub fmtF32 a.rm false x y) ∧
    gives [0, 1, 10] (fmul fmtF32 a.rm false x y) ∧ gives [0, 1, 2, 11] (ffma fmtF32 a.rm false x y z) ∧
    gives [0, 1, 12] (fminmax fmtF32 false x y) ∧ gives [0, 1, 13] (fminmax fmtF32 true x y) ∧
    gives [0, 16] (fnElem fmtF32 .rcp apx a.rm false x) ∧ gives [0, 17] (fnElem fmtF32 .rsq apx a.rm false x) ∧
    gives [0, 18] (fnElem fmtF32 .ex2 apx a.rm false x) ∧ gives [0, 19] (fnElem fmtF32 .lg2 apx a.rm false x) ∧
    gives [0, 20] (fnElem fmtF32 .tanh apx a.rm false x) ∧ gives [0, 21] (fnElem fmtF32 .sigm apx a.rm false x) ∧
    gives [0, 22] (fnElem fmtF32 .sqrt apx a.rm false x) ∧
    (nan x → ∀ t ∈ [14, 15, 24, 25], gives [0, t] (0x7FC00000, nv x)) ∧
    (¬nan x → gives [0, 14] ((x + 2 ^ 31) % 2 ^ 32, 0) ∧ gives [0, 15] (x % 2 ^ 31, 0)) ∧
    (pos x → gives [0, 1, 2, 23] (quiet y, nv y) ∧ gives [0, 24] (x, 0) ∧ gives [0, 25] (if x < 0x3F800000 then x else 0x3F800000, 0)) ∧
    (¬pos x → gives [0, 1, 2, 23] (quiet z, nv z ||| nv x)) ∧ (¬pos x → ¬nan x → gives [0, 24] (0, 0) ∧ gives [0, 25] (0, 0))) ∧
  (∀ (a : ExprArgs) (apx : Bool) (x y z u : Nat), a.ty = .f16x2 ∨ a.ty = .bf16x2 →
    let f := if a.ty = .f16x2 then fmtF16 else fmtBF16
    let halves (ts : List Nat) (v : (Nat → Nat) → Nat × Fl) : Prop := a.run = ts →
      let lo := v fun k => k % 65536
      let hi := v fun k => k / 65536
      ExprArgs.eval a apx [x, y, z, u] = (lo.1 + 65536 * hi.1, lo.2 ||| hi.2)
    halves [0, 1, 8] (fun h => fadd f a.rm false (h x) (h y)) ∧ halves [0, 1, 10] (fun h => fmul f a.rm false (h x) (h y)) ∧
    halves [0, 1, 2, 11] (fun h => ffma f a.rm false (h x) (h y) (h z)) ∧ halves [0, 22] (fun h => fnElem f .sqrt apx a.rm false (h x)))

/-- R134 to R137: conversions and rearrangements. -/
def Obligations.ConversionResults : Prop :=
  (∀ a : CvtArgs,
    let sk := if a.src.count = 1 then 0 else a.k.val
    let packed := a.dst.count != 1
    RegResult (.cvt a)
      { g := a.g, srcs := (a.a, a.src.regs) :: (if packed then [(a.d, 1)] else []), dsts := [(a.d, a.dst.regs)], once := a.d.isS }
      a.d a.dst.regs fun b l =>
        let r := cvtElem a.dst a.src a.rm a.sat (elemAt a.src (b.val a.a l a.src.regs) sk)
        (if packed then withElem a.dst (b.val a.d l 1) a.k.val r.1 else r.1, r.2)) ∧
  (∀ a, ElemResult (.frnd a) a 0 0 fun _ x _ _ => frndElem (fmtOf a.m.ty) a.m.rm x) ∧
  (∀ a, a.m.ty.bits = 16 → ValResult (.pack a) a 1 1 1 0 fun x y _ => y % 65536 * 65536 + x % 65536) ∧
  (∀ a : LaneArgs, a.m.ty.bits ≠ 16 →
    RegResult (.pack a) { g := a.g, srcs := [(a.a, 1), (a.d, 1)], dsts := [(a.d, 1)], once := a.d.isS } a.d 1
      fun b l => (withElem a.m.ty (b.val a.d l 1) a.m.sub.val (b.val a.a l 1), 0)) ∧
  (∀ a, ValResult (.unpk a) a 1 1 0 0 fun x _ _ => wrapInt 32 (intElem a.m.ty (elemAt a.m.ty x a.m.sub.val))) ∧
  (∀ a : LaneArgs,
    let w := a.m.ty.bits
    let n := 256 / w
    ∀ s b, s.issueOf { g := a.g, dsts := [(a.d, 8)] } = some b → b.runs { g := a.g, dsts := [(a.d, 8)] } = true →
      (∀ l j, laneOn b.active l = true → j < n → b.regPoisoned a.d 8 (l / n * n + j) = false) →
      (b.advance.write a.d 8 (rgtrVal b.w.arch a.d w)).fits b { g := a.g, dsts := [(a.d, 8)] } = true →
      ∃ t, exec (.rgtr a) s = .next t ∧ OnlyArch s b (b.afterReg a.d 8 fun l => (rgtrVal b.w.arch a.d w l, 0)) t)

/-- R141 to R145: the instructions over the lanes of the issue. Two points are the model's choice: WRED and WSCAN give a lone lane's
value as it stands, a NaN included (log 65), and a predicate which some lanes do not write stays poisoned (log 54). -/
def Obligations.CrossLaneResults : Prop :=
  (∀ a : LaneArgs, let w := a.m.ty.regs
    LaneResult (.xlane a) { g := a.g, srcs := [(a.a, w), (a.b, 1)], dsts := [(a.d, w)], forbidden := true } a.d a.a w fun b l =>
      (xlaneSource a.m.sub.val l (b.val a.b l 1)).getD l) ∧
  (∀ a : LaneArgs, let w := a.m.ty.regs
    LaneResult (.rdlane a) { g := a.g, srcs := [(a.a, w), (a.b, 1)], dsts := [(a.d, w)], forbidden := true } a.d a.a w fun b l =>
      b.val a.b l 1 % 32) ∧
  (∀ a : PollArgs, a.mode.val ≤ 2 →
    CompletesQuietly (.poll a) { g := a.g, preds := [a.pa], forbidden := true } fun i =>
      let v := i.active &&& maskOf fun l => i.w.arch.psrc a.pa l
      i.writePred a.d.num fun _ =>
        match a.mode.val with | 0 => v == i.active | 1 => v != 0 | _ => v == i.active || v == 0) ∧
  (∀ a : PollArgs, 2 < a.mode.val →
    WarpResult (.poll a) { g := a.g, preds := [a.pa], dsts := [(a.d, 1)], forbidden := true } a.d 1 fun b =>
      let v := b.active &&& maskOf fun l => b.w.arch.psrc a.pa l
      (fun _ => if a.mode.val = 3 then v.toNat else ((upTo 32).filter fun l => laneOn v l).length, 0)) ∧
  (∀ a : LaneArgs, let w := a.m.ty.regs
    WarpResult (.wred a) { g := a.g, srcs := [(a.a, w)], dsts := [(a.d, w)], forbidden := true } a.d w fun b =>
      let r := treeReduce (redNode a.m.sub.val a.m.ty a.m.rm) 5 (b.activeLanes.map fun l => b.val a.a l w) 0
      (fun _ => r.1, r.2)) ∧
  (∀ a : LaneArgs, let w := a.m.ty.regs
    WarpResult (.wscan a) { g := a.g, srcs := [(a.a, w)], dsts := [(a.d, w)], forbidden := true } a.d w fun b =>
      let r := scanFold (redNode a.m.sub.val a.m.ty a.m.rm) none 0 (b.activeLanes.map fun l => b.val a.a l w)
      (fun l => r.1.getD (b.activeLanes.idxOf l) 0, r.2)) ∧
  (∀ a : LaneArgs, let w := a.m.ty.regs
    WarpResult (.eqm a) { g := a.g, srcs := [(a.a, w)], dsts := [(a.d, 1)], forbidden := true } a.d 1 fun b =>
      (fun l => (b.active &&& maskOf fun m => b.val a.a m w == b.val a.a l w).toNat, 0))

/-! ### Pair words -/

/-- R57, R58, R72, R73: the thirty-five pair operations, and the value of each (R72) on its destination, source and immediate. The
sign that FSUB gives to a difference of two zeros is the model's choice: log 65. -/
def Obligations.PairWordResults : Prop :=
  (∀ (d a : Word) (x : BitVec 8),
    let gives (o : PairOp) (v : Word) : Prop := pairVal o d.toNat a.toNat x = (v.toNat, 0)
    let k : Word := x.signExtend 32
    let n := x.toNat % 32
    let halves (o : PairOp) (f : Nat → Nat → Nat × Fl) : Prop :=
      let lo := f (d.toNat % 65536) (a.toNat % 65536)
      let hi := f (d.toNat / 65536) (a.toNat / 65536)
      pairVal o d.toNat a.toNat x = (lo.1 + 65536 * hi.1, lo.2 ||| hi.2)
    gives .iadd (d + a) ∧ gives .isub (d - a) ∧ gives .imul (d * a) ∧ gives .iminS (if d.sle a then d else a) ∧
    gives .imaxS (if d.sle a then a else d) ∧ gives .iminU (if d.ule a then d else a) ∧ gives .imaxU (if d.ule a then a else d) ∧
    gives .and (d &&& a) ∧ gives .or (d ||| a) ∧ gives .xor (d ^^^ a) ∧ gives .shl (d <<< (a.toNat % 32)) ∧
    gives .shrU (d >>> (a.toNat % 32)) ∧ gives .shrS (d.sshiftRight (a.toNat % 32)) ∧ gives .iaddi (a + k) ∧ gives .andi (a &&& k) ∧
    gives .ori (a ||| k) ∧ gives .xori (a ^^^ k) ∧ gives .shli (a <<< n) ∧ gives .shriU (a >>> n) ∧ gives .shriS (a.sshiftRight n) ∧
    gives .movi8 k ∧ gives .mov a ∧
    pairVal .faddF32 d.toNat a.toNat x = fadd fmtF32 .rne false d.toNat a.toNat ∧
    pairVal .fsubF32 d.toNat a.toNat x = fsub fmtF32 .rne false d.toNat a.toNat ∧
    pairVal .fmulF32 d.toNat a.toNat x = fmul fmtF32 .rne false d.toNat a.toNat ∧
    pairVal .fminF32 d.toNat a.toNat x = fminmax fmtF32 false d.toNat a.toNat ∧
    pairVal .fmaxF32 d.toNat a.toNat x = fminmax fmtF32 true d.toNat a.toNat ∧
    halves .faddF16x2 (fadd fmtF16 .rne false) ∧ halves .fmulF16x2 (fmul fmtF16 .rne false) ∧
    halves .faddBf16x2 (fadd fmtBF16 .rne false) ∧ halves .fmulBf16x2 (fmul fmtBF16 .rne false) ∧
    pairVal .cvtF32I32 d.toNat a.toNat x = cvtIF fmtF32 .rne false a.toInt ∧
    pairVal .cvtI32F32 d.toNat a.toNat x = cvtFI 32 true .rne true (unpack fmtF32 a.toNat) ∧
    pairVal .cvtF32F16 d.toNat a.toNat x = froundV fmtF32 .rne false (unpack fmtF16 (a.toNat % 65536)) ∧
    pairVal .cvtF32Bf16 d.toNat a.toNat x = froundV fmtF32 .rne false (unpack fmtBF16 (a.toNat % 65536))) ∧
  PairResult .pairIadd .iadd ∧ PairResult .pairIsub .isub ∧ PairResult .pairImul .imul ∧ PairResult .pairIminS .iminS ∧
  PairResult .pairImaxS .imaxS ∧ PairResult .pairIminU .iminU ∧ PairResult .pairImaxU .imaxU ∧ PairResult .pairAnd .and ∧
  PairResult .pairOr .or ∧ PairResult .pairXor .xor ∧ PairResult .pairShl .shl ∧ PairResult .pairShrU .shrU ∧
  PairResult .pairShrS .shrS ∧ PairResult .pairIaddi .iaddi ∧ PairResult .pairAndi .andi ∧ PairResult .pairOri .ori ∧
  PairResult .pairXori .xori ∧ PairResult .pairShli .shli ∧ PairResult .pairShriU .shriU ∧ PairResult .pairShriS .shriS ∧
  PairResult .pairMovi8 .movi8 ∧ PairResult .pairFaddF32 .faddF32 ∧ PairResult .pairFsubF32 .fsubF32 ∧
  PairResult .pairFmulF32 .fmulF32 ∧ PairResult .pairFminF32 .fminF32 ∧ PairResult .pairFmaxF32 .fmaxF32 ∧
  PairResult .pairFaddF16x2 .faddF16x2 ∧ PairResult .pairFmulF16x2 .fmulF16x2 ∧ PairResult .pairFaddBf16x2 .faddBf16x2 ∧
  PairResult .pairFmulBf16x2 .fmulBf16x2 ∧ PairResult .pairMov .mov ∧ PairResult .pairCvtF32I32 .cvtF32I32 ∧
  PairResult .pairCvtI32F32 .cvtI32F32 ∧ PairResult .pairCvtF32F16 .cvtF32F16 ∧ PairResult .pairCvtF32Bf16 .cvtF32Bf16

/-! ### Class L -/

/-- R54, R203, R205, R206: LD and LDS that access once complete with the little-endian bytes at the located address, extended,
in their destination; no byte changes. -/
def Obligations.LoadReadsBytes : Prop :=
  ∀ (a : MemArgs) (spad : Bool) (s : State) (b j : Iss) (l : Nat) (xs : List Loc),
    let k := MemArgs.kind a (if spad then 1 else 2) false
    let n := 2 ^ a.sz.val
    let w := szRegs a.sz.val
    let value := leNat (xs.map fun x => s.view b.w.chunk x)
    s.issueOf k = some b → b.runs k = true → b.oneAccess (MemArgs.once a) l →
    (if spad then b.advance.scratch l (ea32 (b.val a.addr l 1) a.off.toInt) n
      else b.advance.device l (ea64 (b.val a.addr l 2) a.off.toInt) n a.col .read) = .ok (j, xs) →
    j.readable xs →
    ((j.loaded xs (a.hint.val == 3)).writeLane a.data w l (if a.sx then wrapInt 32 (signed (8 * n) value) else value)).fits b k = true →
    ∃ t x, exec (if spad then .lds a else .ld a) s = .next t ∧ t.warp? b.wid = some x ∧
      x.arch.follows
        (let r := (b.w.arch.setPc b.lanes fun _ => b.next).setVal a.data l w (if a.sx then wrapInt 32 (signed (8 * n) value) else value)
         { r with poison := clearPoison (regItems a.data w) (laneBit l) r.poison }) ∧
      x.chunk.writes = b.w.chunk.writes ∧ SameBytes s t

/-- R203, R204, R206: LD and LDS in every accessing lane, ascending: registers other than the destination's in those lanes, and
every byte, are as before. -/
def Obligations.LoadFrame : Prop :=
  ∀ (a : MemArgs) (spad : Bool) (s : State) (b i : Iss),
    let k := MemArgs.kind a (if spad then 1 else 2) false
    let n := 2 ^ a.sz.val
    let w := szRegs a.sz.val
    let lane (j : Iss) (l : Nat) : Eff Iss :=
      let ea := if spad then ea32 (b.val a.addr l 1) a.off.toInt else ea64 (b.val a.addr l 2) a.off.toInt
      (if spad then j.scratch l ea n else j.device l ea n a.col .read).bind fun r =>
        (r.1.load l ea r.2 (a.hint.val == 3)).bind fun q =>
          .ok (q.1.writeLane a.data w l (if a.sx then wrapInt 32 (signed (8 * n) q.2) else q.2))
    s.issueOf k = some b → b.runs k = true → b.advance.eachLane lane (b.accessLanes (MemArgs.once a)) = .ok i →
    i.fits b k = true →
    ∃ t x, exec (if spad then .lds a else .ld a) s = .next t ∧ Leaves i t ∧ t.warp? b.wid = some x ∧
      (∀ r l, (∀ m, m < w → a.data.nth m ≠ r) ∨ (r.isV = true ∧ l ∉ b.accessLanes (MemArgs.once a)) →
        x.arch.reg r l = b.w.arch.reg r l) ∧
      x.arch.p = b.w.arch.p ∧ x.arch.flags = b.w.arch.flags ∧ x.arch.h = b.w.arch.h ∧ x.arch.gang = b.w.arch.gang ∧
      x.arch.rstack = b.w.arch.rstack ∧ x.chunk.writes = b.w.chunk.writes ∧ SameBytes s t

/-- R203, R205, R206: ST and STS that access once complete with the register's low bytes, little-endian, at the located address:
in the chunk for device memory and scratchpad, where the chunk's view of every other byte and every committed byte stay, and at
once for host memory and a peer that does not refuse (R188), where every other committed byte stays. No register changes. -/
def Obligations.StoreWritesBytes : Prop :=
  ∀ (a : MemArgs) (spad : Bool) (s : State) (b j : Iss) (l : Nat) (xs : List Loc),
    let k := MemArgs.kind a (if spad then 1 else 2) true
    let n := 2 ^ a.sz.val
    let data := leBytes n (b.val a.data l (szRegs a.sz.val))
    s.memOk = true → s.issueOf k = some b → b.runs k = true → b.oneAccess (MemArgs.once a) l →
    (if spad then b.advance.scratch l (ea32 (b.val a.addr l 1) a.off.toInt) n
      else b.advance.device l (ea64 (b.val a.addr l 2) a.off.toInt) n a.col .write) = .ok (j, xs) → xs.Nodup →
    ((j.store l xs data).hint a.hint xs).fits b k = true →
    ∃ t x, exec (if spad then .sts a else .st a) s = .next t ∧ t.warp? b.wid = some x ∧
      x.arch.follows (b.w.arch.setPc b.lanes fun _ => b.next) ∧
      ((∀ y ∈ xs, y.space.irrevocable = false) →
        (∀ y, y ∉ xs → getKey y x.chunk.writes = getKey y b.w.chunk.writes) ∧
        (∀ (m : Nat) (y : Loc), xs[m]? = some y → getKey y x.chunk.writes = data[m]?) ∧ SameBytes s t) ∧
      ((∀ y ∈ xs, y.space.irrevocable = true ∧ s.refuses y = false) →
        (∀ y, y ∉ xs → y.addr < 2 ^ 52 → t.byteAt y = s.byteAt y) ∧ (∀ (m : Nat) (y : Loc), xs[m]? = some y → some (t.byteAt y) = data[m]?) ∧
        x.chunk.writes = b.w.chunk.writes)

/-- R204, R206: ST and STS in every accessing lane, ascending: no register changes, and the chunk's view changes at no byte
outside those that some lane stores. -/
def Obligations.StoreFrame : Prop :=
  ∀ (a : MemArgs) (spad : Bool) (s : State) (b i : Iss) (xs : List Loc),
    let k := MemArgs.kind a (if spad then 1 else 2) true
    let n := 2 ^ a.sz.val
    let ea (l : Nat) : Nat := if spad then ea32 (b.val a.addr l 1) a.off.toInt else ea64 (b.val a.addr l 2) a.off.toInt
    let find (j : Iss) (l : Nat) : Eff (Iss × List Loc) :=
      if spad then j.scratch l (ea l) n else j.device l (ea l) n a.col .write
    s.memOk = true → s.issueOf k = some b → b.runs k = true →
    b.advance.storeLanes find a.hint (fun l => leBytes n (b.val a.data l (szRegs a.sz.val))) (b.accessLanes (MemArgs.once a)) = .ok (i, xs) →
    i.fits b k = true →
    ∃ t x, exec (if spad then .sts a else .st a) s = .next t ∧ Leaves i t ∧ t.warp? b.wid = some x ∧
      x.arch.follows (b.w.arch.setPc b.lanes fun _ => b.next) ∧
      ∀ y, y ∉ xs → y.addr < 2 ^ 52 → getKey y x.chunk.writes = getKey y b.w.chunk.writes ∧ t.byteAt y = s.byteAt y

/-- R55, R204, R205, R222, R223: ATOM and ATOMS that access once complete with the old value in d, the new value in the chunk at the
located bytes, and the operation's flags raised; CAS that accesses once, with the old value in d, and stores c exactly where the
old value equals b. -/
def Obligations.AtomicReadModifyWrite : Prop :=
  (∀ (a : AtomArgs) (spad : Bool) (s : State) (b j : Iss) (l : Nat) (xs : List Loc),
    let w := a.ty.regs
    let once := a.a.isS && a.b.isS && a.d.isS
    let k : Kind := { g := a.g, srcs := [(a.a, if spad then 1 else 2), (a.b, w)], dsts := [(a.d, w)], once := once }
    let old := leNat (xs.map fun x => s.view b.w.chunk x)
    let r := aopApply a.op a.ty old (b.val a.b l w)
    s.issueOf k = some b → b.runs k = true → b.oneAccess once l →
    (if spad then b.advance.scratch l (ea32 (b.val a.a l 1) a.off.toInt) (4 * w)
      else b.advance.device l (ea64 (b.val a.a l 2) a.off.toInt) (4 * w) a.col .write true) = .ok (j, xs) → xs.Nodup →
    j.readable xs →
    (((((j.loaded xs (a.hint.val == 3)).store l xs (leBytes (4 * w) r.1)).hint a.hint xs).writeLane a.d w l old).raise r.2).fits b k = true →
    ∃ t x, exec (if spad then .atoms a else .atom a) s = .next t ∧ t.warp? b.wid = some x ∧
      x.arch.follows
        (let z := (b.w.arch.setPc b.lanes fun _ => b.next).setVal a.d l w old
         { z with flags := z.flags ||| r.2.setWidth 32, poison := clearPoison (regItems a.d w) (laneBit l) z.poison }) ∧
      (∀ y, y ∉ xs → getKey y x.chunk.writes = getKey y b.w.chunk.writes) ∧
      (∀ (m : Nat) (y : Loc), xs[m]? = some y → getKey y x.chunk.writes = (leBytes (4 * w) r.1)[m]?) ∧ SameBytes s t) ∧
  (∀ (a : CasArgs) (s : State) (b j : Iss) (l : Nat) (xs : List Loc),
    let w := szRegs a.sz.val
    let n := 2 ^ a.sz.val
    let once := a.a.isS && a.d.isS && a.b.isS && a.c.isS
    let k : Kind := { g := a.g, srcs := [(a.a, 2), (a.b, w), (a.c, w)], dsts := [(a.d, w)], once := once }
    let old := leNat (xs.map fun x => s.view b.w.chunk x)
    let new := leBytes n (b.val a.c l w)
    let done (i : Iss) : Iss := if old = b.val a.b l w then (i.store l xs new).hint a.hint xs else i
    s.issueOf k = some b → b.runs k = true → b.oneAccess once l →
    b.advance.device l (b.val a.a l 2) n false .write true = .ok (j, xs) → j.readable xs →
    ((done (j.loaded xs (a.hint.val == 3))).writeLane a.d w l old).fits b k = true →
    ∃ t x, exec (.cas a) s = .next t ∧ t.warp? b.wid = some x ∧
      x.arch.follows
        (let z := (b.w.arch.setPc b.lanes fun _ => b.next).setVal a.d l w old
         { z with poison := clearPoison (regItems a.d w) (laneBit l) z.poison }) ∧
      (∀ y, y ∉ xs → getKey y x.chunk.writes = getKey y b.w.chunk.writes) ∧
      (∀ (m : Nat) (y : Loc), xs[m]? = some y →
        getKey y x.chunk.writes = if old = b.val a.b l w then new[m]? else getKey y b.w.chunk.writes) ∧ SameBytes s t)

/-- R222: the new value of each atomic operation, by element, and by halves for the packed types. -/
def Obligations.AtomicOperations : Prop :=
  (∀ (op : Aop) (ty : Aty) (old x : Nat), ty = .bf16x2 ∨ ty = .f16x2 → old < 2 ^ 32 → x < 2 ^ 32 →
    let f := if ty = .bf16x2 then fmtBF16 else fmtF16
    let halves (g : Nat → Nat → Nat × Fl) : Nat × Fl :=
      let lo := g (old % 65536) (x % 65536)
      let hi := g (old / 65536) (x / 65536)
      (lo.1 + 65536 * hi.1, lo.2 ||| hi.2)
    aopApply op ty old x =
      match op with
      | .add => halves (fadd f .rne false)
      | .min => halves (fminmax f false)
      | .max => halves (fminmax f true)
      | .and => (old &&& x, 0)
      | .or => (old ||| x, 0)
      | .xor => (old ^^^ x, 0)
      | .exch => (x, 0)) ∧
  ∀ (op : Aop) (ty : Aty) (old x : Nat), ty ≠ .bf16x2 → ty ≠ .f16x2 → old < 2 ^ (32 * ty.regs) → x < 2 ^ (32 * ty.regs) →
    let t := Aty.elem ty
    aopApply op ty old x =
      match op with
      | .add => if t.isFloat then fadd (fmtOf t) .rne false old x else ((old + x) % 2 ^ t.bits, 0)
      | .min => if t.isFloat then fminmax (fmtOf t) false old x else (if intElem t old ≤ intElem t x then old else x, 0)
      | .max => if t.isFloat then fminmax (fmtOf t) true old x else (if intElem t old ≤ intElem t x then x else old, 0)
      | .and => (old &&& x, 0)
      | .or => (old ||| x, 0)
      | .xor => (old ^^^ x, 0)
      | .exch => (x, 0)

/-- R174, R182, R204, R222: RED changes no byte and no register; the operation of each accessing lane, located and valued, is
queued for the chunk's commit, in ascending order of the lanes. -/
def Obligations.RedQueues : Prop :=
  ∀ (a : AtomArgs) (s : State) (b i : Iss) (ops : List RedOp),
    let w := a.ty.regs
    let once := a.a.isS && a.b.isS
    let k : Kind := { g := a.g, srcs := [(a.a, 2), (a.b, w)], once := once }
    let ea (l : Nat) : Nat := ea64 (b.val a.a l 2) a.off.toInt
    let op (l : Nat) (xs : List Loc) : RedOp :=
      { locs := xs, va := ea l, op := a.op, ty := a.ty, value := BitVec.ofNat 64 (b.val a.b l w), lane := l, pc := b.pc }
    s.issueOf k = some b → b.runs k = true →
    b.advance.redLanes (fun j l => j.device l (ea l) (4 * w) a.col .write true) op (b.accessLanes once) = .ok (i, ops) →
    i.fits b k = true →
    ∃ t x, exec (.red a) s = .next t ∧ Leaves i t ∧ t.warp? b.wid = some x ∧
      x.arch.follows (b.w.arch.setPc b.lanes fun _ => b.next) ∧
      x.chunk.queued = b.w.chunk.queued ++ ops.map Release.red ∧ ops.map (fun o => o.lane) = b.accessLanes once ∧
      (b.accessLanes once).Pairwise (fun m n => m < n) ∧ x.chunk.writes = b.w.chunk.writes ∧ SameBytes s t

/-- R225, R226: ENQ and DEQ that access once and find no valid ring, no room or no entry clear their predicate and change no byte
and no register.
R225, R226: an ENQ that finds room writes the entry and the next TAIL; a DEQ that finds an entry reads it and writes the next
HEAD; both set their predicate. -/
def Obligations.RingInstructions : Prop :=
  (∀ (a : RingArgs) (deq : Bool) (s : State) (b j : Iss) (l : Nat) (xs : List Loc),
    let w := szRegs a.sz.val
    let n := 2 ^ a.sz.val
    let once := a.a.isS && a.data.isS
    let k : Kind :=
      if deq then { g := a.g, srcs := [(a.a, 2)], dsts := [(a.data, w)], once := once, oncePred := some a.pd.val }
      else { g := a.g, srcs := [(a.a, 2), (a.data, w)], once := once, oncePred := some a.pd.val }
    let r := ringSeen s b.w.chunk xs
    s.issueOf k = some b → b.runs k = true → b.oneAccess once l →
    b.advance.device l (b.val a.a l 2) 32 false .read true = .ok (j, xs) → j.readable (xs.take 24) →
    ((∀ e, r.cap ≠ 2 ^ e) ∨ r.esz ≠ n ∨ r.base % n ≠ 0 ∨ (if deq then r.tail = r.head else r.cap ≤ (r.tail + 2 ^ 32 - r.head) % 2 ^ 32)) →
    ((j.loaded (xs.take 24)).ringPred once a.pd.val l false).fits b k = true →
    ∃ t x, exec (if deq then .deq a else .enq a) s = .next t ∧ t.warp? b.wid = some x ∧
      (∀ q m, m < 32 → q < 7 → x.arch.pred q m =
        if q = a.pd.val ∧ laneOn (if once then b.active else laneBit l) m = true then false else b.w.arch.pred q m) ∧
      x.arch.v = b.w.arch.v ∧ x.arch.s = b.w.arch.s ∧ x.chunk.writes = b.w.chunk.writes ∧ SameBytes s t) ∧
  (∀ (a : RingArgs) (s : State) (b j j' j'' : Iss) (l : Nat) (xs ys zs : List Loc),
    let w := szRegs a.sz.val
    let n := 2 ^ a.sz.val
    let once := a.a.isS && a.data.isS
    let k : Kind := { g := a.g, srcs := [(a.a, 2), (a.data, w)], once := once, oncePred := some a.pd.val }
    let r := ringSeen s b.w.chunk xs
    let entry := leBytes n (b.val a.data l w)
    let tail := leBytes 4 ((r.tail + 1) % 2 ^ 32)
    s.issueOf k = some b → b.runs k = true → b.oneAccess once l →
    b.advance.device l (b.val a.a l 2) 32 false .read true = .ok (j, xs) → j.readable (xs.take 24) →
    b.w.arch.p.length = 7 → r.ok n = true → (r.tail + 2 ^ 32 - r.head) % 2 ^ 32 < r.cap →
    (j.loaded (xs.take 24)).device l ((r.base + r.tail % r.cap * r.esz) % 2 ^ 64) n false .write true = .ok (j', ys) →
    (j'.store l ys entry).device l (b.val a.a l 2 + 20) 4 false .write true = .ok (j'', zs) →
    ((j''.store l zs tail).ringPred once a.pd.val l true).fits b k = true →
    ∃ t x, exec (.enq a) s = .next t ∧ t.warp? b.wid = some x ∧ (∀ q m, m < 32 → q < 7 → x.arch.pred q m =
        if q = a.pd.val ∧ laneOn (if once then b.active else laneBit l) m = true then true else b.w.arch.pred q m) ∧
      x.arch.v = b.w.arch.v ∧ x.arch.s = b.w.arch.s ∧
      (∀ (m : Nat) (y : Loc), zs[m]? = some y → getKey y x.chunk.writes = tail[m]?) ∧
      (∀ (m : Nat) (y : Loc), y ∉ zs → ys[m]? = some y → getKey y x.chunk.writes = entry[m]?) ∧
      (∀ y, y ∉ zs → y ∉ ys → getKey y x.chunk.writes = getKey y b.w.chunk.writes) ∧ SameBytes s t) ∧
  (∀ (a : RingArgs) (s : State) (b j j' j'' : Iss) (l : Nat) (xs ys zs : List Loc),
    let w := szRegs a.sz.val
    let n := 2 ^ a.sz.val
    let once := a.a.isS && a.data.isS
    let k : Kind := { g := a.g, srcs := [(a.a, 2)], dsts := [(a.data, w)], once := once, oncePred := some a.pd.val }
    let r := ringSeen s b.w.chunk xs
    let value := leNat (ys.map fun y => s.view b.w.chunk y)
    let head := leBytes 4 ((r.head + 1) % 2 ^ 32)
    s.issueOf k = some b → b.runs k = true → b.oneAccess once l →
    b.advance.device l (b.val a.a l 2) 32 false .read true = .ok (j, xs) → j.readable (xs.take 24) →
    b.w.arch.p.length = 7 → r.ok n = true → r.tail ≠ r.head →
    (j.loaded (xs.take 24)).device l ((r.base + r.head % r.cap * r.esz) % 2 ^ 64) n false .read true = .ok (j', ys) →
    j'.readable ys →
    ((j'.loaded ys).writeLane a.data w l value).device l (b.val a.a l 2 + 16) 4 false .write true = .ok (j'', zs) →
    ((j''.store l zs head).ringPred once a.pd.val l true).fits b k = true →
    ∃ t x, exec (.deq a) s = .next t ∧ t.warp? b.wid = some x ∧
      (∀ q m, m < 32 → q < 7 → x.arch.pred q m =
        if q = a.pd.val ∧ laneOn (if once then b.active else laneBit l) m = true then true else b.w.arch.pred q m) ∧
      (let z := b.w.arch.setVal a.data l w value; x.arch.v = z.v ∧ x.arch.s = z.s) ∧
      (∀ (m : Nat) (y : Loc), zs[m]? = some y → getKey y x.chunk.writes = head[m]?) ∧
      (∀ y, y ∉ zs → getKey y x.chunk.writes = getKey y b.w.chunk.writes) ∧ SameBytes s t)

/-- R25, R210, R211, R219 to R221: PGENUM that acts once completes with the canonical address of the lowest backed page of the
region from the address's page on, or all ones; PGSTAT tells whether the page is backed in the chunk's view; PGRESET makes every
byte of the page read as the default within the chunk, and no other byte differently; REGSWEEP ends its chunk and queues the
sweep of the region; PREFETCH changes no register and no byte; LNFLUSH queues the write-back of the line that its active lane's
address names. What of it the manual leaves open is the model's choice: log 54. -/
def Obligations.PageInstructions : Prop :=
  (∀ (a : TwoRegArgs) (l idx : Nat) (r : Region),
    let page (b : Iss) : Nat := (b.val a.a l 2 % 2 ^ 57 - r.base) / 65536
    Does (.pgenum a) { g := a.g, srcs := [(a.a, 2)], dsts := [(a.d, 2)], once := a.d.isS }
      (fun b => b.oneAccess a.d.isS l ∧ canonical (b.val a.a l 2) = true ∧
        b.s.regionAt b.ctx.part (b.val a.a l 2 % 2 ^ 57) = some (idx, r))
      (fun b x => SameChunk b x ∧ ∃ v,
        x.arch.follows { b.moved.setVal a.d l 2 v with poison := clearPoison (regItems a.d 2) (laneBit l) b.moved.poison } ∧
        ((∃ k, page b ≤ k ∧ k < r.pages ∧ b.pageBacked b.ctx.part r k = true ∧ v = wrapInt 64 (signed 57 (r.base + k * 65536)) ∧
            ∀ j, page b ≤ j → j < k → b.pageBacked b.ctx.part r j = false) ∨
          (v = 2 ^ 64 - 1 ∧ ∀ j, page b ≤ j → j < r.pages → b.pageBacked b.ctx.part r j = false)))) ∧
  (∀ (a : PAddrArgs) (l idx : Nat) (r : Region),
    Does (.pgstat a) { g := a.g, srcs := [(a.a, 2)] }
      (fun b => b.activeLanes = [l] ∧ canonical (b.val a.a l 2) = true ∧
        b.s.regionAt b.ctx.part (b.val a.a l 2 % 2 ^ 57) = some (idx, r))
      (fun b x => SameChunk b x ∧
        x.arch.follows { b.moved.setPred a.pd.val (laneBit l)
            (fun _ => b.pageBacked b.ctx.part r ((b.val a.a l 2 % 2 ^ 57 - r.base) / 65536)) with
          poison := clearPoison [.p a.pd.val] (laneBit l) b.moved.poison })) ∧
  (∀ (a : RegArgs) (s : State) (b : Iss) (l idx : Nat) (r : Region) (z : Xlate),
    let k : Kind := { g := a.g, srcs := [(a.r, 2)], once := a.r.isS }
    let va := b.val a.r l 2
    s.issueOf k = some b → b.runs k = true → b.first → b.oneAccess a.r.isS l → canonical va = true →
    s.regionAt b.ctx.part (va % 2 ^ 57) = some (idx, r) → r.fwin = none →
    s.walkOwned b.ctx b.core va = false → s.xlate b.ctx b.core va .write = .ok z →
    ∃ t x, exec (.pgreset a) s = .next t ∧ t.warp? b.wid = some x ∧ x.arch.follows b.moved ∧ SameBytes s t ∧
      ∀ y, t.view x.chunk y = if y.page = z.loc.page then s.defaultAt y else s.view b.w.chunk y) ∧
  (∀ (a : RegArgs) (idx : Nat) (r : Region),
    Does (.regsweep a) { g := a.g, srcs := [(a.r, 2)], endsAfter := true, forbidden := true, once := true }
      (fun b => canonical (b.val a.r b.lane 2) = true ∧
        b.s.regionAt b.ctx.part (b.val a.r b.lane 2 % 2 ^ 57) = some (idx, r))
      (fun b x => x.arch.follows b.moved ∧ x.chunk.writes = b.w.chunk.writes ∧ x.chunk.ended = true ∧
        x.chunk.queued = b.w.chunk.queued ++ [.sweep idx])) ∧
  (∀ a : MemArgs, DoesBeyond (.prefetch a) { g := a.g, others := [(a.addr, 2)] } (fun _ => True)
    (fun b t x => x.arch.follows b.moved ∧ SameChunk b x ∧ SameBytes b.s t)) ∧
  (∀ (a : MemArgs) (s : State) (b : Iss) (l : Nat) (z : Xlate),
    let k : Kind := { g := a.g, srcs := [(a.addr, 2)] }
    s.issueOf k = some b → b.runs k = true → b.first → b.activeLanes = [l] →
    s.walkOwned b.ctx b.core (ea64 (b.val a.addr l 2) a.off.toInt) = false →
    s.xlate b.ctx b.core (ea64 (b.val a.addr l 2) a.off.toInt) .read = .ok z → (b.w.chunk.owns z.loc = true ∨ s.isPoisoned z.loc = false) →
    ∃ t x, exec (.lnflush a) s = .next t ∧ t.warp? b.wid = some x ∧ x.arch.follows b.moved ∧ SameBytes s t ∧
      x.chunk.writes = b.w.chunk.writes ∧ x.chunk.queued = b.w.chunk.queued ++ [.flush z.loc.line])

/-! ### Classes O and B -/

/-- R227, R260, R268: NOP, CHUNK and YIELD change no register; CHUNK ends its chunk; a YIELD.ROT with other Ready lanes makes
the next issue a fairness issue (R251).
R292, R303: YRET without a yield record is a NOP; with one, every lane that has not exited takes the record's program counter
and state, and the record is gone. -/
def Obligations.NopChunkYieldYret : Prop :=
  (∀ g, Does (.nop g) { g := g } (fun _ => True) fun b x => x.arch.follows b.moved ∧ SameChunk b x) ∧
  (∀ g, Does (.chunk g) { g := g, endsAfter := true } (fun _ => True)
    fun b x => x.arch.follows b.moved ∧ SameChunk b x ∧ x.chunk.ended = true) ∧
  (∀ a : YieldArgs, Does (.yield a) { g := a.g, rot := a.rot } (fun _ => True)
    fun b x => x.arch.follows b.moved ∧ SameChunk b x) ∧
  (∀ (a : YieldArgs) (y : Nat), Does (.yield a) { g := a.g, rot := a.rot }
    (fun b => a.rot = true ∧ b.w.arch.ready &&& ~~~b.lanes ≠ 0 ∧ b.w.arch.fairNext = none ∧ b.moved.fairPick = some y)
    fun _ x => x.arch.fairNext = some y ∧ x.arch.fairC = y ∧ x.arch.fairF = 0) ∧
  (∀ g, Does (.yret g) { g := g } (fun b => b.w.arch.yrec = none) fun b x => x.arch.follows b.moved ∧ SameChunk b x) ∧
  (∀ g (y : YieldRec), Does (.yret g) { g := g }
    (fun b => b.w.arch.yrec = some y ∧ b.w.arch.pc.length = 32 ∧ b.w.arch.st.length = 32 ∧ y.pc.length = 32 ∧ y.st.length = 32)
    fun b x => SameChunk b x ∧ x.arch.yrec = none ∧ x.arch.v = b.w.arch.v ∧ x.arch.s = b.w.arch.s ∧ x.arch.p = b.w.arch.p ∧
      ∀ l, l < 32 → b.w.arch.stOf l ≠ .exited → x.arch.pcOf l = y.pc.getD l 0 ∧ x.arch.stOf l = y.st.getD l .exited)

/-- R228, R229: TXBEGIN outside a transaction opens one: its active lanes enter at depth 1, the fallback is kept, and the chunk
restarts at this issue. Inside one, each active lane is one deeper, or enters at depth 1. In an open transaction, TXEND lowers
the depth of its active lanes, and an entering lane whose depth reaches 0 waits; while a lane runs on, so does the transaction.
R228, R230: TXABORT, and a TXBEGIN of a lane at depth 7, stop their lanes there. Where the lane is alone in the transaction and
this is its first issue, the transaction aborts: the state of its start is back, the entering lane stands at the fallback, and
tx.cause holds the code with cause 2, or cause 4. Whichever issue of the sequence aborts, the state of the start comes back, with
its cause. What of it the manual leaves open is the model's choice: logs 15 and 16. -/
def Obligations.Transactions : Prop :=
  (∀ a : OffArgs, Does (.txbegin a) { g := a.g, endsBefore := true } (fun b => b.pathRoom)
    fun b x =>
      (∃ c, x.arch.follows { b.moved with
        tx := some { Tx.opened (wordTarget b.pc a.imm) b.active b.w.arch.s with cost := c, early := b.w.arch.meeting } }) ∧
      (∀ l, l < 32 → (Tx.opened (wordTarget b.pc a.imm) b.active b.w.arch.s).depth l = if laneOn b.active l then 1 else 0) ∧
      x.chunk.start = x.arch ∧ SameChunk b x) ∧
  (∀ (a : OffArgs) (s : State) (b : Iss) (t0 : Tx),
    let k : Kind := { g := a.g, endsBefore := true }
    s.issueOf k = some b → b.w.arch.tx = some t0 → b.active ≠ 0 → b.poisonLane k = none → b.pathRoom →
    (∀ l, laneOn b.active l = true → t0.done l = false ∧ (t0.entered l = true → t0.depth l < 7)) →
    1 < t0.cap → (∀ e ∈ t0.lanes, e.trace.length + 1 < t0.cap) →
    ∃ x t1, exec (.txbegin a) s = .next (s.unissued.mapWarp b.wid fun _ => x) ∧ x.arch.tx = some t1 ∧
      SameBytes s (s.unissued.mapWarp b.wid fun _ => x) ∧ t1.fallback = t0.fallback ∧ SameChunk b x ∧
      ∀ l, laneOn b.active l = true → t1.depth l = (if t0.entered l then t0.depth l + 1 else 1) ∧ t1.entered l = true) ∧
  (∀ (g : Guard) (s : State) (b : Iss) (t0 : Tx),
    s.issueOf { g := g } = some b → b.w.arch.tx = some t0 → b.active ≠ 0 → b.poisonLane { g := g } = none → b.pathRoom →
    (∀ l, laneOn b.active l = true → t0.depth l ≠ 0) → (∀ z ∈ b.w.arch.waits, z.lanes &&& b.active = 0) →
    ∃ t x t1, exec (.txend g) s = .next t ∧ t = (s.unissued.mapWarp b.wid fun _ => x).meetFate b.wid (b.txFate x) ∧ SameBytes s t ∧
      x.arch.tx = some t1 ∧ SameChunk b x ∧
      (∀ l, laneOn b.active l = true → t1.depth l = t0.depth l - 1) ∧
      (∀ l, l < x.arch.st.length → laneOn b.active l = true → t0.entered l = true → t0.depth l = 1 → x.arch.stOf l = .waiting) ∧
      (∀ r, b.txFate x = .commit r → x.chunk.ended = true ∧ t = s.unissued.mapWarp b.wid fun _ => x) ∧
      ((∃ l, l < 32 ∧ t1.runs l = true) → t = s.unissued.mapWarp b.wid fun _ => x)) ∧
  (∀ (a : TxAbortArgs) (s : State) (b : Iss) (t0 : Tx),
    s.issueOf { g := a.g } = some b → b.w.arch.tx = some t0 → b.active ≠ 0 → b.poisonLane { g := a.g } = none →
    (∀ l, laneOn b.active l = true → t0.depth l ≠ 0) →
    (∃ m, m < 32 ∧ t0.runs m = true ∧ laneOn b.lanes m = false) →
    ∃ x t1, exec (.txabort a) s = .next (s.unissued.mapWarp b.wid fun _ => x) ∧ x.arch = { b.w.arch with tx := some t1 } ∧
      x.chunk = b.w.chunk ∧ t1.fallback = t0.fallback ∧ ∀ l, l < 32 → laneOn b.lanes l = true → t1.stopped l = true) ∧
  (∀ (a : TxAbortArgs) (s : State) (b : Iss) (t0 : Tx) (e : TxLane),
    s.issueOf { g := a.g } = some b → b.w.arch.tx = some t0 → b.active ≠ 0 → b.poisonLane { g := a.g } = none →
    t0.lanes = [e] → e.lane < 32 → e.trace = [] → e.entered = true → e.depth ≠ 0 → b.lanes = laneBit e.lane →
    b.w.arch.ready = b.lanes →
    ∃ t x, exec (.txabort a) s = .next t ∧ t.warp? b.wid = some x ∧ SameBytes s t ∧
      x.arch.v = b.w.chunk.start.v ∧ x.arch.s = b.w.chunk.start.s ∧ x.arch.p = b.w.chunk.start.p ∧
      x.arch.h = b.w.chunk.start.h ∧ x.arch.flags = b.w.chunk.start.flags ∧ x.arch.tx = none ∧
      x.arch.txCause.toNat % 16 = 2 ∧ x.arch.txCause.toNat / 2 ^ 8 % 2 ^ 8 = a.code.toNat ∧
      (e.lane < b.w.chunk.start.pc.length → e.lane < b.w.chunk.start.st.length →
        x.arch.pcOf e.lane = t0.fallback ∧ x.arch.stOf e.lane = .ready) ∧
      x.chunk.writes = [] ∧ x.chunk.queued = []) ∧
  (∀ (a : OffArgs) (s : State) (b : Iss) (t0 : Tx) (e : TxLane),
    let k : Kind := { g := a.g, endsBefore := true }
    s.issueOf k = some b → b.w.arch.tx = some t0 → b.active ≠ 0 → b.poisonLane k = none →
    t0.lanes = [e] → e.lane < 32 → e.trace = [] → e.entered = true → 7 ≤ e.depth → b.lanes = laneBit e.lane →
    b.w.arch.ready = b.lanes →
    ∃ t x, exec (.txbegin a) s = .next t ∧ t.warp? b.wid = some x ∧ SameBytes s t ∧ x.arch.v = b.w.chunk.start.v ∧
      x.arch.s = b.w.chunk.start.s ∧ x.arch.tx = none ∧ x.arch.txCause.toNat % 16 = 4) ∧
  (∀ (s : State) (w : WarpId) (x : Warp) (t0 : Tx) (cause code depth : Nat), s.warp? w = some x → x.arch.tx = some t0 →
    cause < 16 → code < 256 →
    ∃ y, (s.meetFate w (.stop (.abort cause code) depth)).warp? w = some y ∧
      SameBytes s (s.meetFate w (.stop (.abort cause code) depth)) ∧ y.arch.v = x.chunk.start.v ∧ y.arch.s = x.chunk.start.s ∧
      y.arch.p = x.chunk.start.p ∧ y.arch.h = x.chunk.start.h ∧ y.arch.flags = x.chunk.start.flags ∧ y.arch.tx = none ∧
      y.arch.txCause.toNat % 16 = cause ∧ y.arch.txCause.toNat / 2 ^ 8 % 2 ^ 8 = code ∧
      y.arch.txCause.toNat / 2 ^ 16 = min depth 7 ∧ y.chunk.writes = [] ∧ y.chunk.queued = [] ∧
      ∀ l, l < 32 → t0.entered l = true → l < x.chunk.start.pc.length → l < x.chunk.start.st.length →
        y.arch.pcOf l = t0.fallback ∧ y.arch.stOf l = .ready)

/-- R42, R46, R260 to R262: BRA, JMP, BRX, CALL and CALLR move the active lanes to their targets, the others to the next word;
BRX loads the table words of its lanes in ascending order, each lane by its own index; CALL and CALLR first push as R256 says. -/
def Obligations.Branches : Prop :=
  (∀ a : OffArgs, Does (.bra a) { g := a.g, branch := true } (fun _ => True)
    fun b x => x.arch.follows (b.moved.setPc b.active fun _ => wrapInt 64 (b.pc + 8 + 8 * a.imm.toInt)) ∧ SameChunk b x) ∧
  (∀ a : RegArgs, Does (.jmp a) { g := a.g, srcs := [(a.r, 2)], branch := true }
    (fun b => ∀ l, laneOn b.active l = true → b.val a.r l 2 % 8 = 0)
    fun b x => x.arch.follows (b.moved.setPc b.active fun l => b.val a.r l 2) ∧ SameChunk b x) ∧
  (∀ (a : BrxArgs) (s : State) (b j : Iss) (l : Nat) (xs : List Loc),
    let k : Kind := { g := a.g, srcs := [(a.a, 1), (a.b, 2)], branch := true }
    s.issueOf k = some b → b.runs k = true → b.first → b.oneAccess a.a.isS l → (b.reg a.a l).toNat < a.n.toNat →
    (∀ m, laneOn b.active m = true → (b.reg a.a m).toNat < a.n.toNat) →
    b.advance.device l (ea64 (b.val a.b l 2) (4 * (b.reg a.a l).toNat : Nat)) 4 false .read = .ok (j, xs) → j.readable xs →
    ∃ t x, exec (.brx a) s = .next t ∧ t.warp? b.wid = some x ∧ SameBytes s t ∧ x.chunk.writes = b.w.chunk.writes ∧
      x.arch.follows (b.moved.setPc b.active fun _ =>
        wordTarget b.pc (BitVec.ofNat 32 (leNat (xs.map fun y => s.view b.w.chunk y))))) ∧
  (∀ (a : BrxArgs) (s : State) (b i : Iss) (ws : List (Nat × List Loc)),
    let k : Kind := { g := a.g, srcs := [(a.a, 1), (a.b, 2)], branch := true }
    let lanes := b.accessLanes a.a.isS
    s.issueOf k = some b → b.runs k = true → b.first → (∀ m, laneOn b.active m = true → (b.reg a.a m).toNat < a.n.toNat) →
    b.advance.tableWords a lanes = .ok (i, ws) →
    ws.map (·.1) = lanes ∧ lanes.Pairwise (fun m n => m < n) ∧
    ∃ t x, exec (.brx a) s = .next t ∧ t.warp? b.wid = some x ∧ SameBytes s t ∧ x.chunk.writes = b.w.chunk.writes ∧
      x.arch.follows (b.moved.setPc b.active fun l =>
        let xs := (getKey (if a.a.isS then b.lane else l) ws).getD []
        wordTarget b.pc (BitVec.ofNat 32 (leNat (xs.map fun y => s.view b.w.chunk y))))) ∧
  (∀ (a : OffArgs) (st : List RetEntry),
    Does (.call a) { g := a.g } (fun b => (pushRet ((b.pc + 8) % 2 ^ 64) b.active b.w.arch.rstack).map (·.1) = some st)
      fun b x => x.arch.follows { b.moved.setPc b.active (fun _ => wrapInt 64 (b.pc + 8 + 8 * a.imm.toInt)) with rstack := st } ∧
        SameChunk b x) ∧
  (∀ (a : RegArgs) (st : List RetEntry),
    Does (.callr a) { g := a.g, srcs := [(a.r, 2)], branch := true }
      (fun b => (pushRet ((b.pc + 8) % 2 ^ 64) b.active b.w.arch.rstack).map (·.1) = some st ∧
        ∀ l, laneOn b.active l = true → b.val a.r l 2 % 8 = 0)
      fun b x => x.arch.follows { b.moved.setPc b.active (fun l => b.val a.r l 2) with rstack := st } ∧ SameChunk b x)

/-- R256: CALL's push merges into a top entry of the same address whose mask is disjoint, else pushes below 32 entries, and fails
on a full stack.
R257: RET sends each active lane to the address of the topmost entry that holds it, or to its own target in the register
form; the active lanes leave those entries (`popRet`), and no entry keeps an empty mask. -/
def Obligations.Returns : Prop :=
  (∀ r m, pushRet r m [] = some ([{ addr := r, mask := m }], .ret 0)) ∧
  (∀ r m e st, e.addr = r → e.mask &&& m = 0 → (pushRet r m (e :: st)).map (·.1) = some ({ e with mask := e.mask ||| m } :: st)) ∧
  (∀ r m e st, e.addr ≠ r ∨ e.mask &&& m ≠ 0 → (e :: st).length < 32 →
    (pushRet r m (e :: st)).map (·.1) = some ({ addr := r, mask := m } :: e :: st)) ∧
  (∀ r m e st, e.addr ≠ r ∨ e.mask &&& m ≠ 0 → (e :: st).length = 32 → pushRet r m (e :: st) = none) ∧
  (∀ a : RegBitArgs,
    let target (b : Iss) (l : Nat) : Nat :=
      if a.bit then b.val a.r l 2 else match b.w.arch.rstack.find? fun e => laneOn e.mask l with | some e => e.addr | none => 0
    Does (.ret a) { g := a.g, srcs := if a.bit then [(a.r, 2)] else [] }
      (fun b => ∀ l, laneOn b.active l = true → (∃ e ∈ b.w.arch.rstack, laneOn e.mask l = true) ∧
        (a.bit = true → b.val a.r l 2 % 8 = 0))
      fun b x => x.arch.follows { b.moved.setPc b.active (target b) with rstack := popRet b.w.arch.rstack b.active } ∧
        SameChunk b x ∧ (∀ e ∈ x.arch.rstack, e.mask ≠ 0))

/-- R255, R263, R264: EXIT ends its chunk, whose commit its active lanes leave; WSYNC's active lanes inside the mask wait unless
every lane of the mask that has not exited then waits there, when all go on together. -/
def Obligations.ExitAndWsync : Prop :=
  (∀ g, Does (.exit g) { g := g, endsAfter := true, forbidden := true } (fun _ => True)
    fun b x => x.arch.follows b.moved ∧ SameChunk b x ∧ x.chunk.ended = true ∧
      x.chunk.exiting = b.w.chunk.exiting ||| b.active) ∧
  (∀ (a : RegBitArgs) (m : LaneMask), Does (.wsync a) { g := a.g, srcs := if a.bit then [] else [(a.r, 1)] }
    (fun b => m = (if a.bit then ~~~(0 : LaneMask) else b.reg a.r 0) ∧ b.active &&& m = 0)
    fun b x => x.arch.follows b.moved ∧ SameChunk b x) ∧
  (∀ (a : RegBitArgs) (m : LaneMask), Does (.wsync a) { g := a.g, srcs := if a.bit then [] else [(a.r, 1)] }
    (fun b => m = (if a.bit then ~~~(0 : LaneMask) else b.reg a.r 0) ∧ b.w.arch.waits = [] ∧
      b.w.arch.pc.length = 32 ∧ b.w.arch.st.length = 32 ∧ b.active &&& m ≠ 0 ∧ (∀ l, laneOn b.active l = true → b.w.arch.stOf l = .ready))
    fun b x => SameChunk b x ∧ x.arch.v = b.w.arch.v ∧ x.arch.s = b.w.arch.s ∧
      ∀ l, laneOn (b.active &&& m) l = true →
        if m &&& b.w.arch.live &&& ~~~b.active = 0 then x.arch.stOf l = .ready ∧ x.arch.pcOf l = b.next
        else x.arch.stOf l = .waiting ∧ x.arch.pcOf l = b.pc)

/-- R190, R227, R254, R269, R302, R303: SETTLE, BEAT, SLEEP, DEPDONE and YDONE put the lanes of their issue into their wait; a
SLEEP 0, a second DEPDONE, and a YDONE outside a yield handler go on at once. -/
def Obligations.WaitingInstructions : Prop :=
  (∀ g, Does (.settle g) { g := g, endsBefore := true, forbidden := true } (fun _ => True)
    fun b x => x.arch.follows (b.waits b.lanes (.settle (b.s.opsOf b.wid) (b.s.arrivalsOf b.wid))) ∧ SameChunk b x) ∧
  (∀ g, Does (.beat g) { g := g, endsBefore := true, forbidden := true } (fun _ => True)
    fun b x => x.arch.follows (b.waits b.lanes (.beat (b.s.beatOf b.ctx))) ∧ SameChunk b x) ∧
  (∀ a : OffArgs, Does (.sleep a) { g := a.g, endsBefore := true, forbidden := true } (fun _ => a.imm = 0)
    fun b x => x.arch.follows b.moved ∧ SameChunk b x) ∧
  (∀ a : OffArgs, Does (.sleep a) { g := a.g, endsBefore := true, forbidden := true } (fun _ => a.imm ≠ 0)
    fun b x => SameChunk b x ∧ x.arch.follows (b.waits b.lanes
      (if b.repro then .sleep (b.s.beatOf b.ctx + (a.imm.toNat + 1023) / 1024) true else .sleep (b.s.cycle + a.imm.toNat) false))) ∧
  (∀ g, Does (.depdone g) { g := g, endsBefore := true, forbidden := true } (fun _ => True)
    fun b x => SameChunk b x ∧ x.arch.follows (if b.w.depArrived then b.moved
      else b.waits b.lanes (.depdone (b.s.opsOf b.wid) (b.s.arrivalsOf b.wid)))) ∧
  (∀ g, Does (.ydone g) { g := g, endsBefore := true, forbidden := true } (fun _ => True)
    fun b x => SameChunk b x ∧ x.arch.follows (if b.w.arch.yrec.isNone then b.moved
      else b.waits b.lanes (.ydone (b.s.opsOf b.wid) (b.s.arrivalsOf b.wid))))

/-- R101, R190, R229, R242, R245, R254, R264, R266, R269, R302, R303, R333, R348, R382: when each wait ends, and what its
instruction then still does: SETTLE, DEPDONE and YDONE as their operations have settled, BEAT and SLEEP at their beat, AWAIT at
its generation, HWAIT and HTEST as their operation ends, BARW and BAR at the next phase, where a BARA or BAR that met its own
bit now arrives, STEPEND once no run is over its region, SCRUB once the context is clean, BRK at the resume, WSYNC as its lanes
have met, and TXEND at the commit. What of it the manual leaves open is the model's choice: logs 32 and 45. -/
def Obligations.WaitsEnd : Prop :=
  (∀ (s : State) (id : WarpId) (l : Launch) (w : Wait), s.launch? id.launch = some l →
    let settled (ops recs : List Nat) : Prop :=
      (∀ o ∈ s.ops, o.num ∉ ops) ∧ ∀ n ∈ recs, ∀ r, l.rec? n = some r → r.state ≠ .pending
    (∀ ops recs, w.kind = .settle ops recs → settled ops recs → WaitEnds s id w fun a => a) ∧
    (∀ tick, w.kind = .beat tick → tick < s.beatOf l.ctx → s.beatClear l.ctx tick = true → WaitEnds s id w fun a => a) ∧
    (∀ x gen, w.kind = .word x gen → (∀ k, k < 8 → s.isPoisoned (x.plus k) = false) →
      leNat (s.bytesAt x 8) / 2 ^ 48 % 2 ^ 16 ≠ gen → WaitEnds s id w fun a => a) ∧
    (∀ d, w.kind = .sleep d true → d ≤ s.beatOf l.ctx → WaitEnds s id w fun a => a) ∧
    (∀ ops recs, w.kind = .depdone ops recs → settled ops recs → s.firm id w → (WaitEnds s id w fun a => a) ∧
      ∀ x, s.waitsAt id w x → ∃ y, (s.wakeWait id w).warp? id = some y ∧ y.depArrived = true) ∧
    (∀ ops recs, w.kind = .ydone ops recs → settled ops recs → s.firm id w →
      (s.phaseOf l.ctx ≠ .yielding → WaitEnds s id w fun a => a) ∧
      (s.phaseOf l.ctx = .yielding → ∀ x, s.waitsAt id w x → (s.wakeWait id w).warp? id = some { x with ydone := true })) ∧
    (∀ r h pd test, w.kind = .handle r h pd test → (∀ x, s.warp? id = some x → x.arch.h.getD h none = some r) →
      l.handleState r ≠ .pending → ¬(l.handleState r = .failed ∧ pd = none ∧ test = false) →
      WaitEnds s id w fun (a : Arch) =>
        let z := match pd with
          | some p => a.setPred p w.active fun _ => test || l.handleState r == HState.done
          | none => a
        { z with flags := if (l.handleState r = HState.done ∨ l.handleState r = HState.failed) ∧ r.num ∉ a.merged
                          then a.flags ||| (l.recFlags id r.num).setWidth 32 else a.flags })) ∧
  (∀ (s : State) (id : WarpId) (l : Launch) (g : Group) (w : Wait) (lv : Level) (n phase : Nat), s.launch? id.launch = some l →
    l.group? id.group = some g →
    let b := s.barrier id.launch id.group lv n
    let bit := match lv with | .core => id.warp | _ => id.group * 32 + id.warp
    b.phase ≠ phase →
    (w.kind = .barWait lv n phase → WaitEnds s id w fun a => a) ∧
    (∀ cnt again, w.kind = .barArrive lv n cnt phase again → s.firm id w → bit ∉ b.arrived →
      (lv = .core → n < g.bars.length) → (lv = .pkg → n < l.pkgBars.length) →
      (s.wakeWait id w).barrier id.launch id.group lv n = b.arrive bit cnt ∧
      (again = false → WaitEnds s id w fun a => a) ∧
      (again = true → ∀ x, s.waitsAt id w x → ∃ y, (s.wakeWait id w).warp? id = some y ∧ y.arch.st = x.arch.st ∧
        { w with kind := .barWait lv n b.phase } ∈ y.arch.waits)) ∧
    (∀ cnt again, w.kind = .barArrive lv n cnt phase again → s.firm id w → bit ∈ b.arrived → ∀ x, s.waitsAt id w x →
      ∃ y, (s.wakeWait id w).warp? id = some y ∧ y.arch.st = x.arch.st ∧
        { w with kind := .barArrive lv n cnt b.phase again } ∈ y.arch.waits)) ∧
  (∀ (s : State) (id : WarpId) (l : Launch) (w : Wait) (n pd : Nat) (flag : Word) (r : Region), s.launch? id.launch = some l →
    w.kind = .stepend n flag pd → s.firm id w → getKey n (s.part l.ctx.part).regions = some r → l.ctx.part < s.parts.length →
    s.stepWaits l.ctx r flag = false →
    let keeps := (flag == 0) && !r.fail
    (WaitEnds s id w fun a => a.setPred pd w.active fun _ => r.open_ && keeps) ∧
      getKey n ((s.wakeWait id w).part l.ctx.part).regions =
        some (if r.open_ then { r with open_ := false, cur := if keeps then !r.cur else r.cur } else r)) ∧
  (∀ (s : State) (id : WarpId) (l : Launch) (w : Wait) (c : CtxKey) (d : Nat), s.launch? id.launch = some l →
    w.kind = .scrub c d → s.firm id w → d < 32 → (∀ y, s.context? c = some y → y.scrubbing = false) →
    WaitEnds s id w fun a => a.setReg (.s (fin32 d)) 0 0) ∧
  (∀ (x : Warp) (w : Wait), w ∈ x.arch.waits → w.kind = .brk → x.arch.pc.length = 32 → x.arch.st.length = 32 →
    (∀ z ∈ x.arch.waits, z ≠ w → z.kind ≠ .brk) →
    LanesGo x.arch x.resumeBrk.arch w ∧ x.resumeBrk.arch.v = x.arch.v ∧ x.resumeBrk.arch.s = x.arch.s) ∧
  (∀ (a : Arch) (w : Wait) (m : LaneMask), a.waits = [w] → w.kind = .wsync m → w.lanes ≠ 0 → w.lanes &&& ~~~m = 0 → a.tx = none →
    a.pc.length = 32 → a.st.length = 32 → (∀ l, laneOn m l = true → laneOn w.lanes l = true ∨ a.stOf l = .exited) →
    LanesGo a a.wsyncRelease w) ∧
  (∀ (a start : Arch) (t : Tx) (w : Wait), w ∈ a.waits → w.kind = .txend → a.pc.length = 32 → a.st.length = 32 →
    (∀ z ∈ a.waits, z ≠ w → z.kind ≠ .txend) →
    LanesGo a (a.txMerge start t) w ∧ (a.txMerge start t).v = a.v ∧ (a.txMerge start t).s = a.s ∧ (a.txMerge start t).tx = none)

/-- R266: BARA and BAR arrive once, setting the warp's bit, and BAR then waits for the phase; where the bit is set already, their
lanes wait for the phase; BARW waits where the bit is set and goes on where it is clear.
R266: a core barrier's phase without a count completes exactly when some warp that has not ended has arrived, and all have. -/
def Obligations.BarrierInstructions : Prop :=
  (∀ a : BarArgs,
    let k : Kind :=
      { g := a.g, srcs := if a.cnt then [(a.a, 1)] else [], check := fun l _ => BarArgs.legal a l, endsBefore := true, forbidden := true }
    let here (s : State) (b : Iss) : Barrier := s.barrier b.wid.launch b.wid.group a.lv a.id.val
    let bit (b : Iss) : Nat := match a.lv with | .core => b.wid.warp | _ => b.wid.group * 32 + b.wid.warp
    let cnt (b : Iss) : Option Nat := if a.cnt then some ((b.reg a.a 0).toNat % 64) else none
    DoesBeyond (.bara a) k (fun b => BarPlaced a b ∧ bit b ∉ (here b.s b).arrived)
      (fun b t x => SameBytes b.s t ∧ x.arch.follows b.moved ∧ here t b = (here b.s b).arrive (bit b) (cnt b) ∧
        bit b ∈ (here t b).arrived ∧ (here t b).phase = (here b.s b).phase) ∧
    DoesBeyond (.bar a) k (fun b => BarPlaced a b ∧ bit b ∉ (here b.s b).arrived)
      (fun b t x => SameBytes b.s t ∧ x.arch.follows (b.waits b.lanes (.barWait a.lv a.id.val (here b.s b).phase)) ∧
        here t b = (here b.s b).arrive (bit b) (cnt b)) ∧
    Does (.bara a) k (fun b => bit b ∈ (here b.s b).arrived)
      (fun b x => x.arch.follows (b.waits b.lanes (.barArrive a.lv a.id.val (cnt b) (here b.s b).phase false))) ∧
    Does (.bar a) k (fun b => bit b ∈ (here b.s b).arrived)
      (fun b x => x.arch.follows (b.waits b.lanes (.barArrive a.lv a.id.val (cnt b) (here b.s b).phase true))) ∧
    Does (.barw a) k (fun b => bit b ∈ (here b.s b).arrived)
      (fun b x => x.arch.follows (b.waits b.lanes (.barWait a.lv a.id.val (here b.s b).phase))) ∧
    Does (.barw a) k (fun b => bit b ∉ (here b.s b).arrived) (fun b x => x.arch.follows b.moved)) ∧
  (∀ (b : Barrier) (g : Group), b.least = none →
    (b.coreDone g = true ↔
      (∃ n w, g.warps[n]? = some w ∧ w.ended = false ∧ n ∈ b.arrived) ∧
      ∀ n w, g.warps[n]? = some w → w.ended = false → n ∈ b.arrived))

/-! ### Class S and the firmware's instructions -/

/-- R301: LAUNCH reads LOGCAP, TAIL and HEAD; with room it raises TAIL in the chunk, queues the notify, and answers the queue's
index and the entry's number; on a full queue it answers all ones and writes nothing. -/
def Obligations.LaunchInstruction : Prop :=
  ∀ (a : TwoRegArgs) (s : State) (b j1 j2 j3 : Iss) (cap tail head : Nat) (q : Queue),
    let k : Kind := { g := a.g, srcs := [(a.a, 2)], dsts := [(a.d, 1)], once := true }
    let h := b.val a.a 0 2
    s.issueOf k = some b → b.runs k = true → b.first → a.d.isS = true →
    b.advance.loadWord (h + 8) = .ok (j1, cap) → j1.loadWord (h + 16) = .ok (j2, tail) → j2.loadWord (h + 24) = .ok (j3, head) →
    (j3.s.queues.find? fun q => q.ctx == b.ctx && q.header == h) = some q →
    (2 ^ (cap % 256) ≤ (tail + 2 ^ 64 - head) % 2 ^ 64 →
      ∃ t x, exec (.launch a) s = .next t ∧ t.warp? b.wid = some x ∧ SameBytes s t ∧ SameChunk b x ∧
        x.arch.follows (let z := b.moved.setReg a.d 0 (BitVec.ofNat 32 (2 ^ 32 - 1))
                        { z with poison := clearPoison (regItems a.d 1) b.active z.poison })) ∧
    (∀ j4 xs, (tail + 2 ^ 64 - head) % 2 ^ 64 < 2 ^ (cap % 256) → j3.headerWord (h + 16) .write = .ok (j4, xs) →
      ∃ t x, exec (.launch a) s = .next t ∧ t.warp? b.wid = some x ∧ SameBytes s t ∧
        x.arch.follows (let z := b.moved.setReg a.d 0 (BitVec.ofNat 32 (q.key.idx * 2 ^ 24 + tail % 2 ^ 24))
                        { z with poison := clearPoison (regItems a.d 1) b.active z.poison }) ∧
        (∀ (m : Nat) (y : Loc), xs[m]? = some y → getKey y x.chunk.writes = (leBytes 8 ((tail + 1) % 2 ^ 64))[m]?) ∧
        (∀ y, y ∉ xs → getKey y x.chunk.writes = getKey y b.w.chunk.writes) ∧
        x.chunk.queued = b.w.chunk.queued ++ [.notify q.key ((tail + 1) % 2 ^ 64)])

/-- R77 to R80, R336, R347, R348: TRAP, and BRK of a launch that is not debugged, raise USER_TRAP with the code in the
instruction; an illegal encoding raises ILLEGAL_INSTR with a zero lane, whatever its guard; CTLRD and SCRUB outside the
firmware context raise PROTECTION. R348: BRK of a debugged launch puts its lanes into a wait, ends the chunk, and marks it
to halt the context at its commit. What of it the manual leaves open is the model's choice: log 18. -/
def Obligations.TrapsAndIllegals : Prop :=
  (∀ a : OffArgs, TakesFault (.trap a) { g := a.g } (fun _ => True)
    fun b => { code := .userTrap, lane := b.lane, warp := b.wid.warp, group := b.wid.group, pc := b.pc, addr := 0, ucode := a.imm }) ∧
  (∀ a : OffArgs, TakesFault (.brk a) { g := a.g, endsAfter := true } (fun b => b.l.debug = false)
    fun b => { code := .userTrap, lane := b.lane, warp := b.wid.warp, group := b.wid.group, pc := b.pc, addr := 0, ucode := a.imm }) ∧
  (∀ (why : IllegalReason) (s : State) (b : Iss), s.issueOf { g := { p := 7, neg := false } } = some b →
    b.l.fault = none → b.l.saveInvalid = false → b.repro = false →
    ∃ t l, exec (.illegalEncodingIssue why) s = .next t ∧ t.launch? b.wid.launch = some l ∧ SameBytes s t ∧
      l.fault = some { code := .illegalInstr, lane := 0, warp := b.wid.warp, group := b.wid.group, pc := b.pc, addr := 0, ucode := 0 }) ∧
  (∀ (a : TwoRegArgs) (s : State) (b : Iss) (ctlrd : Bool),
    s.issueOf (sysKind a.g [(a.a, 1)] [(a.d, if ctlrd then 2 else 1)]) = some b → regWithin b.l.fields.regs a.d (if ctlrd then 2 else 1) = true →
    regWithin b.l.fields.regs a.a 1 = true → b.ctx.fw = false → b.repro = false → b.l.fault = none → b.l.saveInvalid = false →
    ∃ t l, exec (if ctlrd then .ctlrd a else .scrub a) s = .next t ∧ t.launch? b.wid.launch = some l ∧ SameBytes s t ∧
      l.fault.map (·.code) = some .protection) ∧
  (∀ a : OffArgs, Does (.brk a) { g := a.g, endsAfter := true } (fun b => b.l.debug = true)
    fun b x => x.arch.follows (b.waits b.lanes .brk) ∧ x.chunk.ended = true ∧ x.chunk.halt = some (b.pc, a.imm) ∧ SameChunk b x)

/-- R337 to R340: what the firmware's instructions do in the firmware context, between chunks: CTLRD reads the control word,
CTLWR writes it and reports whether it was taken, AUDIT appends an entry of 128 bytes, has the Roll's head signed and answers the
entry's number, SCRUB starts the scrub of a context that has no launch, which stands while the context has pages, and waits for
it, or says why there is none. What of it the manual leaves open is the model's choice: log 21. -/
def Obligations.FirmwareInstructions : Prop :=
  (∀ a : TwoRegArgs, let k : Kind := { g := a.g, srcs := [(a.a, 1)], dsts := [(a.d, 2)], firmware := true, endsBefore := true, forbidden := true }
    Does (.ctlrd a) k (fun b => (b.reg a.a 0).toNat % 8 = 0 ∧ (b.reg a.a 0).toNat < 0x2000000)
      fun b x => SameChunk b x ∧ x.arch.follows
        (let z := b.moved.setLanes a.d 2 b.active fun _ => b.s.control (b.reg a.a 0).toNat
         { z with poison := clearPoison (regItems a.d 2) b.active z.poison })) ∧
  (∀ (a : CtlwrArgs) (s : State) (b : Iss),
    let k : Kind := { g := a.g, srcs := [(a.a, 1), (a.b, 2)], firmware := true, endsBefore := true, forbidden := true }
    let r := s.unissued.controlWrite (some b.wid) (b.reg a.a 0).toNat (b.val a.b 0 2)
    s.issueOf k = some b → b.runs k = true → (b.reg a.a 0).toNat % 8 = 0 → (b.reg a.a 0).toNat < 0x2000000 →
    (r.1.warp? b.wid).isSome = true → s.unissued.writeHeld (b.reg a.a 0).toNat (b.val a.b 0 2) = false →
    ∃ x, exec (.ctlwr a) s = .next (r.1.mapWarp b.wid fun _ => x) ∧ x.chunk.writes = b.w.chunk.writes ∧
      x.arch.v = b.w.arch.v ∧ x.arch.s = b.w.arch.s ∧
      (a.pw = true → x.arch.p = (b.w.arch.setPred a.pd.val b.active fun _ => r.2).p) ∧ (a.pw = false → x.arch.p = b.w.arch.p)) ∧
  (∀ (a : ThreeRegArgs) (s : State) (b j : Iss) (xs : List Loc),
    let k : Kind := { g := a.g, srcs := [(a.a, 2), (a.b, 1)], dsts := [(a.d, 2)], firmware := true, endsBefore := true, forbidden := true }
    let type := (b.reg a.b 0).toNat % 2 ^ 16
    let body := leBytes 128 (leNat (xs.map fun y => s.view b.w.chunk y))
    s.issueOf k = some b → b.runs k = true → 0x8000 ≤ type → s.rollFree ≠ 0 →
    Iss.device { b.advance with irrev := true } b.lane (b.val a.a 0 2) 128 false .read = .ok (j, xs) → j.readable xs →
    ∃ t x e ks, exec (.audit a) s = .next t ∧ t.warp? b.wid = some x ∧ SameBytes s t ∧ t.roll = s.roll ++ e :: ks ∧
      (if s.rollFree = 1 then ks = [] ∧ t.auditSig = []
       else (∃ y, ks = [y] ∧ y.type = 6 ∧ y.src = 0) ∧ t.auditSig = Config.signature (leBytes 8 s.roll.length ++ e.hash)) ∧
      e.type = type ∧ e.src = 1 ∧ e.ctxid = 0x400 ∧ e.body = body ∧ e.beat = s.beat ∧ x.chunk.writes = b.w.chunk.writes ∧
      x.arch.follows (let z := b.moved.setLanes a.d 2 b.active fun _ => s.roll.length
                      { z with poison := clearPoison (regItems a.d 2) b.active z.poison })) ∧
  (∀ (a : TwoRegArgs) (s : State) (b : Iss) (c : Context),
    let k : Kind := { g := a.g, srcs := [(a.a, 1)], dsts := [(a.d, 1)], firmware := true, endsBefore := true, forbidden := true }
    let id := (b.reg a.a 0).toNat % 2 ^ 11
    s.issueOf k = some b → b.runs k = true → id < 1024 → s.context? (ctxOfId id) = some c → c.scrubbing = false →
    s.hasLaunch (ctxOfId id) = false → s.rollFree ≠ 0 → s.memOk = true →
    ∃ t x, exec (.scrub a) s = .next t ∧ t.warp? b.wid = some x ∧
      (s.ctxPages (ctxOfId id) ≠ [] → ∀ c', t.context? (ctxOfId id) = some c' → c'.scrubbing = true) ∧
      x.arch.follows (b.waits b.lanes (.scrub (ctxOfId id) a.d.num))) ∧
  (∀ a : TwoRegArgs,
    let k : Kind := { g := a.g, srcs := [(a.a, 1)], dsts := [(a.d, 1)], firmware := true, endsBefore := true, forbidden := true }
    let id (b : Iss) : Nat := (b.reg a.a 0).toNat % 2 ^ 11
    let why (b : Iss) : Nat :=
      match if id b < 1024 then b.s.context? (ctxOfId (id b)) else none with
      | none => 2
      | some c => if c.scrubbing then 0 else if b.s.hasLaunch (ctxOfId (id b)) then 1 else if b.s.rollFree = 0 then 3 else 0
    Does (.scrub a) k (fun b => why b ≠ 0) fun b x => SameChunk b x ∧ x.arch.follows
      (let z := b.moved.setLanes a.d 1 b.active fun _ => why b
       { z with poison := clearPoison (regItems a.d 1) b.active z.poison }))

/-! ### Classes A and T -/

/-- R233 to R236: a COPY whose operands pass the checks of R235 completes at once: its handle names a new operation, and the
command is queued for the chunk's commit.
R235: a COPY of no bytes, of more than 2^24 bytes in a row, or of no or more than 65,536 rows is not of a legal size. -/
def Obligations.CopyIssues : Prop :=
  (∀ a : CopyArgs,
    let srcs := [(a.sa, if a.ssp then 1 else 2), (a.da, if a.dsp then 1 else 2), (a.gr, 2)]
      ++ ([a.pr, a.ra].filter Reg.isS).map (fun r => (r, 2)) ++ ([a.aw].filter Reg.isS).map (fun r => (r, 1))
    Does (.copy a) { g := a.g, size := 16, srcs := srcs, forbidden := true }
      (fun b => let c := CopyArgs.command a b
        b.s.hasCopyEngine b.ctx b.core = true ∧ c.aligned = true ∧ c.badColumn b.s b.ctx.part = false ∧ c.sizesOk = true ∧
          c.within b.l.portion = true ∧ c.pageCount ≤ 4096)
      (fun b x => x.arch.follows (b.named a.h.val b.nextOp) ∧ x.chunk.writes = b.w.chunk.writes ∧
        x.chunk.queued = b.w.chunk.queued ++ [.copy (CopyArgs.command a b) b.nextOp b.pc b.lane])) ∧
  (∀ c : CopyOp, c.sizesOk = true ↔
    0 < c.rowBytes ∧ c.rowBytes ≤ 2 ^ 24 ∧
      (if c.xf = 6 then 0 < c.outLen ∧ c.outLen ≤ 2 ^ 24 else 0 < c.rows ∧ c.rows ≤ 65536))

/-- R101, R242: HWAIT and HTEST on an operation that has ended go on at once at the next word, merging its flags at the first such
instruction and no later, and write their predicate; a pending one makes HWAIT wait, and in free mode HTEST goes on at once with its
predicate clear. That a predicate which some lanes do not write stays poisoned is the model's choice: log 54. -/
def Obligations.HandleWaits : Prop :=
  (∀ (h : Fin 16) (g : Guard) (pd : Option Nat) (test : Bool) (ins : Instr) (r : HReg),
    (∃ a : HwaitArgs, test = false ∧ ins = .hwait a ∧ a.h = h ∧ a.g = g ∧ pd = if a.pw then some a.pd.p.val else none) ∨
      (∃ a : HtestArgs, test = true ∧ ins = .htest a ∧ a.h = h ∧ a.g = g ∧ pd = some a.pd.val) →
    let k : Kind := { g := g, reads := [.h h.val], forbidden := true }
    let held (b : Iss) : Prop := b.w.arch.h.getD h.val none = some r ∧ Item.h h.val ∉ b.w.chunk.logged
    Does ins k (fun b => held b ∧ b.l.handleState r ≠ .pending ∧ ¬(b.l.handleState r = .failed ∧ pd = none ∧ test = false))
      (fun b x => SameChunk b x ∧ x.arch.follows
        (let z : Arch :=
          if (b.l.handleState r = .done ∨ b.l.handleState r = .failed) ∧ r.num ∉ b.w.arch.merged then
            { b.moved with
              flags := b.w.arch.flags ||| (b.l.recFlags b.wid r.num).setWidth 32, merged := r.num :: b.w.arch.merged }
          else b.moved
         match pd with
         | some p => { z.setPred p b.active (fun _ => test || b.l.handleState r == .done) with
             poison := clearPoison [.p p] b.active z.poison }
         | none => z)) ∧
    Does ins k (fun b => held b ∧ b.l.handleState r = .pending ∧ (test = false ∨ b.repro = true))
      (fun b x => SameChunk b x ∧ x.arch.follows (b.waits b.lanes (.handle r h.val pd test))) ∧
    Does ins k (fun b => held b ∧ b.l.handleState r = .pending ∧ test = true ∧ b.repro = false)
      (fun b x => SameChunk b x ∧ ∀ p, pd = some p → x.arch.follows { b.moved.setPred p b.active (fun _ => false) with
        poison := clearPoison [.p p] b.active b.w.arch.poison }))

/-- R242, R243: HCANCEL and HTOK queue their effect on the record that the handle names, and HTOK writes the record's token;
HADOPT makes the handle name the record of a token that is outstanding; a token is none that another operation of the launch has.
What of it the manual leaves open is the model's choice: log 17. -/
def Obligations.HandleTokens : Prop :=
  (∀ (a : HandleArgs) (r : HReg), Does (.hcancel a) { g := a.g, reads := [.h a.h.val], once := true }
    (fun b => b.w.arch.h.getD a.h.val none = some r)
    (fun b x => x.arch.follows b.moved ∧ x.chunk.writes = b.w.chunk.writes ∧
      x.chunk.queued = b.w.chunk.queued ++ [.cancel a.h.val r.num])) ∧
  (∀ (a : HandleArgs) (r : HReg), Does (.htok a) { g := a.g, reads := [.h a.h.val], dsts := [(a.r, 1)], once := true, onceReg := some a.r }
    (fun b => b.w.arch.h.getD a.h.val none = some r)
    (fun b x => x.arch.follows (b.afterReg a.r 1 fun _ => ((b.newToken r.num).toNat, 0)) ∧ x.chunk.writes = b.w.chunk.writes ∧
      x.chunk.queued = b.w.chunk.queued ++ [.token r.num (b.newToken r.num)])) ∧
  (∀ (a : HandleArgs) (n : Nat), Does (.hadopt a) { g := a.g, srcs := [(a.r, 1)], once := true }
    (fun b => b.tokenRec (b.reg a.r 0) = some n)
    (fun b x => x.chunk.writes = b.w.chunk.writes ∧ x.chunk.queued = b.w.chunk.queued ++ [.adopt n (b.reg a.r 0)] ∧
      x.arch.follows { b.moved with h := b.w.arch.h.set a.h.val (some { num := n }), poison := clearPoison [.h a.h.val] 0 b.w.arch.poison })) ∧
  (∀ (b : Iss) (n : Nat),
    (b.l.recs.flatMap fun r => r.named).length + (b.s.madeTokens b.l).length + b.w.chunk.queued.length < 2 ^ 32 →
    (∀ r ∈ b.l.recs, r.num ≠ n → b.newToken n ∉ r.named) ∧ (∀ p ∈ b.s.madeTokens b.l, p.1 ≠ n → p.2 ≠ b.newToken n) ∧
      ∀ m t, Release.token m t ∈ b.w.chunk.queued → m ≠ n → t ≠ b.newToken n)

/-- R245: AWINIT and ARRIVE write the arrival word in the chunk, from the word as the chunk sees it; AWAIT waits for the phase.
R244, R245: a credit adds bytes to the count; each time the count reaches the threshold (2^23 for a threshold of 0), the
generation goes up by one and the count starts again from what is left. -/
def Obligations.ArrivalWords : Prop :=
  (∀ (a : TwoRegArgs) (init : Bool) (s : State) (b j : Iss) (xs : List Loc),
    let k : Kind := { g := a.g, srcs := [(a.d, 1), (a.a, 1)], once := true }
    let v := (b.reg a.a 0).toNat
    let old := leNat (xs.map fun y => s.view b.w.chunk y)
    let new := if init then awInit old v else awCredit old (v % 2 ^ 23)
    s.issueOf k = some b → b.runs k = true → b.first → (init = true → v / 2 ^ 23 % 2 ^ 8 = 0) →
    b.advance.scratch b.lane (b.reg a.d 0).toNat 8 = .ok (j, xs) → j.readable xs →
    ∃ x, exec (if init then .awinit a else .arrive a) s = .next (s.unissued.mapWarp b.wid fun _ => x) ∧
      x.arch.follows b.moved ∧ x.chunk.queued = b.w.chunk.queued ∧
      (∀ (m : Nat) (y : Loc), xs[m]? = some y → getKey y x.chunk.writes = (leBytes 8 new)[m]?) ∧
      (∀ y, y ∉ xs → getKey y x.chunk.writes = getKey y b.w.chunk.writes)) ∧
  (∀ (a : TwoRegArgs), Does (.await a) { g := a.g, srcs := [(a.d, 1), (a.a, 1)], endsBefore := true, forbidden := true }
    (fun b => (b.reg a.d 0).toNat % 8 = 0 ∧ (b.reg a.d 0).toNat + 8 ≤ b.l.portion ∧
      ∀ n, n < 8 → b.s.isPoisoned { space := .spad b.wid.launch b.wid.group, addr := (b.reg a.d 0).toNat + n } = false)
    (fun b x => SameChunk b x ∧ x.arch.follows (b.waits b.lanes
      (.word { space := .spad b.wid.launch b.wid.group, addr := (b.reg a.d 0).toNat } ((b.reg a.a 0).toNat % 2 ^ 16))))) ∧
  (∀ w n : Nat, w < 2 ^ 64 → n < 2 ^ 23 →
    let t := if w / 2 ^ 24 % 2 ^ 23 = 0 then 2 ^ 23 else w / 2 ^ 24 % 2 ^ 23
    let sum := w % 2 ^ 23 + n
    awCredit w n % 2 ^ 23 = sum % t ∧ awCredit w n / 2 ^ 23 % 2 ^ 25 = w / 2 ^ 23 % 2 ^ 25 ∧
      awCredit w n / 2 ^ 48 % 2 ^ 16 = (w / 2 ^ 48 % 2 ^ 16 + sum / t) % 2 ^ 16)

/-- R371 to R373, R383: NBLOAD of a block that passes its checks, and NBRUN and COLL of a legal descriptor, are queued for
the chunk's commit, the last two with a handle. What of it the manual leaves open is the model's choice: log 36. -/
def Obligations.NearBankIssues : Prop :=
  (∀ (a : TwoRegArgs) (s : State) (b j : Iss) (ws : List Nat) (st : List (Word × Bool)),
    let k : Kind := { g := a.g, srcs := [(a.d, 2), (a.a, 1)], forbidden := true }
    let v := (b.reg a.a 0).toNat
    let off := v % 2 ^ 8
    let len := v / 2 ^ 8 % 2 ^ 9
    s.issueOf k = some b → b.runs k = true → b.first → b.val a.d 0 2 % 4 = 0 → v / 2 ^ 17 = 0 → 0 < len → off + len ≤ 256 →
    b.advance.blockWords (b.val a.d 0 2) len = .ok (j, ws) → nbCheck off ws = some st →
    ∃ t x, exec (.nbload a) s = .next t ∧ t.warp? b.wid = some x ∧ SameBytes s t ∧ x.arch.follows b.moved ∧
      x.chunk.writes = b.w.chunk.writes ∧ x.chunk.queued = b.w.chunk.queued ++ [.nbload off st]) ∧
  (∀ (a : HandleArgs) (s : State) (b j : Iss) (d : Nat),
    let k : Kind := { g := a.g, srcs := [(a.r, 2)], forbidden := true }
    let r := runDesc (b.val a.r 0 2) d
    s.issueOf k = some b → b.runs k = true → b.first → b.advance.block (b.val a.r 0 2) 128 = .ok (j, d) →
    (∀ x ∈ r.bases, x % 2048 = 0) → r.ok d = true → s.canStart b.ctx.part r.entry = true →
    ∃ t x, exec (.nbrun a) s = .next t ∧ t.warp? b.wid = some x ∧ SameBytes s t ∧ x.arch.follows (b.named a.h.val b.nextOp) ∧
      x.chunk.writes = b.w.chunk.writes ∧ x.chunk.queued = b.w.chunk.queued ++ [.run r b.nextOp b.pc b.lane]) ∧
  (∀ (a : HandleArgs) (s : State) (b j : Iss) (d : Nat),
    let k : Kind := { g := a.g, srcs := [(a.r, 2)], forbidden := true }
    let c := collDesc d
    s.issueOf k = some b → b.runs k = true → b.first → b.advance.block (b.val a.r 0 2) 64 = .ok (j, d) →
    c.src % 4 = 0 → c.dst % 4 = 0 → c.result % 8 = 0 → c.ok d s.pkg = true →
    ∃ t x, exec (.coll a) s = .next t ∧ t.warp? b.wid = some x ∧ SameBytes s t ∧ x.arch.follows (b.named a.h.val b.nextOp) ∧
      x.chunk.writes = b.w.chunk.writes ∧ x.chunk.queued = b.w.chunk.queued ++ [.coll c b.nextOp b.pc b.lane])

/-- R381, R382: STEPOPEN of a closed versioned region opens it, with its failure flag and written rows clear, and sets the
predicate; of an open one it clears the predicate and changes nothing else. STEPEND with a zero flag and no failure swaps the
versions and sets the predicate; otherwise it clears the predicate; an open region is closed either way. Neither changes another
region, nor other state of the warp. That a predicate which some lanes do not write stays poisoned is the model's choice: log 54. -/
def Obligations.StepTransactions : Prop :=
  (∀ (a : PAddrArgs) (s : State) (b : Iss) (n : Nat) (r : Region),
    let k : Kind := { g := a.g, srcs := [(a.a, 2)], endsBefore := true, forbidden := true }
    s.issueOf k = some b → b.runs k = true → s.versRegion b.ctx (b.val a.a 0 2) = some (n, r) →
    getKey n (s.part b.ctx.part).regions = some r → b.ctx.part < s.parts.length →
    ∃ t x, exec (.stepopen a) s = .next t ∧ t.warp? b.wid = some x ∧ SameBytes s t ∧ x.chunk.writes = b.w.chunk.writes ∧
      x.arch.follows { b.moved.setPred a.pd.val b.active (fun _ => !r.open_) with
        poison := clearPoison [.p a.pd.val] b.active b.w.arch.poison } ∧
      (∀ m, m ≠ n → getKey m (t.part b.ctx.part).regions = getKey m (s.part b.ctx.part).regions) ∧
      getKey n (t.part b.ctx.part).regions = some (if r.open_ then r else { r with open_ := true, fail := false, written := [] })) ∧
  (∀ (a : PAddrArgs) (s : State) (b : Iss) (n : Nat) (r : Region),
    let k : Kind := { g := a.g, srcs := [(a.a, 2), (a.b, 1)], endsBefore := true, forbidden := true }
    let keeps := (b.reg a.b 0 == 0) && !r.fail
    s.issueOf k = some b → b.runs k = true → s.versRegion b.ctx (b.val a.a 0 2) = some (n, r) →
    getKey n (s.part b.ctx.part).regions = some r → b.ctx.part < s.parts.length →
    b.s.stepWaits b.ctx r (b.reg a.b 0) = false →
    ∃ t x, exec (.stepend a) s = .next t ∧ t.warp? b.wid = some x ∧ x.chunk.writes = b.w.chunk.writes ∧
      x.arch.follows { b.moved.setPred a.pd.val b.active (fun _ => r.open_ && keeps) with
        poison := clearPoison [.p a.pd.val] b.active b.w.arch.poison } ∧
      (∀ m, m ≠ n → getKey m (t.part b.ctx.part).regions = getKey m (s.part b.ctx.part).regions) ∧
      getKey n (t.part b.ctx.part).regions =
        some (if r.open_ then { r with open_ := false, cur := if keeps then !r.cur else r.cur } else r))

/-- R148, R150, R153, R154, R161 to R164: GANG sets the gang mask; MMA, ACCLD and ACCST whose operands are aligned and lie in the
portion name a new operation and queue it with the register values of the issue; ACCZ queues one operation for each named tile.
R165, R166: ACCRD writes, in each active lane, its half row of the tile's accumulators converted with the word's rounding, and the
count word to its s register, and raises the conversions' flags; in free mode at once, and in reproducible mode once no released
operation on the tile is left, until when it passes its turn. -/
def Obligations.TileInstructions : Prop :=
  (∀ a : GangArgs,
    Does (.gang a) { g := a.g, check := fun l w => decide (a.mask.toNat < 2 ^ l.fields.warps) && a.mask.getLsbD w.warp } (fun _ => True)
      (fun b x => SameChunk b x ∧ x.arch.follows { b.moved with gang := a.mask, poison := clearPoison [.gang] 0 b.w.arch.poison })) ∧
  (∀ a : MmaArgs,
    let regs := ([a.ar, a.br, a.sa, a.sb].filter Reg.isS).map fun r => (r, 1)
    let vals (b : Iss) : List Word := [if a.asrc then 0 else b.sval a.ar, b.sval a.br, b.sval a.sa, b.sval a.sb]
    Does (.mma a) { g := a.g, size := 16, srcs := regs, reads := [.gang], forbidden := true
                    check := fun l _ => decide (a.dt.val < l.fields.tiles) && (!a.asrc || decide (a.ar.num < l.fields.tiles)) }
      (fun b => ∀ o ∈ mmaOperands a (vals b), o.base % 16 = 0 ∧ (∀ y, o.scale = some y → y % 2 = 0) ∧
        ∀ r ∈ o.ranges, r.1 + r.2 ≤ b.l.portion)
      (fun b x => x.arch.follows (b.named a.h.val b.nextOp) ∧ x.chunk.writes = b.w.chunk.writes ∧
        x.chunk.queued = b.w.chunk.queued ++
          [.tile { kind := .mma a, vals := vals b, mask := b.w.arch.gang, step := 0, snap := [], tags := [], replays := 0, flags := 0 }
            (some b.nextOp) b.pc b.lane])) ∧
  (∀ a : AcczArgs,
    Does (.accz a) { g := a.g, check := fun l _ => decide (a.mask.toNat < 2 ^ l.fields.tiles), forbidden := true } (fun _ => True)
      (fun b x => x.arch.follows b.moved ∧ x.chunk.writes = b.w.chunk.writes ∧
        x.chunk.queued = b.w.chunk.queued ++ ((upTo 16).filter fun t => a.mask.getLsbD t).map fun t =>
          .tile { kind := .accz a t, vals := [], mask := 0, step := 0, snap := [], tags := [], replays := 0, flags := 0 } none b.pc b.lane)) ∧
  (∀ (a : AccArgs) (st : Bool),
    Does (if st then .accst a else .accld a)
      { g := a.g, srcs := [(a.a, 1)], check := fun l _ => decide (a.tile.val < l.fields.tiles), forbidden := true }
      (fun b => (b.reg a.a 0).toNat % 16 = 0 ∧
        (AccArgs.range a (b.reg a.a 0).toNat).1 + (AccArgs.range a (b.reg a.a 0).toNat).2 ≤ b.l.portion)
      (fun b x => x.arch.follows (b.named a.h.val b.nextOp) ∧ x.chunk.writes = b.w.chunk.writes ∧
        x.chunk.queued = b.w.chunk.queued ++
          [.tile { kind := if st then .accst a else .accld a, vals := [b.reg a.a 0, 0, 0, 0], mask := 0, step := 0, snap := [],
                   tags := [], replays := 0, flags := 0 } (some b.nextOp) b.pc b.lane])) ∧
  (∀ (a : AccrdArgs) (tile : Tile),
    let w := if a.f64 then 2 else 1
    Does (.accrd a) { g := a.g, dsts := [(a.d, 8 * w), (a.b, 1)], check := fun l _ => decide (a.tile.val < l.fields.tiles) }
      (fun b => b.g.tiles[a.tile.val]? = some tile ∧ tile.poison = false ∧
        (b.repro = false ∨ b.s.tileOps b.wid.launch b.wid.group a.tile.val = []))
      (fun b x => SameChunk b x ∧
        let el (l c : Nat) : Nat × Fl := froundV (if a.f64 then fmtF64 else fmtF32) a.rm a.sat
          (unpack fmtACC96 (tile.acc.getD (16 * (l / 2) + 8 * (l % 2) + c) 0).toNat)
        let y := b.moved.setLanes a.d (8 * w) b.active fun l => ((upTo 8).map fun c => (el l c).1 * 2 ^ (32 * w * c)).sum
        let z := y.setLanes a.b 1 b.active fun _ =>
          tile.steps % 2 ^ 16 + (b.s.tileOps b.wid.launch b.wid.group a.tile.val).length % 2 ^ 16 * 2 ^ 16
        x.arch.follows { z with
          flags := b.w.arch.flags ||| (flAll (b.activeLanes.map fun l => flAll ((upTo 8).map fun c => (el l c).2))).setWidth 32
          poison := clearPoison (regItems a.b 1) b.active (clearPoison (regItems a.d (8 * w)) b.active b.w.arch.poison) })) ∧
  (∀ (a : AccrdArgs) (s : State) (b : Iss),
    let k : Kind := { g := a.g, dsts := [(a.d, 8 * if a.f64 then 2 else 1), (a.b, 1)]
                      check := fun l _ => decide (a.tile.val < l.fields.tiles) }
    s.issueOf k = some b → b.runs k = true → b.repro = true → b.s.tileOps b.wid.launch b.wid.group a.tile.val ≠ [] →
    exec (.accrd a) s = .next (s.unissued.mapWarp b.wid fun x => { x with turnDone := true }))

/-! ### The near-bank tier -/

/-- R367, R369, R372: the element-wise microinstructions, rounding to nearest even, and the scalar and branch microinstructions. The
sign that NSUB gives to a difference of two zeros is the model's choice: log 65. -/
def Obligations.NearBankArithmetic : Prop :=
  (∀ bd ba bb : Fin 8, StallElems (.nadd bd ba bb) bd.val fun x i => fadd fmtF32 .rne false (x.elem ba.val i) (x.elem bb.val i)) ∧
  (∀ bd ba bb : Fin 8, StallElems (.nsub bd ba bb) bd.val fun x i => fsub fmtF32 .rne false (x.elem ba.val i) (x.elem bb.val i)) ∧
  (∀ bd ba bb : Fin 8, StallElems (.nmul bd ba bb) bd.val fun x i => fmul fmtF32 .rne false (x.elem ba.val i) (x.elem bb.val i)) ∧
  (∀ bd ba bb : Fin 8, StallElems (.nfma bd ba bb) bd.val fun x i =>
    ffma fmtF32 .rne false (x.elem ba.val i) (x.elem bb.val i) (x.elem bd.val i)) ∧
  (∀ (bd ba : Fin 8) (ns : Fin 16), StallElems (.naxpy bd ba ns) bd.val fun x i =>
    ffma fmtF32 .rne false (x.sc ns.val).toNat (x.elem ba.val i) (x.elem bd.val i)) ∧
  (∀ (bd ba : Fin 8) (ns : Fin 16), StallElems (.nscale bd ba ns) bd.val fun x i =>
    fmul fmtF32 .rne false (x.elem ba.val i) (x.sc ns.val).toNat) ∧
  (∀ bd ba bb : Fin 8, StallElems (.nmax bd ba bb) bd.val fun x i => fminmax fmtF32 true (x.elem ba.val i) (x.elem bb.val i)) ∧
  (∀ bd ba bb : Fin 8, StallElems (.nmin bd ba bb) bd.val fun x i => fminmax fmtF32 false (x.elem ba.val i) (x.elem bb.val i)) ∧
  (∀ bd ba : Fin 8, StallElems (.nrsq bd ba) bd.val fun x i => froundFl fmtF32 .rne false (xRsqrt (unpack fmtF32 (x.elem ba.val i)))) ∧
  (∀ bd ba : Fin 8, StallElems (.nmovb bd ba) bd.val fun x i => (x.elem ba.val i, 0)) ∧
  (∀ ba : Fin 8, StallDoes (.nchk ba) (fun _ _ _ => True) (fun _ _ x => { x with upc := (x.upc + 1) % 256 })
    fun x => (0, (upTo 512).any fun i => (unpack fmtF32 (x.elem ba.val i)).isNan || (unpack fmtF32 (x.elem ba.val i)).isInf)) ∧
  (StallScalar .nnop (fun x => { x with upc := (x.upc + 1) % 256 }) ∧
  (∀ nd imm, StallScalar (.nset nd imm) fun x => { x with upc := (x.upc + 1) % 256, n := x.n.set nd.val (imm.setWidth 32) }) ∧
  (∀ nd imm, StallScalar (.nseth nd imm) fun x =>
    { x with upc := (x.upc + 1) % 256, n := x.n.set nd.val (imm ++ (x.n.getD nd.val 0).setWidth 16) }) ∧
  (∀ nd imm, StallScalar (.naddi nd imm) fun x =>
    { x with upc := (x.upc + 1) % 256, n := x.n.set nd.val (x.n.getD nd.val 0 + imm.signExtend 32) }) ∧
  (∀ (nd : Fin 16) (k : BitVec 16), StallDoes (.nlds nd k) (fun _ r _ => k.toNat < r.desc.args.length ∧ k.toNat < 16)
    (fun _ r x => { x with upc := (x.upc + 1) % 256, n := x.n.set nd.val (r.desc.args.getD k.toNat 0) }) fun _ => (0, false)) ∧
  (∀ nd tgt, StallScalar (.nloop nd tgt) fun x =>
    { x with n := x.n.set nd.val (x.n.getD nd.val 0 - 1), upc := if x.n.getD nd.val 0 = 1 then (x.upc + 1) % 256 else tgt.toNat }) ∧
  (∀ tgt, StallScalar (.nbra tgt) fun x => { x with upc := tgt.toNat }) ∧
  (∀ nd tgt, StallScalar (.nbrz nd tgt) fun x => { x with upc := if x.n.getD nd.val 0 = 0 then tgt.toNat else (x.upc + 1) % 256 }))

/-- R187, R369, R375, R376, R380, R381, R388: NOPEN and NOPENS open the row at the cursor; NRD reads the open row, or what was
written to it, and of a shadow row that the step has not written the row of version CUR; NWR writes it; NCLOSE closes a row that
was not written at once, and commits a written one as one singleton. R369, R374, R377: NPOINT moves the cursor to the next row and
may suspend the stall; NDONE ends the stall's part, and the last one of a run that an NBRUN released ends the run. What of it the
manual leaves open is the model's choice: logs 1, 36 and 56. -/
def Obligations.NearBankRows : Prop :=
  (∀ st : Fin 4, StallDoes (.nopen st) (fun s r x => ∃ row, x.row = some row ∧ st.val < r.desc.streams ∧ s.blockReady r row = true)
    (fun _ _ x => { x with upc := (x.upc + 1) % 256, open_ := some { stream := st.val, shadow := false, written := none } })
    fun _ => (0, false)) ∧
  (∀ st : Fin 4, StallDoes (.nopens st) (fun s r x => ∃ row, x.row = some row ∧ st.val < r.desc.streams ∧
      s.blockReady r row = true ∧ s.stepOver r st.val row = true)
    (fun _ _ x => { x with upc := (x.upc + 1) % 256, open_ := some { stream := st.val, shadow := true, written := none } })
    fun _ => (0, false)) ∧
  (∀ (bd : Fin 8) (loc : Loc), StallDoes (.nrd bd) (fun s r x => ∃ o, x.open_ = some o ∧ o.written = none ∧
      s.readLoc r x o = some loc ∧
      ∀ k, k < 32 → s.hostOwns (loc.plus (64 * k)) = false ∧ s.isPoisoned (loc.plus (64 * k)) = false)
    (fun s _ x => { x with upc := (x.upc + 1) % 256, b := x.b.set bd.val ((upTo 512).map fun i =>
      BitVec.ofNat 32 (leNat ((upTo 4).map fun k => s.byteAt (loc.plus (4 * i + k))))) }) fun _ => (0, false)) ∧
  (∀ (s : State) (r : Run) (x : StallRun) (o : OpenRow) (row n k : Nat) (v : Region), x.row = some row →
    s.rowRegion r o.stream row = some (n, v, k) → o.shadow = true →
    s.readLoc r x o = s.openLoc r x { o with shadow := v.written.contains k }) ∧
  (∀ (bd : Fin 8) (ws : List Word), StallDoes (.nrd bd) (fun _ _ x => ∃ o, x.open_ = some o ∧ o.written = some ws)
    (fun _ _ x => { x with upc := (x.upc + 1) % 256, b := x.b.set bd.val ws }) fun _ => (0, false)) ∧
  (∀ (ba : Fin 8) (o : OpenRow), StallDoes (.nwr ba) (fun s r x => x.open_ = some o ∧ r.desc.wmask.testBit o.stream = true ∧
      (o.shadow = true ∨ s.stepOver r o.stream (x.row.getD 0) = false))
    (fun _ _ x => { x with upc := (x.upc + 1) % 256, open_ := some { o with written := some (x.b.getD ba.val []) } })
    fun _ => (0, false)) ∧
  (∀ o : OpenRow, StallDoes .nclose (fun _ _ x => x.open_ = some o ∧ o.written = none)
    (fun _ _ x => { x with upc := (x.upc + 1) % 256, open_ := none }) fun _ => (0, false)) ∧
  (∀ (s u : State) (r : Run) (x : StallRun) (o : OpenRow) (loc : Loc) (ws : List Word),
    let locs := (upTo 2048).map loc.plus
    s.focused = some (r, x) → x.open_ = some o → o.written = some ws → s.openLoc r x o = some loc →
    (o.shadow = true ∨ s.stepOver r o.stream (x.row.getD 0) = false) →
    (∀ y ∈ locs, s.hostOwns y = false) → s.sourceHeld r.op locs = false →
    State.singleton { s with focus := none } (locs.zip (ws.flatMap fun w => leBytes 4 w.toNat)) = .done u →
    ∃ t r' y, exec .nclose s = .next t ∧ SameBytes u t ∧ t.run? r.num = some r' ∧ r'.stall? x.stall = some y ∧
      y.open_ = none ∧ y.upc = (x.upc + 1) % 256) ∧
  (∀ s r x, s.focused = some (r, x) →
    ∃ t r' y, exec .npoint s = .next t ∧ SameBytes s t ∧ t.run? r.num = some r' ∧ r'.stall? x.stall = some y ∧
      y.passed = min (x.passed + 1) x.rows.length ∧ y.upc = (x.upc + 1) % 256 ∧ y.b = x.b ∧ y.n = x.n ∧
      (y.phase = .running ∨ y.phase = .suspended)) ∧
  (∀ s r x, s.focused = some (r, x) → (∃ z ∈ r.stalls, z.stall ≠ x.stall ∧ z.phase ≠ .done) →
    (∀ y ∈ s.runs, y = r ∨ (y.num ≠ r.num ∧ y.finished = false)) →
    ∃ t r' y, exec .ndone s = .next t ∧ SameBytes s t ∧ t.run? r.num = some r' ∧ r'.stall? x.stall = some y ∧ y.phase = .done) ∧
  (∀ s r x o l u, s.focused = some (r, x) → (∀ z ∈ r.stalls, z.stall ≠ x.stall → z.phase = .done) → r.pinned = true →
    (r.op.bind s.op?) = some o → s.due o = true → (∀ y ∈ s.runs, y = r ∨ (y.num ≠ r.num ∧ y.finished = false)) →
    s.pathOwned r.ctx ((r.desc.at_ + 0x38) % 2 ^ 64) 4 = false →
    s.lookRange r.ctx ((r.desc.at_ + 0x38) % 2 ^ 64) 4 .write = .ok l → (∀ y ∈ rangeLocs l, s.hostOwns y = false) →
    s.sourceHeld (some o.num) (rangeLocs l) = false →
    State.singleton (State.mapStall { s with focus := none } r.num x.stall fun y => { y with passed := y.rows.length, phase := .done })
      ((rangeLocs l).zip (leBytes 4 ((if r.nf then 1 else 0) + 2 * r.flags.toNat))) = .done u →
    ∃ t, exec .ndone s = .next t ∧ t.run? r.num = none ∧ SameBytes u t)
/-! ### Other agents: chunks and time -/

/-- R175 to R178, R180 to R182, R191: a free-mode chunk that may commit puts its writes in committed memory as `place` does, and
its warp starts a new chunk with the next commit sequence number where it wrote memory; `place` stores each written byte of device
memory and no other; a pre-grant asked for first is given where none is held; a RED applies its operation to the bytes as
committed, once; a commit round ends when every warp has had its turn, and between launches none passes. What of it the manual
leaves open is the model's choice: logs 9, 19 and 34. -/
def Obligations.CommitEvents : Prop :=
  (∀ (s u : State) (w : WarpId) (l : Launch) (g : Group) (x : Warp), s.finds w l g x → s.reproOf l.ctx = false →
    x.chunk.ended = true → g.resident = true → l.fault = none → l.saveInvalid = false → x.fault = none →
    AgentId.core g.core ∉ s.lost → x.chunk.pregrant ≠ .waiting → x.chunk.queued = [] → x.chunk.halt = none →
    s.waitsOutside w l.ctx x.chunk = false → s.commitWaits w l.ctx.part x.chunk = false →
    s.halfOwned x.chunk = false →
    ((∀ p ∈ s.toAllocate x.chunk.resets x.chunk.writes, s.drawsPool p = false) ∨ s.poolBehind w l.ctx.part x.chunk = false) →
    s.place x.chunk.resets x.chunk.writes x.chunk.bypass = some u →
    Gives (.chunkCommit w) s fun t => SameBytes u t ∧ ∃ y, t.warp? w = some y ∧ y.chunk.ended = false ∧ y.chunk.writes = [] ∧
      y.chunk.reads = [] ∧ y.chunk.count = 0 ∧ y.chunk.start = y.arch ∧
      y.seq = (if memLocs (x.chunk.writes.map (·.1)) = [] ∧ x.chunk.resets = [] then s.seq else s.seq + 1)) ∧
  (∀ (s u : State) (ws : List (Loc × Byte)), s.memOk = true → s.place [] ws = some u → (∀ p ∈ ws, p.1.space = .dev) →
    (ws.map (·.1)).Nodup → ∀ y, y.space = .dev → u.byteAt y = (getKey y ws).getD (s.byteAt y)) ∧
  (∀ (s : State) (w : WarpId) (l : Launch) (g : Group) (x : Warp), s.finds w l g x → x.chunk.pregrant = .waiting →
    l.ctx.part < s.parts.length → (s.part l.ctx.part).pregrant = none → (s.part l.ctx.part).pregrantQueue = [] →
    Gives (.preGrant w) s fun t => (t.part l.ctx.part).pregrant = some w ∧ SameBytes s t ∧
      ∃ y, t.warp? w = some y ∧ y.chunk.pregrant = .held ∧ y.arch = x.arch) ∧
  (∀ (s u : State) (n : Nat) (o : Op) (r : RedOp), s.op? n = some o → o.kind = .red r → s.redTurn o = true →
    (∀ y ∈ r.locs, s.hostOwns y = false ∧ s.isPoisoned y = false) → s.sourceHeld (some o.num) r.locs = false →
    s.singleton (r.locs.zip (leBytes r.locs.length (aopApply r.op r.ty (leNat (r.locs.map s.byteAt)) r.value.toNat).1)) = .done u →
    Gives (.redApplication n) s fun t => SameBytes u t ∧ t.op? n = none) ∧
  (∀ (s : State) (c : CtxKey) (x : Context), s.context? c = some x → x.repro = true → x.phase = .running →
    s.opsDue c = false → s.turn? c = none → s.roundBusy c = false →
    if s.inRound c = true then
      Gives (.commitRound c) s fun t => SameBytes s t ∧ ∃ y, t.context? c = some y ∧ y.rounds = x.rounds + 1
    else exec (.commitRound c) s = .next s)

/-- R189, R269, R291 to R293, R296: the heartbeat; the end of a sleep; a pre-emption by time slice or priority begins the
cooperative phase; a warp due to enter its yield handler stands there with its registers intact; the forced save, once its save
blocks can be written, leaves no SIMT group of the context resident; a resume puts every saved group on its named core. What of it
the manual leaves open is the model's choice: logs 41 and 44. -/
def Obligations.PreemptionEvents : Prop :=
  (∀ s : State, s.devready = true → s.cycle ≤ (s.beat + 1) * 1024 →
    Gives .heartbeatTick s fun t => t.beat = s.beat + 1 ∧ t.cycle = (s.beat + 1) * 1024 ∧ t.launches = s.launches ∧ SameBytes s t) ∧
  (∀ (s : State) (w : WarpId) (l : Launch) (g : Group) (x : Warp) (z : Wait) (d : Nat), s.finds w l g x → x.arch.waits = [z] →
    z.kind = .sleep d false → x.arch.pc.length = 32 → x.arch.st.length = 32 →
    Gives (.sleepExpiry w) s fun t => SameBytes s t ∧ ∃ y, t.warp? w = some y ∧ y.arch.v = x.arch.v ∧ y.arch.s = x.arch.s ∧
      if d ≤ s.cycle then ∀ k, laneOn z.lanes k = true → y.arch.stOf k = .ready ∧ y.arch.pcOf k = z.next else y.arch = x.arch) ∧
  (∀ (s : State) (c : CtxKey) (x y : Context), s.context? c = some x → x.phase = .running →
    x.since + (s.part c.part).slice ≤ s.cycle → y ∈ s.contexts → y.key ≠ c → y.key.part = c.part → y.key.fw = c.fw →
    s.hasWork y = true →
    Gives (.timeSliceExpiry c) s fun t => t.mem = s.mem ∧ ∃ z, t.context? c = some z ∧ z.phase = .yielding ∧ z.since = s.cycle) ∧
  (∀ (s : State) (c : CtxKey) (x : Context) (l : Launch), s.context? c = some x → x.phase = .running → l ∈ s.launches →
    l.ctx ≠ c → l.ctx.part = c.part → l.ctx.fw = c.fw → s.unplaced l = true →
    (∀ y ∈ s.launches, y.ctx = c → y.live = true → y.fields.prio < l.fields.prio) →
    Gives (.priorityPreemption c) s fun t => t.mem = s.mem ∧ ∃ z, t.context? c = some z ∧ z.phase = .yielding) ∧
  (∀ (s : State) (w : WarpId) (l : Launch) (g : Group) (x : Warp), s.finds w l g x → s.phaseOf l.ctx = .yielding →
    x.handlerDue = true → x.atBoundary = true → x.arch.pc.length = 32 → x.arch.st.length = 32 →
    Gives (.yieldHandlerEntry w) s fun t => SameBytes s t ∧ ∃ y r, t.warp? w = some y ∧ y.handlerDue = false ∧
      y.arch.v = x.arch.v ∧ y.arch.s = x.arch.s ∧ y.arch.p = x.arch.p ∧ y.arch.h = x.arch.h ∧ y.arch.yrec = some r ∧
      r.pc = x.arch.pc ∧ r.st = x.arch.st ∧ r.waits = x.arch.waits ∧ r.rstack = x.arch.rstack ∧
      ∀ k, k < 32 → x.arch.stOf k ≠ .exited → y.arch.stOf k = .ready ∧ y.arch.pcOf k = l.fields.yield) ∧
  (∀ (s : State) (c : CtxKey) (x : Context), s.context? c = some x → s.engineBusy c = false →
    (s.saveContext c (if x.phase = .halting then .halted else .saved)).isSome = true →
    (x.phase = .yielding ∧ (s.allYielded c = true ∨ x.since + 17000 ≤ s.cycle)) ∨ x.phase = .halting →
    Gives (.forcedSaveDeadline c) s fun t =>
      (∃ y, t.context? c = some y ∧ y.phase = if x.phase = .halting then .halted else .saved) ∧
      ∀ l ∈ t.launches, l.ctx = c → l.live = true → l.desc = none → ∀ g ∈ l.groups, g.resident = false) ∧
  (∀ (s : State) (c : CtxKey) (x : Context) (ps : List Placement), s.context? c = some x → x.phase = .saved →
    s.roleChange = none → (c.fw = true ∨ s.unnumbered c.part = false) →
    (∀ p, p ∈ s.toReturn c ↔ p ∈ ps.map fun q => (q.launch, q.group)) → (s.returned c ps).isSome = true →
    Gives (.contextResume c ps) s fun t => (∃ y, t.context? c = some y ∧ y.phase = .running) ∧
      ∀ q ∈ ps, ∃ g, t.group? q.launch q.group = some g ∧ g.resident = true ∧ g.core = q.core)

/-! ### Engines, copies and stalls -/

/-- R148, R161, R162, R164, R167, R168, R359, R374, R377: an operation at the head of an engine starts where the engine is idle
and in service; a K-step applies one step to the tile's accumulators, and a mismatch replays it up to three times, then resets the
engine, as does 2^24 cycles without progress; the reset engine returns unless it is lost; a finished operation leaves the queue
and ends its records, an ACCZ with the tile clear, an ACCLD with the tile loaded, and an ACCST with the tile stored as one
singleton; an MMA with ASRC takes its multiplicand tile as it starts; a stall starts its part of a pinned run, and goes on after a
suspension. What of it the manual leaves open is the model's choice: log 36. -/
def Obligations.EngineEvents : Prop :=
  (∀ (s : State) (e : EngineId) (o : Op) (t : TileOp), s.headOp e = some (o, t) → (s.engine e).running = false →
    (s.engine e).reset = false → s.engineRuns o.launch = true → (∀ a, t.kind ≠ .mma a) →
    Gives (.tileOpStart e) s fun u => (u.engine e).running = true ∧ (u.engine e).since = s.cycle ∧ u.ops = s.ops ∧ SameBytes s u) ∧
  (∀ (s : State) (e : EngineId) (o : Op) (t : TileOp) (a : MmaArgs) (d : Tile), s.headOp e = some (o, t) →
    (s.engine e).running = false → (s.engine e).reset = false → s.engineRuns o.launch = true → t.kind = .mma a → a.asrc = false →
    s.tile? o a.dt.val = some d → d.poison = false →
    Gives (.tileOpStart e) s fun u => (u.engine e).running = true ∧ SameBytes s u ∧
      u.tile? o a.dt.val = some { d with steps := t.step, running := true }) ∧
  (∀ (s : State) (e : EngineId) (o : Op) (t : TileOp) (a : MmaArgs) (d : Tile) (l : Launch), s.headOp e = some (o, t) →
    (s.engine e).running = true → s.engineRuns o.launch = true → t.kind = .mma a → t.step < MmaArgs.steps a →
    s.launch? o.launch = some l → s.tile? o a.dt.val = some d →
    let skip := kstepSkipped a t.vals t.tags l.fields.exact t.step
    (skip = true ∨ s.spadPoison o (kstepBytes a t.vals t.step) = false) →
    Gives (.mmaKstep e false) s fun u => SameBytes s u ∧
      u.tile? o a.dt.val = some { d with
        steps := t.step + 1
        acc := if skip then (if t.step = 0 && a.ovw then List.replicate 256 0 else d.acc)
          else (kstepApply a t.vals t.snap (s.spadRead o) t.step d.acc).1 }) ∧
  (∀ (s : State) (e : EngineId) (o : Op) (t : TileOp) (a : MmaArgs), s.headOp e = some (o, t) → (s.engine e).running = true →
    s.engineRuns o.launch = true → t.kind = .mma a → t.step < MmaArgs.steps a →
    Gives (.mmaKstep e true) s fun u => SameBytes s u ∧
      if 3 ≤ t.replays then (u.engine e).reset = true ∧ (u.engine e).queue = []
      else ∃ o' t', u.headOp e = some (o', t') ∧ t' = { t with replays := t.replays + 1 } ∧ ∀ n, u.tile? o n = s.tile? o n) ∧
  (∀ (s : State) (e : EngineId), (s.engine e).running = true → (s.engine e).since + 2 ^ 24 ≤ s.cycle →
    Gives (.engineWatchdogExpiry e) s fun u => (u.engine e).reset = true ∧ (u.engine e).queue = [] ∧ SameBytes s u ∧
      ∀ l g, s.sound l → (l.num, g) ∈ s.tileHolders e → u.hasFault l.num .engineReset) ∧
  (∀ (s : State) (e : EngineId), (s.engine e).reset = true → AgentId.engine e ∉ s.lost → AgentId.core e.core ∉ s.lost →
    Gives (.engineReturnToService e) s fun u => (u.engine e).reset = false ∧ SameBytes s u) ∧
  (∀ (s : State) (e : EngineId) (o : Op) (t : TileOp), s.headOp e = some (o, t) → (s.engine e).running = true →
    s.running o.launch = true → s.ops = [o] → o.publishRound = none → o.stop = none → s.onEngine o t e = true →
    (∃ a, t.kind = .mma a ∧ MmaArgs.steps a ≤ t.step) ∨ (∃ z n, t.kind = .accz z n) →
    Gives (.tileOpComplete e) s fun u => u.ops = [] ∧ (u.engine e).queue = (s.engine e).queue.drop 1 ∧
      (u.engine e).running = false ∧ RecsEnd s u o .done ∧ SameBytes s u ∧
      ∀ z n, t.kind = .accz z n → (s.tile? o n).isSome = true → u.tile? o n = some Tile.fresh) ∧
  (∀ (s : State) (e : EngineId) (o : Op) (t : TileOp) (a : MmaArgs) (d m : Tile), s.headOp e = some (o, t) →
    (s.engine e).running = false → (s.engine e).reset = false → s.engineRuns o.launch = true → t.kind = .mma a → a.asrc = true →
    s.tileBusy o a.ar.num = false → s.tile? o a.dt.val = some d → s.tile? o a.ar.num = some m → d.poison = false →
    m.poison = false → t.step = 0 →
    Gives (.tileOpStart e) s fun u => (u.engine e).running = true ∧ SameBytes s u ∧
      u.tile? o a.dt.val = some { d with steps := 0, running := true } ∧
      ∃ o', u.headOp e = some (o', { t with snap := (convertTile a m.acc).1, flags := (convertTile a m.acc).2 })) ∧
  (∀ (s : State) (e : EngineId) (o : Op) (t : TileOp) (a : AccArgs) (d : Tile), s.headOp e = some (o, t) →
    (s.engine e).running = true → s.running o.launch = true → s.ops = [o] → o.publishRound = none → o.stop = none →
    s.onEngine o t e = true → s.tile? o a.tile.val = some d →
    let base := (t.vals.getD 0 0).toNat
    let cells := (upTo 256).flatMap fun k => (upTo (AccFmt.bytes a.fmt)).map fun i => AccArgs.elemAddr a base k + i
    let gone (u : State) : Prop := u.ops = [] ∧ (u.engine e).queue = (s.engine e).queue.drop 1 ∧ (u.engine e).running = false ∧
      RecsEnd s u o .done
    (t.kind = .accld a → s.spadPoison o cells = false →
      Gives (.tileOpComplete e) s fun u => gone u ∧ SameBytes s u ∧
        u.tile? o a.tile.val = some { d with acc := (accLoad a base (s.spadRead o)).1, steps := 0, poison := false }) ∧
    (∀ v, t.kind = .accst a → d.poison = false →
      s.singleton ((accStore a base d.acc).1.map fun p => ({ space := .spad o.launch o.group, addr := p.1 }, p.2)) = .done v →
      Gives (.tileOpComplete e) s fun u => gone u ∧ SameBytes v u ∧ u.tile? o a.tile.val = some d)) ∧
  (∀ (s : State) (r : Run) (x : StallRun), s.run? r.num = some r → r.pinned = true → s.runLive r = true →
    r.stall? x.stall = some x → x.phase = .waiting → AgentId.stall x.stall ∉ s.lost → (∀ y ∈ s.runs, r.num ≤ y.num) →
    Gives (.stallRunStart r.num x.stall) s fun u => SameBytes s u ∧
      ∃ r', u.run? r.num = some r' ∧ r'.stall? x.stall = some { x with phase := .running }) ∧
  (∀ (s : State) (r : Run) (x : StallRun), s.run? r.num = some r → r.stall? x.stall = some x → x.phase = .suspended →
    Gives (.stallResume r.num x.stall) s fun u => SameBytes s u ∧
      ∃ r', u.run? r.num = some r' ∧ r'.stall? x.stall = some { x with phase := .running })

/-- R236, R237, R244, R287, R355 to R357, R361, R384, R385: a COPY that starts fetches its bytes into a shadow, and no committed
byte changes; one that publishes puts the shadow in its place as one singleton and its records become Done, or Failed where its
transform failed; nothing comes from a copy engine that has been declared lost; a COPY into several halves of host or peer memory
writes them one by one; a group's fill publishes before its first instruction; a recall changes no committed byte, cuts or
squashes the running chunk of free mode that has written the line, and leaves no dirty line behind that no running chunk holds; a
collective publishes the fold of its members with its RESULT, and a failed one RESULT alone. What of it the manual leaves open is
the model's choice: logs 36, 37, 42 and 49. -/
def Obligations.TransferEvents : Prop :=
  (∀ (s : State) (n : Nat) (o : Op) (c : CopyOp) (l : Launch) (f : Fetched), s.op? n = some o → o.kind = .copy c → o.shadow = none →
    o.stop = none → s.running o.launch = true → AgentId.copyEngine (s.coreOf o.launch o.group) ∉ s.lost → s.launch? o.launch = some l →
    (∀ a, c.aw = some a → a % 8 = 0 ∧ a + 8 ≤ l.portion) →
    s.fetchCopy ⟨o.launch, o.group, o.warp⟩ l.ctx c (fun x => o.zeros.contains x.page) = .got f →
    Gives (.copyEngineStart n) s fun t => SameBytes s t ∧
      ∃ o', t.op? n = some o' ∧ o'.shadow = some f.bytes ∧ o'.failed = f.failed ∧ o'.pins = f.pins ∧ o'.setTags = f.tags) ∧
  (∀ (s u : State) (n : Nat) (o : Op) (c : CopyOp) (ws : List (Loc × Byte)), s.op? n = some o → o.kind = .copy c → o.shadow = some ws →
    o.stop = none → s.publishTurn o = true → AgentId.copyEngine (s.coreOf o.launch o.group) ∉ s.lost → c.aw = none → s.due o = true →
    s.running o.launch = true → o.failed = false → s.behind o = false →
    s.sourceHeld (some o.num) (ws.map (·.1)) = false → (∀ p ∈ ws, s.hostOwns p.1 = false ∧ p.1.space.irrevocable = false) →
    s.singleton ws = .done u →
    Gives (.copyPublish n) s fun t => SameBytes u t ∧ t.op? n = none ∧ RecsEnd s t o .done) ∧
  (∀ (s : State) (n : Nat) (o : Op) (c : CopyOp) (ws : List (Loc × Byte)) (x y : Loc), s.op? n = some o → o.num = n →
    o.kind = .copy c → o.shadow = some ws → c.aw = none → s.due o = true → s.running o.launch = true → o.failed = false →
    o.stop = none → s.publishTurn o = true → AgentId.copyEngine (s.coreOf o.launch o.group) ∉ s.lost →
    s.behind o = false → s.sourceHeld (some o.num) (ws.map (·.1)) = false → (∀ p ∈ ws, s.hostOwns p.1 = false) →
    (ws.map (·.1)).find? (fun z => z.space.irrevocable) = some x → y ∈ ws.map (·.1) → y.space.irrevocable = true → y.half ≠ x.half →
    s.unreachable (s.coreOf o.launch o.group) x = false → s.refuses x = false →
    Gives (.copyPublish n) s fun t => SameBytes (s.putBytes (ws.filter fun p => p.1.half == x.half)) t ∧
      ∃ o', t.op? n = some o' ∧ o'.shadow = some (ws.filter fun p => p.1.half != x.half)) ∧
  (∀ (s : State) (n : Nat) (o : Op) (c : CopyOp) (ws : List (Loc × Byte)), s.op? n = some o → o.kind = .copy c → o.shadow = some ws →
    o.stop = none → s.publishTurn o = true → AgentId.copyEngine (s.coreOf o.launch o.group) ∉ s.lost →
    s.due o = true → s.running o.launch = true → o.failed = true →
    Gives (.copyPublish n) s fun t => SameBytes s t ∧ t.op? n = none ∧ RecsEnd s t o .failed) ∧
  (∀ (s : State) (n : Nat) (o : Op) (c : CopyOp), s.op? n = some o → o.kind = .copy c →
    AgentId.copyEngine (s.coreOf o.launch o.group) ∈ s.lost → exec (.copyPublish n) s = .next s) ∧
  (∀ (s : State) (l g : Nat) (x : Group), s.running l = true → s.group? l g = some x →
    Gives (.barrowFillPublish l g) s fun t => SameBytes s t ∧ t.group? l g = some { x with fill := .done, pins := [] }) ∧
  (∀ (s : State) (line : Loc) (why : RecallReason) (granted : Bool),
    Gives (.directoryRecall line why granted) s fun t => SameBytes s t ∧ (∀ d ∈ t.dirty, d ∈ s.dirty) ∧
      (s.recallHolders (line.line, 128) = [] →
        ∀ d ∈ t.dirty, d.line.space = line.space → d.line.addr = d.line.addr / 128 * 128 → d.line.addr ≠ line.addr / 128 * 128) ∧
      ∀ (w : WarpId) (l : Launch) (g : Group) (x : Warp), s.finds w l g x → x.arch.tx = none → ∃ y, t.warp? w = some y ∧
        if s.reproOf l.ctx = true ∨ touchesAny x.chunk.loose [(line.line, 128)] = false then y = x
        else if granted = true then y = { x with chunk := { x.chunk with ended := true } }
        else y.arch = x.chunk.start ∧ y.chunk.writes = x.chunk.kept) ∧
  (∀ (s u : State) (n : Nat) (o : Op) (c : CollOp) (l : Launch) (d r : List (Loc × Nat)), s.op? n = some o → o.kind = .coll c →
    o.stop = none → s.publishTurn o = true → s.due o = true → s.running o.launch = true → s.peerLost c = false → s.collStopped c = false →
    o.data.length = 4 * c.count →
    (∀ y ∈ rangeLocs o.sources, s.isPoisoned y = false) → s.launch? o.launch = some l →
    let v := (upTo c.count).map (collFold c o s.pkg)
    let bytes := v.flatMap fun p => leBytes 4 p.1
    let ws := (rangeLocs d).zip bytes ++ (rangeLocs r).zip (collResult (c.members.any (collNf c o s.pkg)) false (flAll (v.map (·.2))))
    s.pathOwned l.ctx c.dst bytes.length = false → s.pathOwned l.ctx c.result 8 = false →
    s.lookRange l.ctx c.dst bytes.length .write = .ok d → s.lookRange l.ctx c.result 8 .write = .ok r →
    (∀ p ∈ ws, s.hostOwns p.1 = false) → s.behind o = false → s.sourceHeld (some o.num) (ws.map (·.1)) = false →
    s.singleton ws = .done u →
    Gives (.collectivePublish n) s fun t => SameBytes u t ∧ t.op? n = none ∧ RecsEnd s t o .done) ∧
  (∀ (s u : State) (n p : Nat) (o : Op) (c : CollOp) (l : Launch) (d r : List (Loc × Nat)), s.op? n = some o → o.kind = .coll c →
    o.stop = none → s.publishTurn o = true → s.due o = true → s.running o.launch = true → p ∈ c.members → p ≠ s.pkg →
    s.launch? o.launch = some l →
    s.pathOwned l.ctx c.dst 0 = false → s.pathOwned l.ctx c.result 8 = false →
    s.lookRange l.ctx c.dst 0 .write = .ok d → s.lookRange l.ctx c.result 8 .write = .ok r →
    (∀ y ∈ rangeLocs r, s.hostOwns y = false) → s.behind o = false → s.sourceHeld (some o.num) ((rangeLocs r).take 8) = false →
    s.singleton ((rangeLocs r).zip (leBytes 8 3)) = .done u →
    Gives (.collectiveFail n) s fun t => SameBytes u t ∧ t.op? n = none ∧ RecsEnd s t o .failed)

/-! ### Launches -/

/-- R271 to R279, R284, R342, R390, R399, R413: a notify raises a mapped queue's target tail, and sets the pending word of an
unmapped one, but before DEVREADY, or over a link that carries nothing, does nothing; a queue takes a free slot with its pending
notify, and gives it up; a record that passes R275 is admitted, and one that fails, or whose producer has failed, has its
completion record written; a status entry that cannot be read stops the queue; a slot that cannot be read is passed with a
notification, and HEAD that cannot be written stops the queue; a group begins on the core that takes it, its lanes at the kernel's
address; a group that is over sets its bit and leaves, the last one with its launch; a launch with a fault leaves once its REDs
are applied. What of it the manual leaves open is the model's choice: logs 9, 40 and 53. -/
def Obligations.LaunchEvents : Prop :=
  (∀ (s : State) (k : QueueKey) (q : Queue) (n head cap : Nat),
    let z := s.mapQueue k fun x => { x with blocked := false }
    s.queue? k = some q → s.ctxOwned q.ctx q.header 40 = false → z.headerWord q hdrHead = some head → z.headerWord q hdrCap = some cap →
    head < n → n ≤ head + 2 ^ (cap % 256) → s.devready = true → s.hostThere = true →
    (q.slot.isSome = true → Gives (.notify k 0 n) s fun t => SameBytes s t ∧
      t.queue? k = some { q with blocked := false, target := max q.target n }) ∧
    (∀ v, q.slot = none → z.headerWord q hdrPend = some v →
      (∀ u, z.setHeader q hdrPend (2 ^ 63 + max (v % 2 ^ 63) n) = .done u →
        exec (.notify k 0 n) s = .next (u.mapQueue q.key fun x => if v < 2 ^ 63 then { x with asked := u.steps } else x)) ∧
      (z.setHeader q hdrPend (2 ^ 63 + max (v % 2 ^ 63) n) = .waits → exec (.notify k 0 n) s = .next (s.later (.notify k 0 n))))) ∧
  (∀ (s : State) (k : QueueKey) (off n : Nat),
    off ≠ 0 ∨ ((s.devready = false ∨ s.hostThere = false) ∧ Instr.notify k 0 n ∉ s.received) → exec (.notify k off n) s = .next s) ∧
  (∀ (s : State) (k : QueueKey) (q : Queue) (slot : Nat),
    let z : State := { s.mapQueue k fun x => { x with slot := some slot } with slots := slot :: s.slots }
    s.queue? k = some q → q.slot = none → slot < 255 → slot ∉ s.slots → s.mayMap q = true → s.ctxOwned q.ctx q.header 40 = false →
    ((∀ v, z.headerWord q hdrPend = some v → v < 2 ^ 63) → exec (.queueMap k slot) s = .next z) ∧
    ∀ v u, z.headerWord q hdrPend = some v → 2 ^ 63 ≤ v →
      State.setHeader (z.mapQueue k fun x => { x with target := v % 2 ^ 63 }) q hdrPend (v % 2 ^ 63) = .done u →
      Gives (.queueMap k slot) s fun t => t = u ∧ slot ∈ t.slots ∧ ∃ q', t.queue? k = some q' ∧ q'.slot = some slot ∧
        q'.target = v % 2 ^ 63) ∧
  (∀ (s u : State) (k : QueueKey) (q : Queue) (n v head : Nat),
    let z : State := { s.mapQueue k fun x => { x with slot := none } with slots := s.slots.filter fun y => y ≠ n }
    let tail := max (v % 2 ^ 63) q.target
    let pend := head < tail ∨ 2 ^ 63 ≤ v
    s.queue? k = some q → q.slot = some n → n ≠ 255 → s.ctxOwned q.ctx q.header 40 = false → z.headerWord q hdrPend = some v →
    z.headerWord q hdrHead = some head →
    State.setHeader (z.mapQueue k fun x => { x with asked := if pend then z.steps else x.asked }) q hdrPend
      ((if pend then 2 ^ 63 else 0) + tail) = .done u →
    Gives (.queueUnmap k) s fun t => t = u ∧ n ∉ t.slots ∧ ∃ q', t.queue? k = some q' ∧ q'.slot = none) ∧
  (∀ (s u : State) (q : Queue) (c : Context) (pos cap base : Nat) (bs : List Byte), s.queue? q.key = some q →
    s.context? q.ctx = some c → q.slot.isSome = true → q.blocked = false → c.phase = .running → c.release = none →
    c.scrubbing = false → s.headerWord q hdrHead = some pos → s.headerWord q hdrCap = some cap → s.headerWord q hdrBase = some base →
    s.ctxOwned q.ctx q.header 320 = false → pos < q.target → base % 128 = 0 →
    let at_ := (base + 128 * (pos % 2 ^ (cap % 256))) % 2 ^ 64
    let l := Launch.fresh s c q pos (recordOf (leNat bs))
    let unread : Prop := ∃ d ∈ l.fields.deps, ∃ e, s.readCtx q.ctx (statAddr q (l.pos - d.dist)) 1 = .error e
    s.readCtx c.key at_ 128 = .ok bs → s.recordOwned q at_ l = false →
    (unread → q.key.part < s.parts.length → Gives (.launchAdmission q.key) s fun t => SameBytes s t ∧ t.nextLaunch = s.nextLaunch ∧
      (∃ q', t.queue? q.key = some q' ∧ q'.blocked = true) ∧
      (((t.part q.key.part).ring.head?.map fun n => (n.kind, n.data0)) = some (7, BitVec.ofNat 64 (q.key.idx + 512)))) ∧
    (¬unread → (∀ status v, s.checkRecord c l (leNat bs) = some status → s.advanceHead q pos 3 = .done u →
      u.tryWrite c.key l.fields.compl (recordBytes status none l) = some v →
      Gives (.launchAdmission q.key) s fun t => t.nextLaunch = s.nextLaunch ∧
        if status = 0x15 ∧ l.fields.compl % 64 ≠ 0 then SameBytes u t else SameBytes v t) ∧
    (∀ v, s.checkRecord c l (leNat bs) = none → s.producerFailed q l = true → s.advanceHead q pos 3 = .done u →
      u.tryWrite c.key l.fields.compl (recordBytes 1 (some { code := .dependencyFailed }) l) = some v →
      Gives (.launchAdmission q.key) s fun t => t.nextLaunch = s.nextLaunch ∧ SameBytes v t) ∧
    (∀ v, s.checkRecord c l (leNat bs) = none → s.producerFailed q l = false → s.advanceHead q pos 1 = .done u →
      u.tryWrite c.key (l.fields.save + 4096) (List.replicate ((l.fields.groups + 7) / 8) 0) = some v →
      Gives (.launchAdmission q.key) s fun t => t.nextLaunch = s.nextLaunch + 1 ∧ SameBytes v t ∧
        ∃ x ∈ t.launches, x.num = s.nextLaunch ∧ x.queue = q.key ∧ x.pos = pos ∧ x.ctx = c.key ∧ x.fields = recordOf (leNat bs)))) ∧
  (∀ (s u : State) (q : Queue) (c : Context) (pos cap base : Nat) (e : Code), s.queue? q.key = some q →
    s.context? q.ctx = some c → q.slot.isSome = true → q.blocked = false → c.phase = .running → c.release = none →
    c.scrubbing = false → s.headerWord q hdrHead = some pos → s.headerWord q hdrCap = some cap → s.headerWord q hdrBase = some base →
    s.ctxOwned q.ctx q.header 320 = false → pos < q.target → base % 128 = 0 → q.key.part < s.parts.length →
    s.readCtx c.key ((base + 128 * (pos % 2 ^ (cap % 256))) % 2 ^ 64) 128 = .error e →
    (s.advanceHead q pos 3 = .done u →
      Gives (.launchAdmission q.key) s fun t => SameBytes u t ∧ t.nextLaunch = s.nextLaunch ∧
        (((t.part q.key.part).ring.head?.map fun n => (n.kind, n.data0, n.data1)) =
          some (7, BitVec.ofNat 64 (q.key.idx + 768), BitVec.ofNat 64 pos))) ∧
    (s.advanceHead q pos 3 = .failed →
      Gives (.launchAdmission q.key) s fun t => SameBytes s t ∧ (∃ q', t.queue? q.key = some q' ∧ q'.blocked = true) ∧
        (((t.part q.key.part).ring.head?.map fun n => (n.kind, n.data0)) = some (7, BitVec.ofNat 64 (q.key.idx + 512))))) ∧
  (∀ (s : State) (l : Launch) (g core : Nat), s.launch? l.num = some l → s.nextGroup l = some g → s.placeable l g core = true →
    s.outranked l core = false → l.binds = [] →
    Gives (.groupDispatch l.num core) s fun t => ∃ y, t.group? l.num g = some y ∧ y.core = core ∧ y.resident = true ∧
      y.fill = .done ∧ y.warps.length = l.fields.warps ∧
      ∀ w ∈ y.warps, ∀ k, k < 32 → w.arch.stOf k = .ready ∧ w.arch.pcOf k = l.fields.kernel) ∧
  (∀ (s : State) (l : Launch) (g : Group), s.launch? l.num = some l → l.desc = none → l.group? g.index = some g →
    s.groupOver l g = true → (s.endGroup l g.index).isSome = true →
    Gives (.groupComplete l.num g.index) s fun t =>
      ((∃ y ∈ l.groups, y.index ≠ g.index) →
        ∃ l', t.launch? l.num = some l' ∧ l'.bitmap.testBit g.index = true ∧ ∀ y ∈ l'.groups, y.index ≠ g.index) ∧
      ((∀ y ∈ l.groups, y.index = g.index) → (∀ k, k < l.fields.groups → k ≠ g.index → l.bitmap.testBit k = true) →
        t.launch? l.num = none)) ∧
  (∀ (s : State) (l : Launch), s.launch? l.num = some l → l.fault.isSome = true ∨ l.saveInvalid = true →
    (∀ o ∈ s.ops, o.launch = l.num → ∀ r, o.kind ≠ .red r) →
    (State.endLaunch ((s.settleLaunch l.num).discardChunks l.num) l (if l.fault.isSome then 1 else 2) 3).isSome = true →
    Gives (.launchFaultEnd l.num) s fun t => t.launch? l.num = none ∧ ∀ o ∈ t.ops, o.launch ≠ l.num)

/-- R217, R218, R298, R299, R334: the no-commit watchdog ends a launch that has a wait which is not external, and names its lowest
such group; the external-wait limit is told to the driver once more; a wait past its limit, whose backing is still missing, ends
the launch, be it a chunk's, an operation's or a stall's; a page that equals its default is released and reads the same; a
scrubbed page is zero, class 0 and no longer pending. What of it the manual leaves open is the model's choice: log 43. -/
def Obligations.LimitEvents : Prop :=
  (∀ (s : State) (c : CtxKey) (x : Context) (l : Launch) (g : Nat), s.context? c = some x → x.phase.resident = true →
    2 ^ 30 ≤ x.watch → s.sound l → l.ctx = c → s.stuckGroup l = some g →
    Gives (.noCommitWatchdogExpiry c) s fun t => SameBytes s t ∧ ∃ l', t.launch? l.num = some l' ∧
      l'.fault = some { code := .watchdog, lane := 0, warp := 0, group := g, pc := 0, addr := 0, ucode := 0 }) ∧
  (∀ (s : State) (c : CtxKey) (x : Context) (l : Launch), s.context? c = some x → s.oldest c = some l → x.phase.resident = true →
    (s.part c.part).extWait ≠ 0 → (x.extSent + 1) * (s.part c.part).extWait ≤ x.watch → c.part < s.parts.length →
    (∃ y ∈ s.launches, y.ctx = c ∧ ∃ g ∈ y.groups, ∃ w ∈ g.warps, WaitClass.external ∈ s.warpWaits y w) →
    (∀ y ∈ s.launches, y.ctx = c → ∀ g ∈ y.groups, ∀ w ∈ g.warps, WaitClass.internal ∉ s.warpWaits y w) →
    Gives (.externalWaitLimit c) s fun t => SameBytes s t ∧ (t.part c.part).ncount = (s.part c.part).ncount + 1 ∧
      (((t.part c.part).ring.head?.map fun n => (n.kind, n.data0)) = some (2, l.id.setWidth 64)) ∧
      ∃ y, t.context? c = some y ∧ y.extSent = x.extSent + 1) ∧
  (∀ (s : State) (w : WarpId) (l : Launch) (g : Group) (x : Warp) (n : Nat), s.finds w l g x → s.sound l →
    x.chunk.poolSince = some n → n + (s.part l.ctx.part).poolWait ≤ s.cycle → s.lacks x.chunk.resets x.chunk.writes = true →
    Gives (.poolWaitExpiry (.chunk w)) s fun t => SameBytes s t ∧ t.hasFault l.num .backingExhausted) ∧
  (∀ (s : State) (o : Op) (l : Launch) (n : Nat), s.op? o.num = some o → l.num = o.launch → s.sound l → o.poolSince = some n →
    n + (s.part l.ctx.part).poolWait ≤ s.cycle → s.lacks [] (s.opBytes o) = true →
    Gives (.poolWaitExpiry (.op o.num)) s fun t => SameBytes s t ∧ t.op? o.num = none ∧ t.hasFault l.num .backingExhausted) ∧
  (∀ (s : State) (r : Run) (x : StallRun) (l : Launch) (n : Nat), s.run? r.num = some r → r.stall? x.stall = some x →
    l.num = r.launch → s.sound l → x.poolSince = some n → n + (s.part r.part).poolWait ≤ s.cycle → (s.part r.part).pool = [] →
    (∀ o, r.op.bind s.op? = some o → o.launch = r.launch) →
    Gives (.poolWaitExpiry (.stall r.num x.stall)) s fun t => SameBytes s t ∧ t.run? r.num = none ∧
      t.hasFault l.num .backingExhausted) ∧
  (∀ (s : State) (p va i : Nat) (r : Region), let x : Loc := { space := .region p, addr := va / 65536 * 65536 }
    s.regionAt p x.addr = some (i, r) → r.sparse = true → s.reproOf { part := p, ctx := r.ctx, fw := false } = false →
    s.isBacked x = true → s.releasable x = true → s.pinnedPage x = false → (∀ d ∈ s.dirty, d.line.page ≠ x) →
    s.heldBack none { words := [], wiped := [], states := [x] } = false → r.base % 65536 = 0 → r.es ≤ 3 → p < s.parts.length →
    (∀ n, n < 65536 → s.regionAt p (x.addr + n) = some (i, r)) →
    Gives (.pageRelease p va) s fun t => t.isBacked x = false ∧ ∀ n, n < 65536 → t.byteAt (x.plus n) = s.byteAt (x.plus n)) ∧
  (∀ (s : State) (pg : Nat), s.memOk = true → s.rotAt.isSome = true → pg < Config.dramPages → (s.rotOf pg).scrb = true →
    Gives (.pageScrubComplete pg) s fun t => (t.rotOf pg).scrb = false ∧ (t.rotOf pg).cls = 0 ∧
      ∀ n, n < 65536 → t.byteAt { space := .dev, addr := pg * 65536 + n } = 0)

/-! ### Errors and lost agents -/

/-- R351, R354, R358 to R361: a corrected error is counted; an uncorrectable one in a register, a predicate, a handle, the flags,
the gang mask or a scratchpad word that the running chunk has not written poisons it, and one in what it has written restarts the
chunk, as one in a speculative line does; one in a dirty line poisons the line; one of both copies of the undo buffer ends the
launch, and one of one copy is counted; one in committed memory poisons the half and changes no byte; one in a tile poisons the
tile; a lost agent takes a new incarnation, once no pre-grant holds what it loses, and a lost core ends every launch with a group
on it, naming its lowest such group; an engine that a mismatch has reset takes its core with it; a message of another incarnation
is dropped and logged; an agent that passes its test is in service again. What of it the manual leaves open is the model's choice:
logs 28, 31 and 50. -/
def Obligations.RecoveryEvents : Prop :=
  (∀ (s : State) (w : WarpId) (r k : Nat) (l : Launch), s.launch? w.launch = some l →
    Gives (.softError (.vreg w r k) true) s fun t => SameBytes s t ∧ t.launch? w.launch = some { l with corr := l.corr + 1 }) ∧
  (∀ (s : State) (w : WarpId) (r k : Nat) (x : Warp), s.warp? w = some x → Item.v r ∉ x.chunk.logged →
    Gives (.softError (.vreg w r k) false) s fun t => SameBytes s t ∧ ∃ y, t.warp? w = some y ∧ (.v r, k) ∈ y.arch.poison ∧
      y.arch.v = x.arch.v ∧ y.chunk.writes = x.chunk.writes) ∧
  (∀ (s : State) (w : WarpId) (r k : Nat) (x : Warp), s.warp? w = some x → Item.v r ∈ x.chunk.logged → x.chunk.soft < 7 →
    Gives (.softError (.vreg w r k) false) s fun t => SameBytes s t ∧ ∃ y, t.warp? w = some y ∧ y.arch = x.chunk.start ∧
      y.chunk.writes = x.chunk.kept ∧ y.chunk.soft = x.chunk.soft + 1) ∧
  (∀ (s : State) (w : WarpId) (r k : Nat) (x : Warp) (t : SoftTarget) (it : Item × Nat), s.warp? w = some x →
    (t, it) ∈ [(.vreg w r k, (.v r, k)), (.sreg w r, (.s r, 32)), (.pred w r, (.p r, 32)), (.handle w r, (.h r, 32)),
      (.flags w, (.flags, 32)), (.gang w, (.gang, 32))] →
    (it.1 ∉ x.chunk.logged → Gives (.softError t false) s fun u => SameBytes s u ∧ ∃ y, u.warp? w = some y ∧ it ∈ y.arch.poison ∧
      y.arch = { x.arch with poison := y.arch.poison } ∧ y.chunk.writes = x.chunk.writes) ∧
    (it.1 ∈ x.chunk.logged → x.chunk.soft < 7 → Gives (.softError t false) s fun u => SameBytes s u ∧ ∃ y, u.warp? w = some y ∧
      y.arch = x.chunk.start ∧ y.chunk.writes = x.chunk.kept ∧ y.chunk.soft = x.chunk.soft + 1) ∧
    ∀ l, s.launch? w.launch = some l →
      Gives (.softError t true) s fun u => SameBytes s u ∧ u.launch? w.launch = some { l with corr := l.corr + 1 }) ∧
  (∀ (s : State) (w : WarpId) (n : Nat) (x : Warp), s.warp? w = some x →
    (Item.spad n ∉ x.chunk.logged → Gives (.softError (.spad w n) false) s fun u => SameBytes s u ∧ u.launches = s.launches ∧
      u.isPoisoned { space := .spad w.launch w.group, addr := 4 * n } = true) ∧
    (Item.spad n ∈ x.chunk.logged → x.chunk.soft < 7 → Gives (.softError (.spad w n) false) s fun u => SameBytes s u ∧
      ∃ y, u.warp? w = some y ∧ y.arch = x.chunk.start ∧ y.chunk.writes = x.chunk.kept ∧ y.chunk.soft = x.chunk.soft + 1) ∧
    (x.chunk.soft < 7 → Gives (.softError (.l1Spec w) false) s fun u => SameBytes s u ∧
      ∃ y, u.warp? w = some y ∧ y.arch = x.chunk.start ∧ y.chunk.writes = x.chunk.kept ∧ y.chunk.soft = x.chunk.soft + 1)) ∧
  (∀ (s : State) (w : WarpId) (l : Launch) (g : Group) (x : Warp), s.finds w l g x →
    (Gives (.softError (.undo w false) false) s fun u => SameBytes s u ∧ u.launch? w.launch = some { l with corr := l.corr + 1 }) ∧
    (s.sound l → Gives (.softError (.undo w true) false) s fun u => SameBytes s u ∧ ∃ l', u.launch? w.launch = some l' ∧
      l'.fault = some { code := .poison, lane := 0, warp := w.warp, group := w.group, pc := x.chunk.firstPc, addr := 0, ucode := 0 })) ∧
  (∀ (s : State) (a : Nat),
    let x : Loc := { space := .dev, addr := a / 128 * 128 }
    Gives (.softError (.l1Dirty { space := .dev, addr := a }) false) s fun u => SameBytes s u ∧ u.isPoisoned x = true ∧
      u.isPoisoned (x.plus 64) = true ∧ ∀ d ∈ u.dirty, d.line ≠ x) ∧
  (∀ (s : State) (y : Loc),
    Gives (.softError (.memory y) false) s fun t => SameBytes s t ∧ t.isPoisoned y = true ∧ t.launches = s.launches) ∧
  (∀ (s : State) (l g n : Nat) (y : Group) (k : Tile), s.group? l g = some y → y.tiles[n]? = some k →
    Gives (.softError (.tile l g n) false) s fun t => SameBytes s t ∧ ∃ z, t.group? l g = some z ∧ z.tiles[n]? = some { k with poison := true }) ∧
  (∀ (s : State) (a : AgentId), a ∉ s.lost → (∀ e, a ≠ .engine e) →
    (s.lossHeld a = false →
      Gives (.agentDeadlineExpiry a) s fun t => a ∈ t.lost ∧ t.incOf a = s.incOf a + 1 ∧ SameBytes s t ∧
        ∀ n l, a = .core n → s.sound l → (∃ g ∈ l.groups, g.resident = true ∧ g.core = n) →
          ∃ l' f, t.launch? l.num = some l' ∧ l'.fault = some f ∧ f.code = .agentLost ∧
            (∃ g ∈ l.groups, g.resident = true ∧ g.core = n ∧ g.index = f.group) ∧
            ∀ g ∈ l.groups, g.resident = true → g.core = n → f.group ≤ g.index) ∧
    (s.lossHeld a = true →
      Gives (.agentDeadlineExpiry a) s fun t => t.lost = s.lost ∧ SameBytes s t ∧ .agentDeadlineExpiry a ∈ t.deferred)) ∧
  (∀ (s : State) (e : EngineId), AgentId.engine e ∉ s.lost → s.lossHeld (.core e.core) = false →
    Gives (.agentDeadlineExpiry (.engine e)) s fun t => AgentId.engine e ∈ t.lost ∧ SameBytes s t ∧
      if (s.engine e).reset = true ∧ (s.engine e).mismatched = true then AgentId.core e.core ∈ t.lost
      else ∀ b, b ≠ .engine e → (b ∈ t.lost ↔ b ∈ s.lost)) ∧
  (∀ (s : State) (a : AgentId) (inc : BitVec 16),
    exec (.staleIncarnationMessage a inc) s = .next (if inc = s.incOf a then s else { s with droppedLog := a :: s.droppedLog })) ∧
  (∀ (s : State) (a : AgentId),
    Gives (.agentReinstatement a true) s fun t => a ∉ t.lost ∧ t.incarn = s.incarn ∧ (∀ b, b ≠ a → (b ∈ t.lost ↔ b ∈ s.lost))) ∧
  (∀ (s : State) (a : AgentId), exec (.agentReinstatement a false) s = .next s)

/-! ### The outside world -/

/-- R187, R325, R389 to R391, R394, R396, R397, R399: before DEVREADY the host's accesses are answered with poison (a peer's too,
which is the model's choice: log 13) and a configuration request with retry status, and a host whose link is down is answered
with nothing; outside the decoder's range a host's read gives zeros and its write is ignored; a read of a page that admits its
reader answers the committed bytes, or poison for poisoned ones; a refused access changes no byte and is logged; a write puts its
bytes in the order; a BAR reads as its function has it; a peer's access waits for what the host holds, and its completion for
the port; a snoop takes the line from the bridge; flow control, and from step 5 of a bring-up on each direction's training states,
follow their messages. What
of it the manual leaves open is the model's choice: logs 1, 13, 22 and 26. -/
def Obligations.OutsideEvents : Prop :=
  (∀ (s : State) (pa : Nat) (how : HostRead), s.hostThere = false →
    exec (.hostMemRead pa how) s = .next { s with answer := .none }) ∧
  (∀ (s : State) (pa : Nat) (data : List Byte), s.hostThere = false →
    exec (.hostMemWrite pa data) s = .next { s with answer := .none }) ∧
  (∀ (s : State) (pa : Nat) (how : HostRead), s.hostThere = true → s.devready = false →
    exec (.hostMemRead pa how) s = .next { s with answer := .poison }) ∧
  (∀ (s : State) (pa : Nat) (data : List Byte), s.hostThere = true → s.devready = false →
    exec (.hostMemWrite pa data) s = .next { s with answer := .poison }) ∧
  (∀ (s : State) (pa : Nat) (how : HostRead), s.hostThere = true → s.devready = true → Config.dramBytes ≤ pa / 64 * 64 →
    exec (.hostMemRead pa how) s = .next { s with answer := .data (List.replicate 64 0) }) ∧
  (∀ (s : State) (pa : Nat) (data : List Byte), s.hostThere = true → s.devready = true → Config.dramBytes ≤ pa →
    exec (.hostMemWrite pa data) s = .next { s with answer := .data [] }) ∧
  (∀ (s : State) (pa : Nat) (how : HostRead), s.hostThere = true → s.devready = true → pa / 64 * 64 < Config.dramBytes →
    s.admits true (pa / 64 * 64) = false → Gives (.hostMemRead pa how) s fun t => Refused s t) ∧
  (∀ (s : State) (pa : Nat) (how : HostRead), let a := pa / 64 * 64
    s.hostThere = true → s.devready = true → s.admits true a = true →
    Gives (.hostMemRead pa how) s fun t => SameBytes s t ∧
      ((∀ i, i < 64 → s.isPoisoned (s.devLoc (a + i)) = false) →
        t.answer = .data ((upTo 64).map fun i => s.byteAt (s.devLoc (a + i)))) ∧
      ((∃ i, i < 64 ∧ s.isPoisoned (s.devLoc (a + i)) = true) → t.answer = .poison) ∧ (how = .plain → t.halves = s.halves) ∧
      (how = .shared → getKey (s.devLoc a) t.halves = some .shared) ∧ (how = .owned → getKey (s.devLoc a) t.halves = some .owned)) ∧
  (∀ (s u : State) (pa : Nat) (data : List Byte),
    let bs := data.take (64 - pa % 64)
    let ws := bs.zipIdx.map fun p => (s.devLoc (pa + p.2), p.1)
    s.hostThere = true → s.devready = true → s.admits true pa = true → s.stepOpenAt (pa / 65536) = false →
    (s.sourceHeld none (ws.map fun p => p.1) = false → s.singleton ws = .done u →
      Gives (.hostMemWrite pa data) s fun t => SameBytes u t ∧ t.answer = .data []) ∧
    (s.sourceHeld none (ws.map fun p => p.1) = true → exec (.hostMemWrite pa data) s = .next s.hold)) ∧
  (∀ (s : State) (pa : Nat) (data : List Byte), s.hostThere = true → s.devready = true → pa < Config.dramBytes →
    s.admits true pa = false ∨ s.stepOpenAt (pa / 65536) = true → Gives (.hostMemWrite pa data) s fun t => Refused s t) ∧
  (∀ (s : State) (pa : Nat), s.hostThere = true →
    Gives (.hostSnoop pa none) s fun t => SameBytes s t ∧ ∀ x ∈ t.bridge, x.addr ≠ pa / 64 * 64) ∧
  (∀ (s : State) (pa : Nat) (bs : List Byte), s.hostThere = true →
    exec (.hostSnoop pa (some bs)) s = .next { s with
      bridge := s.bridge.filter fun x => x.addr ≠ pa / 64 * 64, hostMem := memPutBytes s.hostMem (pa / 64 * 64) (bs.take 64) }) ∧
  (∀ (s : State) (fn off : Nat), s.hostThere = true →
    (s.devready = false → exec (.configRequest fn (.config off)) s = .next { s with answer := .retry }) ∧
    (s.devready = true → Gives (.configRequest fn (.config off)) s fun t => SameBytes s t ∧
      if fn = 0 ∨ (fn ≤ 16 ∧ (s.part (fn - 1)).exists_ = true) then ∃ bs, t.answer = .data bs ∧ bs.length = 4 else t.answer = .none) ∧
    (∀ n, exec (.configRequest fn (.bar n off)) s = .next { s with answer := .data (leBytes 8 (s.barWord fn n (off / 8 * 8))) }) ∧
    s.barWord 0 0 0 = s.status ∧ s.barWord 0 0 8 = s.lastErr ∧
    (off < 0x10000 → s.barWord 0 0 (0x10000 + off) = s.adminWord off) ∧
    (fn ≠ 0 → fn ≤ 16 → (s.part (fn - 1)).exists_ = true → off < 0x10000 → s.barWord fn 0 off = s.mailWord (fn - 1) off) ∧
    ∀ n, fn ≠ 0 → (fn ≤ 16 → (s.part (fn - 1)).exists_ = false) → s.barWord fn n off = 0) ∧
  (∀ (s : State) (entry : Nat), s.hostThere = true → Gives (.cdatRequest entry) s fun t => SameBytes s t ∧
    if s.devready = true then ∃ bs, t.answer = .data bs ∧ bs.length = 4 else t.answer = .retry) ∧
  (∀ (s : State) (peer pa n : Nat), AgentId.peer peer ∉ s.lost → s.devready = true → s.admitsAll false pa n = true →
    (s.hostHas pa n = false → s.answersStopped peer = false → (∀ i, i < n → s.isPoisoned (s.devLoc (pa + i)) = false) →
      Gives (.peerAccessRequest peer pa (.load n)) s fun t =>
        t.answer = .data ((upTo n).map fun i => s.byteAt (s.devLoc (pa + i))) ∧ SameBytes s t) ∧
    (s.hostHas pa n = false → s.answersStopped peer = false → (∃ i, i < n ∧ s.isPoisoned (s.devLoc (pa + i)) = true) →
      Gives (.peerAccessRequest peer pa (.load n)) s fun t => t.answer = .poison ∧ SameBytes s t) ∧
    (s.hostHas pa n = true ∨ s.answersStopped peer = true → exec (.peerAccessRequest peer pa (.load n)) s = .next s.hold)) ∧
  (∀ (s u : State) (peer pa : Nat) (bs : List Byte), let ws := bs.zipIdx.map fun p => (s.devLoc (pa + p.2), p.1)
    AgentId.peer peer ∉ s.lost → s.devready = true → s.admitsAll false pa bs.length = true → s.stepOpenAt (pa / 65536) = false →
    s.answersStopped peer = false → s.hostHas pa bs.length = false → s.sourceHeld none (ws.map fun p => p.1) = false →
    s.singleton ws = .done u →
    Gives (.peerAccessRequest peer pa (.store bs)) s fun t => SameBytes u t ∧ t.answer = .data []) ∧
  (∀ (s : State) (peer pa n : Nat), AgentId.peer peer ∉ s.lost → s.answersStopped peer = false → s.devready = true →
    s.admitsAll false pa n = false → Gives (.peerAccessRequest peer pa (.load n)) s fun t => Refused s t) ∧
  (∀ (s : State) (peer pa : Nat) (bs : List Byte), AgentId.peer peer ∉ s.lost → s.answersStopped peer = false → s.devready = true →
    s.admitsAll false pa bs.length = false ∨ s.stepOpenAt (pa / 65536) = true →
    Gives (.peerAccessRequest peer pa (.store bs)) s fun t => Refused s t) ∧
  (∀ (s : State) (peer pa : Nat) (acc : PeerAccess), AgentId.peer peer ∉ s.lost → s.answersStopped peer = false → s.devready = false →
    exec (.peerAccessRequest peer pa acc) s = .next { s with answer := .poison }) ∧
  (∀ (s : State) (peer pa : Nat) (acc : PeerAccess), AgentId.peer peer ∈ s.lost →
    exec (.peerAccessRequest peer pa acc) s = .next { s with droppedLog := .peer peer :: s.droppedLog }) ∧
  (∀ (s : State) (port cls : Nat), port < 24 → cls < 4 →
    Gives (.flowXoff port cls) s fun t => (port, cls) ∈ t.xoff ∧ ∀ p, p ≠ (port, cls) → (p ∈ t.xoff ↔ p ∈ s.xoff)) ∧
  (∀ (s : State) (port cls : Nat),
    Gives (.flowXon port cls) s fun t => (port, cls) ∉ t.xoff ∧ ∀ p, p ≠ (port, cls) → (p ∈ t.xoff ↔ p ∈ s.xoff)) ∧
  (∀ (s : State), let out := Config.linkSide s.steps
    let dir (x : State) : LinkDir := if out then x.linkOut else x.linkIn
    let other (x : State) : LinkDir := if out then x.linkIn else x.linkOut
    5 ≤ s.bringStep → (dir s).state ≠ .active → (dir s).state ≠ .down →
    Gives .trainingStateTimeout s fun t => (dir t).restarts = (dir s).restarts + 1 ∧ SameBytes s t ∧ other t = other s ∧
      (dir t).state = (if (dir s).restarts = 2 then .down else .detect) ∧ ((dir t).state = .down → t.lwidth = 0)) ∧
  (∀ (s : State), let out := Config.linkSide s.steps
    let dir (x : State) : LinkDir := if out then x.linkOut else x.linkIn
    let other (x : State) : LinkDir := if out then x.linkIn else x.linkOut
    5 ≤ s.bringStep → Gives .linkRetrain s fun t => SameBytes s t ∧
      (s.linkIn.state = .active → s.linkOut.state = .active → t.linkIn.state = .detect ∧ t.linkOut.state = .detect) ∧
      (¬(s.linkIn.state = .active ∧ s.linkOut.state = .active) →
        dir t = (dir s).exit (Config.linkLanes s.steps) ∧ other t = other s ∧
        (t.linkIn.state = .active → t.linkOut.state = .active → t.lrate = (t.linkIn.slow || t.linkOut.slow) ∧
          (t.linkIn.width = 32 → t.linkOut.width = 32 → t.lwidth = 3)))) ∧
  (∀ s : State, s.bringStep < 5 → exec .trainingStateTimeout s = .next s ∧ exec .linkRetrain s = .next s) ∧
  (∀ (d : LinkDir) (lanes : BitVec 32), let e := d.exit lanes
    let pass (n : Nat) : Prop := ∀ k, k < n → lanes.getLsbD k = true
    let here (n : Nat) : Prop := ∀ k, k < n → d.present.getLsbD k = true
    (d.state = .active ∨ d.state = .down → e = d) ∧
    (d.state = .detect → e.state = if 8 ≤ ((upTo 32).filter fun k => lanes.getLsbD k).length then .align else .detect) ∧
    (∀ n ∈ [32, 16, 8], d.state = .align → d.slow = false ∨ n = 32 → here n → (∀ m ∈ [32, 16, 8], n < m → ¬here m) →
      e.state = .equalise ∧ e.width = n) ∧
    (d.state = .align → ¬here 8 → e = d) ∧
    (d.state = .equalise → pass d.width → e.state = .rate) ∧
    (d.state = .rate → d.slow = true → pass 32 → e.state = .active ∧ e.restarts = 0) ∧
    (∀ n ∈ [32, 16, 8], d.state = .rate → d.slow = false → n ≤ d.width → pass n →
      (∀ m ∈ [32, 16, 8], n < m → m ≤ d.width → ¬pass m) → e.state = .active ∧ e.restarts = 0 ∧ e.width = n) ∧
    (d.state = .rate → d.slow = false → ¬pass 8 → e.state = .align ∧ e.slow = true)) ∧
  (∀ (s : State) (fabric : Bool) (port : Nat), Gives (.linkLevelRetry fabric port) s fun t =>
    t = { s with linkRetries := s.linkRetries + 1 })

/-- R12, R328, R330 to R332, R398, R401: bring-up begins at step 1, and goes on by one step at a time; seven steps that meet no
failure leave the device ready, every tier memory-only, the firmware context alone, its image in class-3 pages, no launch, and
the images in the Roll; one that fails at a step shows it and goes no further; a tier above its warning temperature gates the
module, and the gating ends with its causes; a trip or a power loss takes the power and keeps the Roll; a verified firmware
image is measured, logged and placed. What of it the manual leaves open is the model's choice: logs 3, 5, 12 and 27. -/
def Obligations.PowerEvents : Prop :=
  (∀ (s : State) (o : BringUp),
    Gives (.bringUp o) s fun t => t.bringing = some o ∧ t.bringStep = 1 ∧ t.devready = false ∧ t.failed = false ∧ t.powered = true ∧
      t.contexts = [] ∧ t.launches = [] ∧ t.roll = s.roll ∧ t.mem = []) ∧
  (∀ (s t : State) (o : BringUp), exec (.bringUp o) s = .next t → (∀ k, 1 ≤ k → k ≤ 7 → bringFails o k = false) →
    o.fwBase + o.fwPages + Config.rotPages ≤ Config.dramPages →
    let u := Nat.repeat State.bringOn 7 t
    u.devready = true ∧ u.failed = false ∧ u.bringStep = 8 ∧ u.bringing = none ∧ u.roles = 0 ∧
      u.contexts.map (·.key) = [firmwareCtx] ∧ u.launches = [] ∧ u.ops = [] ∧ u.lwidth = o.lwidth.val ∧ u.fports = o.fports ∧
      s.roll <+: u.roll ∧ (s.roll.length + 3 ≤ Config.rollEntries → u.roll.length = s.roll.length + 3) ∧
      u.meas[2]? = some (sha384 (List.replicate 48 0 ++ sha384 o.fwImage)) ∧
      (∀ p, p < 16 → (u.part p).exists_ = false) ∧
      (∀ n, n < o.fwPages + Config.rotPages → (u.rotOf (o.fwBase + n)).cls = 3) ∧
      (∀ n, n < o.fwPages → u.measured (o.fwBase + n) = true) ∧
      (∀ k, k < 65536 * o.fwPages → memGet u.mem (o.fwBase * 65536 + k) = o.fwImage.getD k 0) ∧
      ∀ a, a < o.fwBase * 65536 → memGet u.mem a = 0) ∧
  (∀ (s t : State) (o : BringUp) (k : Nat), exec (.bringUp o) s = .next t → 1 ≤ k → k ≤ 6 → bringFails o k = true →
    (∀ j, 1 ≤ j → j < k → bringFails o j = false) →
    let u := Nat.repeat State.bringOn k t
    u.devready = false ∧ u.failed = true ∧ u.bringStep = k ∧ u.contexts = [] ∧ s.roll <+: u.roll ∧ u.bringOn = u) ∧
  (∀ (s : State) (n : Fin 8), Gives (.thermalGating (some n)) s fun t => t.thermwarn = true ∧ t.gated = true ∧ SameBytes s t ∧
    t.launches = s.launches) ∧
  (∀ s : State, Gives (.thermalGating none) s fun t => t.gated = true ∧ t.hotTiers = s.hotTiers ∧ t.launches = s.launches) ∧
  (∀ (s : State) (n : Fin 8), s.overPower = false → s.hotTiers = BitVec.ofNat 8 (2 ^ n.val) →
    Gives (.thermalGatingRelease (some n)) s fun t => t.thermwarn = false ∧ t.gated = false) ∧
  (∀ s : State, s.hotTiers = 0 → Gives (.thermalGatingRelease none) s fun t => t.thermwarn = false ∧ t.gated = false) ∧
  (∀ (s : State) (n : Fin 8), Gives (.thermalTrip n) s fun t => t.powered = false ∧ t.tripped = true ∧ t.roll = s.roll ∧ t.mem = []) ∧
  (∀ s : State, Gives .modulePowerLoss s fun t => t.powered = false ∧ t.roll = s.roll ∧ t.mem = [] ∧ t.launches = []) ∧
  (∀ (s : State) (pa : Nat) (image : List Byte), s.rollFree ≠ 0 → s.meas.length = 8 →
    (∀ n, pa / 65536 ≤ n → n < (pa + image.length + 65535) / 65536 → (s.rotOf n).cls = 3) →
    Gives (.firmwareLoad pa image true) s fun t => t.roll.length = s.roll.length + 1 ∧ t.mem = memPutBytes s.mem pa image ∧
      (∀ n, pa / 65536 ≤ n → n < (pa + image.length + 65535) / 65536 → t.measured n = true) ∧
      t.meas.getD 2 [] = sha384 (s.meas.getD 2 [] ++ sha384 image) ∧ ∀ n, n ≠ 2 → t.meas.getD n [] = s.meas.getD n []) ∧
  (∀ (s : State) (pa : Nat) (image : List Byte), exec (.firmwareLoad pa image false) s = .next s)

/-- R329, R330, R332: the exchange goes through its states in order; a request out of order, an offer without ECDSA P-384 and
SHA-384, and a challenge of another slot than 0 are answered with nothing; what is signed
with the identity key appends a key-use entry, and a full Roll refuses it; a session is opened, finished and ended under its
own number. What of it the manual leaves open is the model's choice: logs 1 and 29. -/
def Obligations.AttestationEvents : Prop :=
  (∀ (s : State) (a : SpdmArgs), Gives (.getVersion a) s fun t => t.spdm.version = true ∧ t.spdm.caps = false ∧ t.spdm.algs = false ∧
    t.roll = s.roll) ∧
  (∀ (s : State) (a : SpdmArgs), Gives (.getCapabilities a) s fun t => t.spdm.caps = (s.spdm.caps || s.spdm.version) ∧
    (s.spdm.version = false → t.spdm.last = []) ∧ t.roll = s.roll) ∧
  (∀ (s : State) (a : SpdmArgs), Gives (.negotiateAlgorithms a) s fun t =>
    let ok := s.spdm.version && s.spdm.caps && offered a.payload
    t.spdm.algs = (s.spdm.algs || ok) ∧ t.roll = s.roll ∧ t.spdm.last = if ok then leBytes 4 0x80 ++ leBytes 4 2 else []) ∧
  (∀ (s : State) (a : SpdmArgs), Gives (.getDigests a) s fun t =>
    let d := if s.spdm.version && s.spdm.caps && s.spdm.algs then sha384 (Config.attestBytes 0) else []
    t = { s with spdm := { s.spdm with last := d } }) ∧
  (∀ (s : State) (a : SpdmArgs), Gives (.getCertificate a) s fun t =>
    let d := if s.spdm.version && s.spdm.caps && s.spdm.algs && a.param == 0 then Config.attestBytes 0 else []
    t = { s with spdm := { s.spdm with last := d } }) ∧
  (∀ (s : State) (a : SpdmArgs), s.spdm.version = true → s.spdm.caps = true → s.spdm.algs = true → s.rollFree ≠ 0 →
    (let m := a.payload ++ Config.attestBytes s.steps
     Gives (.challenge a) s fun t =>
      if a.param = 0 then t.spdm.last = m ++ Config.signature m ∧ ∃ e, t.roll = s.roll ++ [e] ∧ e.type = 6 ∧ e.src = 0 ∧ e.beat = s.beat
      else t.spdm.last = [] ∧ t.roll = s.roll) ∧
    (let m := if a.param % 256 = 0xFF then (upTo 6).flatMap (fun k => s.measurement (k + 1)) else s.measurement (a.param % 256)
     Gives (.getMeasurements a) s fun t =>
      if a.param.testBit 8 then t.spdm.last = m ++ a.payload ++ Config.signature (m ++ a.payload) ∧ t.roll.length = s.roll.length + 1
      else t.spdm.last = m ∧ t.roll = s.roll) ∧
    Gives (.keyExchange a) s fun t => t.spdm.session = some a.param ∧ t.roll.length = s.roll.length + 1) ∧
  (∀ (s : State) (a : SpdmArgs), s.rollFree = 0 → s.spdm.version = true → s.spdm.caps = true → s.spdm.algs = true →
    (Gives (.challenge a) s fun t => t.spdm.last = [] ∧ t.roll = s.roll) ∧
    Gives (.keyExchange a) s fun t => t.spdm.last = [] ∧ t.roll = s.roll ∧ t.spdm.session = s.spdm.session) ∧
  (∀ (s : State) (a : SpdmArgs) (n : Nat), s.spdm.session = some n → a.session = some n →
    (Gives (.finish a) s fun t => t.spdm.session = some n ∧ (a.payload ≠ [] → t.spdm.ideKey = true)) ∧
    Gives (.endSession a) s fun t => t.spdm.session = none) ∧
  (∀ (s : State) (a : SpdmArgs), a.session = none ∨ a.session ≠ s.spdm.session →
    (Gives (.finish a) s fun t => t = { s with spdm := { s.spdm with last := [] } }) ∧
    Gives (.endSession a) s fun t => t = { s with spdm := { s.spdm with last := [] } })

/-! ### Requests and control space -/

/-- R217, R270, R291, R299, R316, R333, R348, R349, R363, R365: requests over contexts and queues: a context and a queue
come to exist, with the limits and settings that the request gives; a context with a launch, or a queue with one, is in use;
a context without class-1 pages is released at once, with an entry in the Roll; a schedule's entries are copied, and wait for the
next admission; a request waits for the one that its mailbox serves; an unknown code is malformed. What of it the
manual leaves open is the model's choice: logs 22 to 24. -/
def Obligations.ContextRequests : Prop :=
  (∀ (s : State) (rq : Req) (n root : Nat) (repro exact : Bool), s.takes rq → n < 64 → root % 4096 = 0 → root < 2 ^ 52 →
    s.context? { part := rq.part, ctx := n, fw := false } = none →
    Gives (.ctxCreate rq n repro exact root) s fun t => Answered t rq 0 ∧ ∃ c,
      t.context? { part := rq.part, ctx := n, fw := false } = some c ∧ c.repro = repro ∧ c.exact = exact ∧ c.root = root ∧
      c.debug = false ∧ c.phase = .running) ∧
  (∀ (s : State) (rq : Req) (n : Nat) (c : Context), s.takes rq → s.context? { part := rq.part, ctx := n, fw := false } = some c →
    (s.hasLaunch c.key = true → Gives (.ctxRelease rq n) s fun t => Answered t rq 4 ∧ t.contexts = s.contexts) ∧
    (s.hasLaunch c.key = false → c.scrubbing = false → s.rollFree ≠ 0 → s.ctxPages c.key = [] →
      Gives (.ctxRelease rq n) s fun t => Answered t rq 0 ∧ t.context? c.key = none ∧ t.roll.length = s.roll.length + 1 ∧
        ∀ q ∈ t.queues, q.ctx ≠ c.key)) ∧
  (∀ (s : State) (rq : Req) (n idx : Nat) (header : DWord), s.takes rq →
    (s.context? { part := rq.part, ctx := n, fw := false }).isSome = true → idx < 256 → header.toNat % 512 = 0 →
    canonical header.toNat = true → s.queue? ⟨rq.part, idx⟩ = none →
    Gives (.queueReg rq n idx header idx) s fun t => Answered t rq 0 ∧ ∃ q, t.queue? ⟨rq.part, idx⟩ = some q ∧
      q.header = header.toNat ∧ q.slot = none ∧ q.ctx = { part := rq.part, ctx := n, fw := false }) ∧
  (∀ (s : State) (rq : Req) (n idx : Nat) (q : Queue), s.takes rq → s.queue? ⟨rq.part, idx⟩ = some q →
    q.ctx = { part := rq.part, ctx := n, fw := false } →
    Gives (.queueUnreg rq n idx) s fun t => if ∃ l ∈ s.launches, l.queue = q.key then Answered t rq 4 ∧ t.queues = s.queues
      else Answered t rq 0 ∧ t.queue? ⟨rq.part, idx⟩ = none ∧ ∀ k, q.slot = some k → k ∉ t.slots) ∧
  (∀ (s : State) (rq : Req) (pool slice ext : Nat), s.takes rq → 850000 ≤ pool → pool ≤ 850000000 → 85000 ≤ slice → slice ≤ 85000000 →
    Gives (.setLimits rq pool slice ext) s fun t => Answered t rq 0 ∧ (t.part rq.part).poolWait = pool ∧
      (t.part rq.part).slice = slice ∧ (t.part rq.part).extWait = ext) ∧
  (∀ (s : State) (rq : Req) (n op : Nat) (c : Context), s.takes rq → s.context? { part := rq.part, ctx := n, fw := false } = some c →
    (op ≤ 1 → Gives (.debugCtl rq n op) s fun t => Answered t rq 0 ∧ ∃ y, t.context? c.key = some y ∧ (y.debug = true ↔ op = 1)) ∧
    (op = 2 → c.phase = .halted → Gives (.debugCtl rq n op) s fun t => Answered t rq 0 ∧
      ∃ y, t.context? c.key = some y ∧ y.phase = .saved)) ∧
  (∀ (s : State) (rq : Req) (n k : Nat) (addr : DWord) (c : Context), s.takes rq →
    s.context? { part := rq.part, ctx := n, fw := false } = some c →
    (addr = 0 → Gives (.schedSet rq n addr k) s fun t => Answered t rq 0 ∧ ∃ y, t.context? c.key = some y ∧ y.sched = [] ∧ y.schedNext = none) ∧
    (addr ≠ 0 → k ≤ 65536 → addr.toNat % 16 = 0 → s.assigned rq.part addr.toNat (addr.toNat + 16 * k) = true →
      schedOk 0 (s.schedTable addr.toNat k) = true →
      (∀ j, j < 2 * k → let x := s.devLoc (addr.toNat + 8 * j); s.hostOwns x = false ∧ s.isPoisoned x = false) →
      Gives (.schedSet rq n addr k) s fun t => Answered t rq 0 ∧ ∃ y, t.context? c.key = some y ∧ y.sched = c.sched ∧
        y.schedNext = some ((s.schedTable addr.toNat k).map fun e => (BitVec.ofNat 64 e.1, BitVec.ofNat 64 e.2)))) ∧
  (∀ (s : State) (rq : Req) (n : Nat), rq.admin = false → s.hears rq = true → s.serving rq = true →
    exec (.ctxRelease rq n) s = .next s.hold) ∧
  (∀ (s : State) (rq : Req) (code : Byte), s.takes rq → (code.toNat = 0 ∨ 13 < code.toNat) →
    Gives (.mailboxUnknownCode rq code) s fun t => Answered t rq 1 ∧ t.contexts = s.contexts ∧ SameBytes s t)

/-- R214, R216, R316, R326, R334: requests over memory: a region of a well-formed descriptor that meets no other takes the lowest
free index; a destroyed region is gone, and its pages wait for their scrub; granted and assigned pages take their class and
partition; freed pages wait for their scrub, and the freeing itself for an operation that has pinned one; TLB_INV leaves no entry
of the context's pages. What of it the manual leaves open is the model's choice: logs 22, 23 and 25. -/
def Obligations.MemoryRequests : Prop :=
  (∀ (s : State) (rq : Req) (n i : Nat) (a : RegionArgs) (r : Region), s.takes rq → regionOf n a = some r →
    (s.context? { part := rq.part, ctx := n, fw := false }).isSome = true →
    (∀ x ∈ (s.part rq.part).regions, r.meets x.2 = false) → (s.part rq.part).freeRegion = some i →
    r.vers = false → r.ext = false → r.fwin = none →
    Gives (.regionCreate rq n a) s fun t => Answered t rq 0 ∧ (t.part rq.part).regions = (s.part rq.part).regions ++ [(i, r)] ∧
      t.mem = s.mem) ∧
  (∀ (s : State) (rq : Req) (i : Nat) (r : Region), let z := s.putRequest rq 0x06
    s.takes rq → getKey i (s.part rq.part).regions = some r → z.pinned (z.regionPages rq.part r) = false → z.pinnedIn rq.part r = false →
    s.memOk = true → s.rotAt.isSome = true → (∀ pg ∈ z.regionPages rq.part r, pg < Config.dramPages) →
    Gives (.regionDestroy rq i) s fun t => Answered t rq 0 ∧ getKey i (t.part rq.part).regions = none ∧
      ∀ pg ∈ z.regionPages rq.part r, (t.rotOf pg).scrb = true) ∧
  (∀ (s : State) (rq : Req) (page n : Nat), s.takes rq → n ≠ 0 → rq.part < 16 → s.memOk = true →
    (∀ k, k < n → s.freePage (page + k) = true ∧ s.onChannels rq.part (page + k) = true) →
    Gives (.poolGrant rq page n) s fun t => Answered t rq 0 ∧ ∀ k, k < n → page + k ∈ (t.part rq.part).pool ∧
      t.rotOf (page + k) = { scrb := false, px := false, hx := false, ctx := 0, cls := 2, part := rq.part }) ∧
  (∀ (s : State) (rq : Req) (page n c : Nat) (hx px : Bool), s.takes rq → n ≠ 0 → rq.part < 16 → c < 64 → s.memOk = true →
    (s.context? { part := rq.part, ctx := c, fw := false }).isSome = true →
    (∀ k, k < n → s.freePage (page + k) = true ∧ s.onChannels rq.part (page + k) = true) →
    Gives (.pageAssign rq page n 1 c hx px) s fun t => Answered t rq 0 ∧
      ∀ k, k < n → t.rotOf (page + k) = { scrb := false, px := px, hx := hx, ctx := c, cls := 1, part := rq.part }) ∧
  (∀ (s : State) (rq : Req) (page n : Nat), let z := s.putRequest rq 0x09
    s.takes rq → n ≠ 0 → s.memOk = true →
    (∀ k, k < n → let e := s.rotOf (page + k); e.part = rq.part ∧ (e.cls = 1 ∨ e.cls = 2) ∧ e.scrb = false) →
    (∀ k, k < n → z.backs rq.part (page + k) = false) →
    (z.pinned (pageRange page n) = false →
      Gives (.pageFree rq page n) s fun t => Answered t rq 0 ∧
        ∀ k, k < n → (t.rotOf (page + k)).scrb = true ∧ page + k ∉ (t.part rq.part).pool) ∧
    (z.pinned (pageRange page n) = true →
      Gives (.pageFree rq page n) s fun t => t.waiting = true ∧ t.mem = s.mem ∧
        (t.part rq.part).serving = some (rq.tag, pageRange page n))) ∧
  (∀ (s : State) (rq : Req) (c va n : Nat) (all : Bool),
    let first := va % 2 ^ 57 / 65536
    s.takes rq → (s.context? { part := rq.part, ctx := c, fw := false }).isSome = true →
    State.pinnedVa (s.putRequest rq 0x0A) { part := rq.part, ctx := c, fw := false }
      (fun k => all || (decide (first ≤ k) && decide (k < first + n))) = false →
    Gives (.tlbInv rq c all va n) s fun t => Answered t rq 0 ∧ SameBytes s t ∧
      ∀ e ∈ t.tlb, e.ctx = { part := rq.part, ctx := c, fw := false } → all = false ∧ ¬(first ≤ e.page ∧ e.page < first + n))

/-- R19, R111, R291, R311 to R314, R319, R326, R327, R337, R338, R393, R396: a control write that passes its checks is performed
whole and clears LASTERR, one that covers a pinned page waits, and a refused one changes no more than LASTERR, which names the
offset and the cause; a change of a partition's quads drains the contexts with groups on them; the partition manager's requests
make the same writes; a role change begins by draining and ends by taking the new roles, with an entry in the Roll and the quads
of every partition without resident groups numbered anew. What of it the manual leaves open is the model's choice: logs 22 and
25. -/
def Obligations.ControlWrites : Prop :=
  (∀ (s : State) (off : Nat) (v : DWord),
    (∀ u, s.writeHeld off v.toNat = false → s.writeWord none off v.toNat = .ok u →
      exec (.controlRegisterWrite off v) s = .next { u with lastOff := 0, lastCause := 0 }) ∧
    (∀ n, s.writeHeld off v.toNat = false → s.writeWord none off v.toNat = .error n →
      exec (.controlRegisterWrite off v) s = .next { s with lastOff := BitVec.ofNat 32 off, lastCause := n }) ∧
    (s.writeHeld off v.toNat = true → exec (.controlRegisterWrite off v) s = .next s.hold)) ∧
  (∀ (s : State) (v : DWord),
    (s.pinnedLocs = [] → Gives (.rtinvWrite v) s fun t => t.tlb = [] ∧ t.lastCause = 0 ∧ SameBytes s t) ∧
    (s.pinnedLocs ≠ [] → exec (.rtinvWrite v) s = .next s.hold)) ∧
  (∀ (s : State) (v : DWord), s.roleChange = none → s.rolesOk (BitVec.ofNat 8 v.toNat) = true → s.rollFree ≠ 0 →
    Gives (.rolesWrite v) s fun t => t.roleChange = some (BitVec.ofNat 8 v.toNat) ∧ t.roles = s.roles ∧ t.lastCause = 0) ∧
  (∀ (s : State) (v : DWord), s.roleChange = none → s.rolesOk (BitVec.ofNat 8 v.toNat) = false →
    Gives (.rolesWrite v) s fun t => t = { s with lastOff := 0x20000, lastCause := 5 }) ∧
  (∀ (s : State) (r : BitVec 8), s.roleChange = some r → s.drained (s.roles ^^^ r) = true →
    Gives .roleChangeReEnumeration s fun t => t.roles = r ∧ t.roleChange = none ∧ t.roll.length = s.roll.length + 1 ∧ SameBytes s t ∧
      ((∀ x ∈ s.flushedLines (s.roles ^^^ r), s.recallHolders (x, 128) = []) →
        ∀ d ∈ t.dirty, (s.roles ^^^ r).getLsbD (tierOf d.core) = false) ∧
      ∀ p, p < s.parts.length →
        (t.part p).numbered = if s.groupsOf p = [] then (s.part p).owned r else (s.part p).numbered) ∧
  (∀ (s : State) (n : Fin 16) (v : DWord) (w : FWin), s.fwins[n.val]? = some w → w.en = false → v.toNat / 2 % 4 ≠ 3 → v.toNat % 2 = 0 →
    Gives (.fwinCtlWrite n v) s fun t => t.lastCause = 0 ∧ SameBytes s t ∧ t.fwins[n.val]? = some { w with
      malf := BitVec.ofNat 32 (v.toNat / 2 ^ 32), part := v.toNat / 2 ^ 8 % 16, fmt := v.toNat / 2 % 4, en := false }) ∧
  (∀ (s : State) (p : Fin 16) (off : Nat) (v : DWord), off % 8 = 0 → off ≤ 0x418 → p.val < s.parts.length →
    s.ownCause p.val ((s.part p.val).setBlock off v.toNat) = 0 → s.writeHeld (0x10000 + 0x800 * p.val + off) v.toNat = false →
    let b := (s.part p.val).setBlock off v.toNat
    Gives (.ownershipWrite p off v) s fun t => t.lastCause = 0 ∧
      (t.part p.val = if s.groupsOf p.val = [] then { b with numbered := b.owned s.roles } else b) ∧
      (b.quads ≠ (s.part p.val).quads → ∀ x ∈ s.groupsOf p.val, (s.context? x.1.ctx).isSome = true → t.phaseOf x.1.ctx ≠ .running) ∧
      ∀ q, q ≠ p.val → t.part q = s.part q) ∧
  (∀ (s : State) (p : Fin 16) (off : Nat) (v : DWord) (n : Nat), off % 8 = 0 → off ≤ 0x418 →
    s.ownCause p.val ((s.part p.val).setBlock off v.toNat) = n → n ≠ 0 →
    Gives (.ownershipWrite p off v) s fun t =>
      t = { s with lastOff := BitVec.ofNat 32 (0x10000 + 0x800 * p.val + off), lastCause := n }) ∧
  (∀ (s : State) (rq : Req) (p : Nat) (img : PartImage), s.takesAdmin rq → p < 16 → s.parts.length = 16 →
    (s.part p).exists_ = false → s.rollFree ≠ 0 →
    (let b := PartImage.partition img; s.ownCause p { b with numbered := b.owned s.roles } = 0) →
    Gives (.partCreate rq p img) s fun t => t.adminTag = rq.tag ∧ t.adminStatus = 0 ∧ (t.part p).exists_ = true ∧ (t.part p).key = true ∧
      (t.part p).quads = img.quads ∧ (t.part p).chans = img.chans ∧ (t.part p).slices = img.slices ∧ t.roll.length = s.roll.length + 1 ∧
      t.tlb = []) ∧
  (∀ (s : State) (rq : Req) (p : Nat), s.takesAdmin rq → p < 16 → s.parts.length = 16 → (s.part p).exists_ = true →
    (∀ c ∈ s.contexts, c.key.part ≠ p) → (∀ l ∈ s.launches, l.ctx.part ≠ p) → s.rollFree ≠ 0 →
    Gives (.partDestroy rq p) s fun t => t.adminTag = rq.tag ∧ t.adminStatus = 0 ∧ (t.part p).exists_ = false ∧ (t.part p).key = false ∧
      (t.part p).quads = 0 ∧ (t.part p).regions = [] ∧ t.roll.length = s.roll.length + 1) ∧
  (∀ (s : State) (rq : Req) (r : BitVec 8), s.takesAdmin rq → s.roleChange = none → s.rollFree ≠ 0 →
    Gives (.rolesSet rq r) s fun t => t.adminTag = rq.tag ∧
      if s.rolesOk r = true then t.adminStatus = 0 ∧ t.roleChange = some r
      else t.adminStatus = 3 ∧ t.lastCause = 5 ∧ t.roleChange = none) ∧
  (∀ (s : State) (rq : Req) (p : Nat) (v : DWord), s.takesAdmin rq → p < 16 → p < s.parts.length →
    s.ownCause p ((s.part p).setBlock 0x418 v.toNat) = 0 →
    Gives (.shareSet rq p v) s fun t => t.adminTag = rq.tag ∧ t.adminStatus = 0 ∧ (t.part p).share.toNat = v.toNat % 2 ^ 24) ∧
  (∀ (s : State) (rq : Req) (n : Nat) (masks : List (BitVec 24)), s.takesAdmin rq → n < 64 → masks.length = 64 →
    Gives (.routeSet rq n masks) s fun t => t.adminTag = rq.tag ∧ t.adminStatus = 0 ∧ t.pkg = n ∧ t.routes = masks)

/-! ### Encodings, the step, and the whole machine -/

/-- R41, R45, R46, R57, R61, R68, R69, R75, R368: words written out field by field from the encoding tables decode to the
instructions that they stand for. -/
def Obligations.DecodedWords : Prop :=
  -- IADD.U32 v1, v2, v3 under ?p7: frame 00, op 0x001, D 01, A 02, B 03, C 00, PN 0, P 7, M 0000
  decodeTableWord 64 0x0010_1020_3007_0000 = some (.iadd { g := ⟨7, false⟩, d := .v 1, a := .v 2, b := .v 3, c := .v 0
                                                           m := ⟨.u32, .rne, false, false, false, false, false, false, 0⟩ }) ∧
  -- BRA -2 under ?!p3: op 0x2C1, D 00, A 00, PN 1, P 3, IMM32 FFFFFFFE
  decodeTableWord 64 0x2C10_000B_FFFF_FFFE = some (.bra { g := ⟨3, true⟩, imm := 0xFFFFFFFE }) ∧
  -- MOVW s4: frame 10, op 0x026, D E4, A 00, P 7, low word 89ABCDEF; continuation frame 11, high word 01234567
  decodeTableWord 128 0xC000_0000_0123_4567_826E_4007_89AB_CDEF = some (.movw { g := ⟨7, false⟩, d := .s 4, imm := 0x0123456789ABCDEF }) ∧
  -- LD of 4 bytes to v8 from s10 with offset 0x1234: op 0x180, D 08, A EA, B 00, C 12, P 7, SZ 2, OFF 34
  decodeTableWord 64 0x1800_8EA0_0127_4034 = some (.ld { g := ⟨7, false⟩, data := .v 8, addr := .s 10, off := 0x1234, sz := 2
                                                         sx := false, hint := 0, col := false }) ∧
  -- a pair word with H0 the IADD of v1 and v2 and H1 empty: frame 01, op 01, D 01, A 02, X 00
  decodeTableWord 64 0x4080_8100_0000_0000 = some (.pairIadd { inH1 := false, d := .v 1, a := .v 2, x := 0, mate := none }) ∧
  -- NADD b1, b2, b3: op 0x05, BD 1, BA 2, BB 3
  decodeTableWord 32 0x14A6_0000 = some (.nadd 1 2 3) ∧
  -- a continuation where a lead word belongs, and an unassigned opcode
  decodeTableWord 64 0xC000_0000_0000_0000 = none ∧ decodeTableWord 64 0x3FF0_0000_0007_0000 = none

/-- R32 to R62, R159, R233, R368: the decoder gives every well-formed instruction back from the words that the encoder makes
of it, whatever follows them; an event has no word. What of it the manual leaves open is the model's choice: logs 11 and 58. -/
def Obligations.EncodingsRoundTrip : Prop :=
  ∀ i : Instr, i.wellFormed = true →
    match encode i with
    | .one w => w < 2 ^ 64 ∧ ∀ rest, decodeBytes (leBytes 8 w ++ rest) = .ok (i, 8)
    | .two w w2 => w < 2 ^ 64 ∧ w2 < 2 ^ 64 ∧ ∀ rest, decodeBytes (leBytes 8 w ++ leBytes 8 w2 ++ rest) = .ok (i, 16)
    | .nb w => w < 2 ^ 32 ∧ ∀ rest, decodeNbBytes (leBytes 4 w ++ rest) = .ok i
    | .event => True

/-- R74: a pair word with an unassigned pair code in either half, or with an empty opcode in a half whose other fields are not all
zero, decodes to no instruction, and its issue raises ILLEGAL_INSTR: in the launch, or in reproducible mode at the warp's turn. -/
def Obligations.UnassignedPairCodes : Prop :=
  let free (c : Nat) : Prop := (0x0E ≤ c ∧ c ≤ 0x1F) ∨ (0x28 ≤ c ∧ c ≤ 0x3F) ∨ (0x45 ≤ c ∧ c ≤ 0x47) ∨ (0x4C ≤ c ∧ c ≤ 0x5F) ∨
    (0x65 ≤ c ∧ c ≤ 0x7F)
  let refused (h : Nat) : Prop := free (bits h 24 7) ∨ (bits h 24 7 = 0 ∧ h % 2 ^ 24 ≠ 0)
  (∀ (w : Nat) (w2 : Option Nat), bits w 62 2 = 1 → refused (bits w 31 31) ∨ refused (bits w 0 31) →
    decoded (decodeCore w w2) = .illegalEncodingIssue .pairRule) ∧
  (∀ (s : State) (b : Iss), s.issueOf { g := { p := 7, neg := false } } = some b → b.l.fault = none → b.l.saveInvalid = false →
    b.w.fault = none →
    ∃ t x l, exec (.illegalEncodingIssue .pairRule) s = .next t ∧ t.warp? b.wid = some x ∧ t.launch? b.wid.launch = some l ∧
      (if b.repro then x.fault.map (·.code) = some .illegalInstr else l.fault.map (·.code) = some .illegalInstr))

/-- R41, R42, R187, R249, R366: a step whose turn is a warp's fetches at the lowest of its program counters, and runs the
instruction that the bytes there decode to, once the host has given back what it holds of them; a step whose turn is a stall's
runs the microinstruction at its UPC; another agent's step runs that event; what follows is the same for each: a request that
must wait is kept, and waits end. With nothing left on the agenda, everything that some agent can do comes next; bring-up, while
it lasts, goes on with each step. Three points are the model's choice: the agenda and its rounds (log 2), bring-up by one step with
each step (log 5), and a fetch of the newest committed bytes, where R44 also lets the old ones be fetched (log 66). -/
def Obligations.StepRunsDecoded : Prop :=
  (∀ (s : State) (rest : List Action) (id : WarpId) (l : Launch) (g : Group) (w : Warp) (pc : Nat) (lanes : LaneMask) (x : Xlate) (i : Instr),
    let u : State := { s with agenda := rest }
    let loaded (t : State) : State :=
      { t.mapWarp id (fun y => { y with chunk := { y.chunk with
          pages := (t.codePages l.ctx g.core pc).foldl (fun l n => insertNew n l) y.chunk.pages } }) with
        issuer := some { wid := id, pc := pc, lanes := lanes } }
    let u1 := x.s.fillLines [x.loc]
    s.powered = true → s.bringing = none → s.agenda = .issue id :: rest → s.finds id l g w → u.canIssue id = true →
    w.arch.pick = some (pc, lanes) → pc % 8 = 0 →
    (u.wordHeld l.ctx g.core pc = false → u.xlate l.ctx g.core pc .exec = .ok x → u1.isPoisoned x.loc = false → u1.refuses x.loc = false →
      (decodeBytes (u1.bytesAt x.loc 8) = .ok (i, 8) → step s = after i (exec i (loaded u1))) ∧
      (∀ y : Xlate, let u2 := y.s.fillLines [y.loc]
        u1.wordHeld l.ctx g.core (nextWord pc) = false → u1.xlate l.ctx g.core (nextWord pc) .exec = .ok y →
        u2.isPoisoned y.loc = false → u2.refuses y.loc = false → decodeBytes (u1.bytesAt x.loc 8 ++ u2.bytesAt y.loc 8) = .ok (i, 16) →
        step s = after i (exec i (loaded u2)))) ∧
    (u.wordHeld l.ctx g.core pc = true → step s = .next u.endStep)) ∧
  (∀ (s : State) (rest : List Action) (run stall : Nat) (r : Run) (x : StallRun) (i : Instr),
    let u : State := { s with agenda := rest, focus := some (run, stall) }
    s.powered = true → s.bringing = none → s.agenda = .stall run stall :: rest → u.focused = some (r, x) → u.runLive r = true →
    AgentId.stall stall ∉ s.lost →
    decodeNb ((s.nbStore.getD (stall / Config.stallsPerTier) []).getD x.upc (0, false)).1.toNat = .ok i →
    step s = after i (exec i u)) ∧
  (∀ (s : State) (rest : List Action) (i : Instr), s.powered = true → s.agenda = .event i :: rest →
    step s = after i (exec i (State.bringOn { s with agenda := rest, deferred := s.deferred.filter fun x => x ≠ i }))) ∧
  (∀ (s : State) (a : Action) (rest : List Action), s.agenda = [] → s.actions = a :: rest →
    step s = step { s with agenda := a :: rest }) ∧
  (∀ s : State, s.bringing = none → s.bringOn = s) ∧
  (∀ (i : Instr) (s t : State), after i (.next s) = .next t ↔
    t = State.endStep (if s.waiting = true then { s with waiting := false, deferred := s.deferred ++ [i] } else s))

/-- R120: a result outside its type's range is clamped with SAT, and wraps modulo two to the width without it; so do the integer
instructions that have SAT, with the two examples of the rule. -/
def Obligations.IntegerRanges : Prop :=
  (∀ (t : Ty) (v : Int), t.isFloat = false →
    let n : Int := (2 ^ t.bits : Nat)
    let lo : Int := if t.isSigned then -(n / 2) else 0
    let hi : Int := if t.isSigned then n / 2 - 1 else n - 1
    intElem t (intResult t true v) = max lo (min hi v) ∧ (intResult t false v : Int) = v % n) ∧
  (∀ a : LaneArgs, IntResult (.iadd a) a 1 a.m.sat (fun x y => x + y) ∧ IntResult (.isub a) a 1 a.m.sat (fun x y => x - y) ∧
    IntResult (.iadd64 a) a 2 a.m.sat (fun x y => x + y) ∧ IntResult (.isub64 a) a 2 a.m.sat (fun x y => x - y) ∧
    IntResult (.iabs a) a 0 a.m.sat (fun x _ => x.natAbs)) ∧
  intResult .u8x4 true (intElem .u8x4 0xF0 + intElem .u8x4 0x20) = 0xFF ∧
  intElem .i16x2 (intResult .i16x2 true (-32768 - 1)) = -32768

/-- R110, R324, R328, R330, R358, R391, R392, R398: the machine at power-on, in the values that the manual gives: the status word
and ROLES are zero, every page awaits its scrub, the measurement registers are zero, no window is enabled and no partition
exists. -/
def Obligations.ResetState : Prop :=
  State.reset.status = 0 ∧ State.reset.devready = false ∧ State.reset.roles = 0 ∧ State.reset.control 0x20000 = 0 ∧
  (∀ n, State.reset.rotOf n = { scrb := true, px := false, hx := false, ctx := 0, cls := 0, part := 0 }) ∧
  State.reset.meas = List.replicate 8 (List.replicate 48 0) ∧
  (∀ p, p < 16 → (State.reset.part p).exists_ = false ∧ (State.reset.part p).quads = 0) ∧
  (∀ w ∈ State.reset.fwins, w.en = false) ∧ (∀ a, State.reset.incOf a = 0) ∧ State.reset.lost = [] ∧
  State.reset.contexts = [] ∧ State.reset.launches = [] ∧ State.reset.beat = 0 ∧
  State.reset.memOk = true ∧ RolesLegal State.reset.roles

/-- R23, R180 (log 4): every step keeps device, host and peer memory in canonical form. -/
def Obligations.StepKeepsMemory : Prop := ∀ s t : State, s.memOk = true → step s = .next t → t.memOk = true

/-- R332: no step of any agent rewrites or removes an entry of the Assize Roll. -/
def Obligations.RollOnlyGrows : Prop := ∀ s t : State, step s = .next t → s.roll <+: t.roll

/-- R15: from a legal role assignment, with no illegal one in progress, every step leads to such another. -/
def Obligations.RolesStayLegal : Prop :=
  ∀ s t : State, RolesLegal s.roles → (∀ r, s.roleChange = some r → RolesLegal r) → step s = .next t →
    RolesLegal t.roles ∧ ∀ r, t.roleChange = some r → RolesLegal r
end

