-- ==== Sys2Proof/Laws/Issue.lean ====
section
/-! SUPPORT. The law of an issue: one that runs and fits completes, and leaves the machine as its effect made it but for what
counting the issue changes. Finding what an update has changed. -/

open Sys2Proof Sys2Proof.Machine

namespace Sys2Proof.Machine

theorem State.issueOf_eq {s : State} {k : Kind} {b : Iss} (h : s.issueOf k = some b) :
    b.s = s.unissued ∧ b.irrev = false ∧ s.warp? b.wid = some b.w := by
  simp only [State.issueOf, Option.bind_eq_some_iff, Option.map_eq_some_iff] at h
  obtain ⟨x, -, l, hl, g, hg, w, hw, rfl⟩ := h
  exact ⟨rfl, rfl, by simp [State.warp?, State.group?, hl, hg, hw]⟩

theorem updAt_getElem? {α : Type} (f : α → α) (xs : List α) (n m : Nat) :
    (updAt f xs n)[m]? = if m = n then xs[m]?.map f else xs[m]? := by
  by_cases h : m = n
  · simp [updAt, h]
  · simp [updAt, h, Ne.symm h]

theorem State.launch?_mapLaunch (s : State) (n : Nat) (f : Launch → Launch) (hf : ∀ l, (f l).num = l.num) :
    (s.mapLaunch n f).launch? n = (s.launch? n).map f := by
  simp only [State.launch?, State.mapLaunch]
  induction s.launches with
  | nil => rfl
  | cons l ls ih =>
    by_cases h : l.num = n
    · simp [h, hf]
    · simp [h, ih]

theorem Launch.group?_mapGroup (l : Launch) (n : Nat) (f : Group → Group) (hf : ∀ g, (f g).index = g.index) :
    (l.mapGroup n f).group? n = (l.group? n).map f := by
  simp only [Launch.group?, Launch.mapGroup]
  induction l.groups with
  | nil => rfl
  | cons g gs ih =>
    by_cases h : g.index = n
    · simp [h, hf]
    · simp [h, ih]

theorem State.warp?_mapWarp (s : State) (w : WarpId) (f : Warp → Warp) :
    (s.mapWarp w f).warp? w = (s.warp? w).map f := by
  simp only [State.warp?, State.group?, State.mapWarp, State.mapGroup]
  rw [State.launch?_mapLaunch _ _ _ (by intro l; rfl)]
  cases s.launch? w.launch with
  | none => rfl
  | some l =>
    simp only [Option.map_some, Option.bind_some]
    rw [Launch.group?_mapGroup _ _ _ (by intro g; rfl)]
    cases l.group? w.group with
    | none => rfl
    | some g => simp [updAt_getElem?]

theorem updAt_const {α : Type} (f : α → α) (xs : List α) (n : Nat) (x : α) (h : xs[n]? = some x) :
    updAt f xs n = updAt (fun _ => f x) xs n := by
  refine List.ext_getElem? fun m => ?_
  rw [updAt_getElem?, updAt_getElem?]
  split
  · simp [*]
  · rfl

theorem Arch.counted_follows (a a0 : Arch) (same back : Bool) (pc : Nat) :
    ((a.fairDone a0).counted a0 same back pc).follows a := by
  unfold Arch.follows Arch.counted Arch.fair Arch.fairIssue
  repeat' split
  all_goals rfl

/-- What it is to run, check by check. -/
theorem Iss.runs_iff {b : Iss} {k : Kind} :
    b.runs k = true ↔ k.regsOk b.l = true ∧ k.check b.l b.wid = true ∧ (k.firmware = true → b.ctx.fw = true) ∧ b.active ≠ 0
      ∧ b.w.arch.tx = none ∧ (k.endsBefore = true → b.w.chunk.begun = false) ∧ b.poisonLane k = none := by
  cases hf : k.firmware <;> cases he : k.endsBefore <;> simp [Iss.runs, hf, he, and_assoc]

theorem Iss.runs_tx {b : Iss} {k : Kind} (h : b.runs k = true) : b.w.arch.tx = none := (Iss.runs_iff.mp h).2.2.2.2.1

/-- An issue that runs has its effect on its lanes at the next word. -/
theorem Iss.attempt_runs {b : Iss} {k : Kind} {eff : Iss → Eff Iss} (h : b.runs k = true) :
    b.attempt k eff = eff b.advance := by
  obtain ⟨legal, fits, rights, some_, tx, start, clean⟩ := Iss.runs_iff.mp h
  have hl : b.advance.txLane = none := by
    have : b.advance.w.arch.tx = none := tx
    simp [Iss.txLane, this]
  have hb : b.advance.txBefore = b.advance := by simp [Iss.txBefore, hl]
  have he : b.advance.effect k eff = eff b.advance := by simp [Iss.effect, hl]
  have hr : ¬(k.firmware && !b.ctx.fw) = true := by
    cases hk : k.firmware
    · simp
    · simp [rights hk]
  have hs : ¬(k.endsBefore && b.w.arch.tx.isNone && b.w.chunk.begun) = true := by
    cases hk : k.endsBefore
    · simp
    · simp [start hk]
  unfold Iss.attempt
  rw [if_neg (by simp [legal, fits]), if_neg hr, if_neg some_, if_neg (by simp [tx]), if_neg hs, clean, hb, he]

/-- Outside a transaction there is no path to close. -/
theorem Arch.follows_untouched {a e : Arch} (f : Tx → Tx) (h : a.follows e) (he : e.tx = none) :
    ({ a with tx := a.tx.map f } : Arch).follows e := by
  rw [h]; simp [Arch.follows, he]

/-- Counting an issue outside a transaction: the registers follow the effect's. -/
theorem Iss.retire_spec {i b : Iss} {k : Kind} (h : b.w.arch.tx = none) (hi : i.w.arch.tx = none) :
    (i.retire b k).w.arch.follows i.w.arch ∧ (i.retire b k).s = i.s ∧ (i.retire b k).wid = i.wid
      ∧ (i.retire b k).w.chunk.writes = i.w.chunk.writes ∧ (i.retire b k).w.chunk.queued = i.w.chunk.queued
      ∧ (i.retire b k).w.seq = i.w.seq ∧ (i.retire b k).irrev = i.irrev := by
  unfold Iss.retire
  simp only [h, Option.isNone_none, if_true]
  split <;> exact ⟨Arch.follows_untouched _ (Arch.counted_follows i.w.arch _ _ _ _) hi, rfl, rfl, rfl, rfl, rfl, rfl⟩

theorem Iss.restart_spec {i b : Iss} {k : Kind} :
    (i.restart b k).w.arch = i.w.arch ∧ (i.restart b k).s = i.s ∧ (i.restart b k).wid = i.wid
      ∧ (i.restart b k).w.chunk.writes = i.w.chunk.writes ∧ (i.restart b k).w.chunk.queued = i.w.chunk.queued
      ∧ (i.restart b k).w.seq = i.w.seq := by
  unfold Iss.restart
  dsimp only
  repeat' split
  all_goals exact ⟨rfl, rfl, rfl, rfl, rfl, rfl⟩

/-- An issue that runs and fits completes with its effect. -/
theorem Iss.finish_leaves {i b : Iss} {k : Kind} (h : b.w.arch.tx = none) (hi : i.w.arch.tx = none)
    (hw : (i.s.warp? i.wid).isSome) (hf : i.fits b k = true) : Leaves i (i.finish b k) := by
  obtain ⟨ra, rs, rw', rws, rq, rseq, ri⟩ := Iss.retire_spec (i := i) (k := k) h hi
  obtain ⟨a1, a2, a3, a4, a5, a6⟩ := Iss.restart_spec (i := i.retire b k) (b := b) (k := k)
  have hfin : i.finish b k =
      let r := ((i.retire b k).restart b k).mapChunk fun c => { c with ended := c.ended || ((i.retire b k).restart b k).ends b k }
      r.done.meetFate r.wid (r.txFate r.w) := by
    simp [Iss.finish, hf]
  rw [hfin]
  generalize hr : (i.retire b k).restart b k = r at *
  have htx : r.w.arch.tx = none := by rw [a1, ra]; exact hi
  have hfate (q : Iss) (hq : q.w.arch.tx = none) : q.txFate q.w = .going := by simp [Iss.txFate, hq]
  dsimp only
  rw [hfate (r.mapChunk fun c => { c with ended := c.ended || r.ends b k }) htx]
  refine ⟨(r.mapChunk fun c => { c with ended := c.ended || r.ends b k }).w, ?_, ?_, ?_, ?_, ?_, ?_⟩
  · show r.s.mapWarp r.wid _ = _
    rw [a2, a3, rs, rw']
  · show (r.s.mapWarp r.wid _).warp? i.wid = _
    rw [a2, a3, rs, rw', State.warp?_mapWarp]
    obtain ⟨x, hx⟩ := Option.isSome_iff_exists.mp hw
    rw [hx]; rfl
  · show r.w.arch.follows _
    rw [a1]; exact ra
  · exact a4.trans rws
  · exact a5.trans rq
  · exact a6.trans rseq

/-! ### Budgets -/

theorem distinct_length_le {α : Type} [DecidableEq α] (xs : List α) : (distinct xs).length ≤ xs.length := by
  induction xs with
  | nil => simp [distinct]
  | cons x xs ih => rw [distinct]; split <;> simp only [List.length_cons] <;> omega

/-- More elements make at most as many more distinct ones. -/
theorem distinct_append_le {α : Type} [DecidableEq α] (xs ys : List α) :
    (distinct (xs ++ ys)).length ≤ xs.length + (distinct ys).length := by
  induction xs with
  | nil => simp
  | cons x xs ih => rw [List.cons_append, distinct]; split <;> simp only [List.length_cons] <;> omega

@[simp] theorem Chunk.cost_undo (c : Chunk) : c.cost.undo = c.undo := rfl
@[simp] theorem Chunk.cost_readEntries (c : Chunk) (s : State) : c.cost.readEntries s = c.readEntries s := rfl
@[simp] theorem Chunk.cost_writeEntries (c : Chunk) (s : State) : c.cost.writeEntries s = c.writeEntries s := rfl
@[simp] theorem Chunk.cost_specLines (c : Chunk) : c.cost.specLines = c.specLines := rfl

/-- Sums within the budget make room. -/
theorem Iss.room_of {b : Iss} {n m : Nat}
    (hr : b.repro = true → b.w.chunk.undo + n ≤ Config.undoBudget ∧ b.w.chunk.specLines.length + m ≤ Config.lineBudget
      ∧ b.w.chunk.readEntries b.s + m ≤ Config.setBudget)
    (hf : b.repro = false →
      b.w.chunk.undo + n + ((b.s.coreChunks b.core b.wid).map Chunk.undo).sum ≤ Config.undoBuffer
      ∧ b.w.chunk.specLines.length + m + ((b.s.coreChunks b.core b.wid).map fun x => x.specLines.length).sum ≤ b.s.l1Lines b.core
      ∧ b.w.chunk.readEntries b.s + m ≤ Config.setBudget ∧ b.w.chunk.writeEntries b.s + m ≤ Config.setBudget) :
    b.room n m := by
  intro c hu hre hwe hl
  unfold State.overBudget
  cases h : b.repro with
  | true =>
    obtain ⟨h1, h2, h3⟩ := hr h
    simp only [if_true, Bool.or_eq_false_iff, decide_eq_false_iff_not]
    simp only [Chunk.cost_undo, Chunk.cost_specLines, Chunk.cost_readEntries]
    omega
  | false =>
    obtain ⟨h1, h2, h3, h4⟩ := hf h
    simp only [Bool.false_eq_true, if_false, Bool.or_eq_false_iff, decide_eq_false_iff_not]
    simp only [Chunk.cost_undo, Chunk.cost_specLines, Chunk.cost_readEntries, Chunk.cost_writeEntries]
    omega

/-- Less room is enough where there is more. -/
theorem Iss.room_mono {b : Iss} {n m n' m' : Nat} (h : b.room n m) (hn : n' ≤ n) (hm : m' ≤ m) : b.room n' m' :=
  fun c h1 h2 h3 h4 => h c (Nat.le_trans h1 (by omega)) (Nat.le_trans h2 (by omega)) (Nat.le_trans h3 (by omega))
    (Nat.le_trans h4 (by omega))

/-- No budget cuts an issue whose chunk has grown by no more than the room, in a machine with the same budgets. -/
theorem Iss.fits_of_first {i b : Iss} {k : Kind} (h : b.first) (hi : (i.retire b k).w.arch.tx = none)
    (hrep : (i.retire b k).repro = b.repro)
    (hb : (i.retire b k).s.overBudget (i.retire b k).repro (i.retire b k).core (i.retire b k).wid (i.retire b k).w.chunk.cost
      = b.s.overBudget b.repro b.core b.wid (i.retire b k).w.chunk.cost)
    (hu : (i.retire b k).w.chunk.undo ≤ b.w.chunk.undo + 4096)
    (hre : (i.retire b k).w.chunk.readEntries b.s ≤ b.w.chunk.readEntries b.s + 256)
    (hwe : (i.retire b k).w.chunk.writeEntries b.s ≤ b.w.chunk.writeEntries b.s + 256)
    (hl : (i.retire b k).w.chunk.specLines.length ≤ b.w.chunk.specLines.length + 256) : i.fits b k = true := by
  unfold Iss.fits
  dsimp only
  cases h with
  | inl h => simp [hrep, hi, h.1, h.2]
  | inr h => rw [hb, h _ hu hre hwe hl]; simp [hi]

/-- The law of an issue. -/
theorem issue_completes {s : State} {k : Kind} {eff : Iss → Eff Iss} {b i : Iss} (hb : s.issueOf k = some b) (hr : b.runs k = true)
    (he : eff b.advance = .ok i) (hi : i.w.arch.tx = none) (hw : (i.s.warp? i.wid).isSome)
    (hf : i.fits b k = true) : ∃ t, issue k eff s = .next t ∧ Leaves i t := by
  refine ⟨i.finish b k, ?_, Iss.finish_leaves (Iss.runs_tx hr) hi hw hf⟩
  simp [issue, hb, Iss.attempt_runs hr, he, Iss.resolve]

end Sys2Proof.Machine
end

