-- ==== Sys2Proof/Laws/Memory.lean ====
section
/-! SUPPORT. Memory as cells: every operation keeps the canonical form, a write reads back, and no other byte changes. -/

namespace Sys2Proof.Machine

theorem memFrom_mono {lo hi : Nat} {m : List Host.Cell} (h : memFrom hi m = true) (hl : lo ≤ hi) : memFrom lo m = true := by
  cases m with
  | nil => rfl
  | cons c m =>
    simp only [memFrom, Bool.and_eq_true, decide_eq_true_eq] at h ⊢
    exact ⟨⟨Nat.le_trans hl h.1.1, h.1.2⟩, h.2⟩

theorem memFrom_cons {lo k : Nat} {b : Byte} {m : List Host.Cell} :
    memFrom lo ((k, b) :: m) = true ↔ lo ≤ k ∧ b ≠ 0 ∧ memFrom (k + 1) m = true := by
  simp only [memFrom, Bool.and_eq_true, decide_eq_true_eq, bne_iff_ne, and_assoc]

theorem memFrom_memPut {lo a : Nat} {m : List Host.Cell} (b : Byte) (h : memFrom lo m = true) (ha : lo ≤ a) :
    memFrom lo (memPut m a b) = true := by
  induction m generalizing lo with
  | nil =>
    unfold memPut
    split
    · rfl
    · rename_i hb; exact memFrom_cons.mpr ⟨ha, hb, rfl⟩
  | cons c m ih =>
    obtain ⟨k, v⟩ := c
    obtain ⟨h1, h2, h3⟩ := memFrom_cons.mp h
    unfold memPut
    split
    · rename_i hk
      split
      · exact h
      · rename_i hb
        exact memFrom_cons.mpr ⟨ha, hb, memFrom_cons.mpr ⟨by omega, h2, h3⟩⟩
    · rename_i hk
      split
      · rename_i he
        split
        · exact memFrom_mono h3 (by omega)
        · rename_i hb
          subst he
          exact memFrom_cons.mpr ⟨ha, hb, h3⟩
      · exact memFrom_cons.mpr ⟨h1, h2, ih h3 (by omega)⟩

theorem memGet_below {lo a : Nat} {m : List Host.Cell} (h : memFrom lo m = true) (ha : a < lo) : memGet m a = 0 := by
  cases m with
  | nil => rfl
  | cons c m =>
    simp only [memFrom, Bool.and_eq_true, decide_eq_true_eq] at h
    have h1 : ¬c.1 = a := by omega
    have h2 : a < c.1 := by omega
    simp [memGet, h1, h2]

theorem memGet_memPut_from {lo a x : Nat} {m : List Host.Cell} (b : Byte) (h : memFrom lo m = true) :
    memGet (memPut m a b) x = if x = a then b else memGet m x := by
  induction m generalizing lo with
  | nil =>
    by_cases hb : b = 0
    · simp [memPut, memGet, hb]
    · simp only [memPut, hb, if_false, memGet]
      repeat' split
      all_goals first | rfl | omega
  | cons c m ih =>
    obtain ⟨k, v⟩ := c
    simp only [memFrom, Bool.and_eq_true, decide_eq_true_eq] at h
    obtain ⟨⟨h1, h2⟩, h3⟩ := h
    have low : ∀ y, y ≤ k → memGet m y = 0 := fun y hy => memGet_below h3 (by omega)
    unfold memPut
    split
    · rename_i hk
      split
      · rename_i hb
        simp only [memGet]
        repeat' split
        all_goals first | rfl | omega | simp_all
      · simp only [memGet]
        repeat' split
        all_goals first | rfl | omega
    · split
      · rename_i he
        split
        · rename_i hb
          simp only [memGet]
          repeat' split
          all_goals first | rfl | omega | (subst_vars; exact low _ (by omega))
        · simp only [memGet]
          repeat' split
          all_goals first | rfl | omega
      · simp only [memGet, ih h3]
        repeat' split
        all_goals first | rfl | omega

/-- A write reads back, and every other byte reads as before. -/
theorem memGet_memPut {m : List Host.Cell} (h : memWf m = true) (a x : Nat) (b : Byte) :
    memGet (memPut m a b) x = if x = a then b else memGet m x := memGet_memPut_from b h

theorem memWf_memPut {m : List Host.Cell} (h : memWf m = true) (a : Nat) (b : Byte) : memWf (memPut m a b) = true :=
  memFrom_memPut b h (Nat.zero_le a)

theorem memWf_memPutBytes {m : List Host.Cell} (h : memWf m = true) (a : Nat) (bs : List Byte) :
    memWf (memPutBytes m a bs) = true := by
  induction bs generalizing m a with
  | nil => exact h
  | cons b bs ih => exact ih (memWf_memPut h a b) (a + 1)

/-- Consecutive bytes read back, and every byte outside them reads as before. -/
theorem memGet_memPutBytes {m : List Host.Cell} (h : memWf m = true) (a x : Nat) (bs : List Byte) :
    memGet (memPutBytes m a bs) x = if a ≤ x ∧ x < a + bs.length then bs.getD (x - a) 0 else memGet m x := by
  induction bs generalizing m a with
  | nil => rw [if_neg (by simp)]; rfl
  | cons b bs ih =>
    rw [memPutBytes, ih (memWf_memPut h a b), memGet_memPut h, List.length_cons]
    by_cases hx : x = a
    · subst hx
      rw [if_neg (by omega), if_pos rfl, if_pos (by omega)]
      simp
    · rw [if_neg hx]
      by_cases hc : a + 1 ≤ x ∧ x < a + 1 + bs.length
      · rw [if_pos hc, if_pos (by omega)]
        have hs : x - a = (x - (a + 1)) + 1 := by omega
        rw [hs, List.getD_cons_succ]
      · rw [if_neg hc, if_neg (by omega)]

theorem memFrom_filter {lo : Nat} {m : List Host.Cell} (p : Host.Cell → Bool) (h : memFrom lo m = true) :
    memFrom lo (m.filter p) = true := by
  induction m generalizing lo with
  | nil => rfl
  | cons c m ih =>
    simp only [memFrom, Bool.and_eq_true, decide_eq_true_eq] at h
    rw [List.filter_cons]
    split
    · simp only [memFrom, Bool.and_eq_true, decide_eq_true_eq]
      exact ⟨h.1, ih h.2⟩
    · exact memFrom_mono (ih h.2) (by omega)

theorem memWf_memZero {m : List Host.Cell} (h : memWf m = true) (a n : Nat) : memWf (memZero m a n) = true := memFrom_filter _ h

theorem memGet_memZero_from {lo : Nat} {m : List Host.Cell} (h : memFrom lo m = true) (a n x : Nat) :
    memGet (memZero m a n) x = if a ≤ x ∧ x < a + n then 0 else memGet m x := by
  induction m generalizing lo with
  | nil => simp [memZero, memGet]
  | cons c m ih =>
    have hc := h
    simp only [memFrom, Bool.and_eq_true, decide_eq_true_eq] at h
    have ih' := ih h.2
    unfold memZero at ih' ⊢
    rw [List.filter_cons]
    split
    · rename_i hp
      simp only [Bool.or_eq_true, decide_eq_true_eq] at hp
      simp only [memGet, ih']
      repeat' split
      all_goals first | rfl | omega
    · rename_i hp
      simp only [Bool.or_eq_true, decide_eq_true_eq, not_or] at hp
      rw [ih']
      simp only [memGet]
      repeat' split
      all_goals first | rfl | omega | (exact memGet_below h.2 (by omega))

/-- A zeroed range reads zero, and every byte outside it reads as before. -/
theorem memGet_memZero {m : List Host.Cell} (h : memWf m = true) (a n x : Nat) :
    memGet (memZero m a n) x = if a ≤ x ∧ x < a + n then 0 else memGet m x := memGet_memZero_from h a n x

theorem memWf_fillPage {m : List Host.Cell} (h : memWf m = true) (pg : Nat) (r : Region) : memWf (fillPage m pg r) = true := by
  unfold fillPage
  dsimp only
  split
  · exact memWf_memZero h _ _
  · exact memWf_memPutBytes (memWf_memZero h _ _) _ _

theorem memOk_parts {s : State} (h : s.memOk = true) : memWf s.mem = true ∧ memWf s.hostMem = true ∧ memWf s.peerMem = true := by
  simpa [State.memOk, and_assoc] using h

theorem memOk_of {s : State} (h : memWf s.mem = true) (h' : memWf s.hostMem = true) (h'' : memWf s.peerMem = true) : s.memOk = true := by
  simp [State.memOk, h, h', h'']

/-- A committed byte keeps the form. -/
theorem State.memOk_putByte {s : State} (h : s.memOk = true) (x : Loc) (b : Byte) : (s.putByte x b).memOk = true := by
  obtain ⟨h1, h2, h3⟩ := memOk_parts h
  unfold State.putByte
  split
  · exact memOk_of h1 (memWf_memPut h2 _ _) h3
  · exact memOk_of h1 h2 (memWf_memPut h3 _ _)
  · exact memOk_of h1 h2 h3
  · split
    · exact memOk_of (memWf_memPut h1 _ _) h2 h3
    · exact h

/-! ### The reverse ownership table, which lies in memory (R324) -/

theorem leNat_leBytes (k n : Nat) : leNat (leBytes k n) = n % 2 ^ (8 * k) := by
  induction k generalizing n with
  | zero => simp [leBytes, leNat, Nat.mod_one]
  | succ k ih =>
    have hp : 2 ^ (8 * (k + 1)) = 256 * 2 ^ (8 * k) := by rw [Nat.mul_add, Nat.pow_add, Nat.mul_comm]
    rw [leBytes, leNat, ih, hp, Nat.mod_mul, BitVec.toNat_ofNat]

theorem leBytes_length (k n : Nat) : (leBytes k n).length = k := by
  induction k generalizing n with
  | zero => rfl
  | succ k ih => simp [leBytes, ih]

/-- What was just written is read back. -/
theorem memBytes_memPutBytes {m : List Host.Cell} (h : memWf m = true) (a : Nat) (bs : List Byte) :
    memBytes (memPutBytes m a bs) a bs.length = bs := by
  refine List.ext_getElem (by simp [memBytes, upTo]) fun i h1 h2 => ?_
  simp [memBytes, upTo, memGet_memPutBytes h, h2]

/-- Bytes apart from what was written read as before. -/
theorem memBytes_apart {m : List Host.Cell} (h : memWf m = true) {a b n : Nat} {bs : List Byte}
    (hd : b + n ≤ a ∨ a + bs.length ≤ b) : memBytes (memPutBytes m a bs) b n = memBytes m b n := by
  refine List.map_congr_left fun i hi => ?_
  have hi' : i < n := List.mem_range.mp hi
  rw [memGet_memPutBytes h, if_neg (by omega)]

theorem State.memOk_setRot {s : State} (h : s.memOk = true) (pg : Nat) (e : RotEntry) : (s.setRot pg e).memOk = true := by
  obtain ⟨h1, h2, h3⟩ := memOk_parts h
  unfold State.setRot
  repeat' split
  · exact h
  · exact memOk_of (memWf_memPutBytes h1 _ _) h2 h3
  · exact h

/-- An entry that is written reads back, and every other entry reads as before. -/
theorem State.rotOf_setRot {s : State} (h : memWf s.mem = true) {a pg : Nat} (ha : s.rotAt = some a) (hp : pg < Config.dramPages)
    (e : RotEntry) (n : Nat) : (s.setRot pg e).rotOf n = if n = pg then rotEntry (e.word % 2 ^ 32) else s.rotOf n := by
  have hset : s.setRot pg e = { s with mem := memPutBytes s.mem (a + 4 * pg) (leBytes 4 e.word) } := by simp [State.setRot, ha, hp]
  by_cases hn : n = pg
  · subst hn
    have hb := memBytes_memPutBytes h (a + 4 * n) (leBytes 4 e.word)
    rw [leBytes_length] at hb
    simp [State.rotOf, hset, ha, hp, hb, leNat_leBytes]
  · have hb := memBytes_apart (n := 4) (b := a + 4 * n) (a := a + 4 * pg) (bs := leBytes 4 e.word) h
      (by rw [leBytes_length]; omega)
    simp [State.rotOf, hset, ha, hn, hb]

/-- An entry whose fields fit is its own word's entry. -/
theorem rotEntry_word (e : RotEntry) (hc : e.ctx < 64) (hl : e.cls < 4) (hp : e.part < 16) : rotEntry (e.word % 2 ^ 32) = e := by
  obtain ⟨scrb, px, hx, ctx, cls, part⟩ := e
  dsimp only at hc hl hp
  simp only [rotEntry, RotEntry.word, flag, bits, RotEntry.mk.injEq, Nat.mod_eq_of_lt hc, Nat.mod_eq_of_lt hl, Nat.mod_eq_of_lt hp]
  cases scrb <;> cases px <;> cases hx <;>
    (simp only [Bool.false_eq_true, if_true, if_false, beq_iff_eq, beq_eq_false_iff_ne, ne_eq]; omega)

/-! ### Lines of windows -/

/-- A fill counts pairs, and changes no byte of memory. -/
theorem State.fillLine_mem (s : State) (pa : Nat) :
    (s.fillLine pa).mem = s.mem ∧ (s.fillLine pa).hostMem = s.hostMem ∧ (s.fillLine pa).peerMem = s.peerMem := by
  unfold State.fillLine
  dsimp only
  repeat' split
  all_goals exact ⟨rfl, rfl, rfl⟩

theorem State.fillLines_frame (s : State) (xs : List Loc) : ∃ w f, s.fillLines xs = { s with winLines := w, fwins := f } := by
  unfold State.fillLines
  generalize (List.foldl _ _ _ : List Nat) = ls
  induction ls generalizing s with
  | nil => exact ⟨s.winLines, s.fwins, rfl⟩
  | cons l ls ih =>
    have h1 : ∃ w f, s.fillLine l = { s with winLines := w, fwins := f } := by
      unfold State.fillLine
      dsimp only
      repeat' split
      all_goals exact ⟨_, _, rfl⟩
    obtain ⟨w, f, h1⟩ := h1
    obtain ⟨w', f', h2⟩ := ih (s.fillLine l)
    exact ⟨w', f', by rw [List.foldl_cons, h2, h1]⟩

theorem State.memOk_reset : State.reset.memOk = true := rfl

end Sys2Proof.Machine
end

