-- ==== Sys2Proof/Laws/Ops.lean ====
section
/-! SUPPORT. What each shared operation can do, said once: an issue, a mailbox request, a control write, a fault, a change of
translation, and a step. -/

namespace Sys2Proof.Machine

/-- An issue answers the machine that its attempt resolves to, or a fault where no warp issues. -/
theorem issue_cases (k : Kind) (eff : Iss → Eff Iss) (s : State) :
    (s.issueOf k = none ∧ issue k eff s = .fault .noIssuer) ∨
      ∃ b, s.issueOf k = some b ∧ issue k eff s = .next (b.resolve k (fun l => ((b.alone l).attempt k eff).stop?) (b.attempt k eff)) := by
  unfold issue
  cases s.issueOf k with
  | none => exact .inl ⟨rfl, rfl⟩
  | some b => exact .inr ⟨b, rfl, rfl⟩

/-- A request changes nothing while it cannot be heard; it waits for the one before it, and while its own effect must; else its
mailbox answers: status 1 to a code of the other mailbox. -/
theorem mailbox_cases (rq : Req) (admin : Bool) (code : Nat) (pages : List Nat) (f : State → Option (State × Nat)) (s : State) :
    (s.hears rq = false ∧ mailbox rq admin code pages f s = .next s) ∨
      (s.serving rq = true ∧ mailbox rq admin code pages f s = .next s.hold) ∨
      (rq.admin ≠ admin ∧ mailbox rq admin code pages f s = .next ((s.putRequest rq code).answerReq rq.admin rq.part rq.tag 1)) ∨
      (f (s.putRequest rq code) = none ∧ mailbox rq admin code pages f s = .next ((s.putRequest rq code).keepServing rq pages).hold) ∨
      ∃ u n, s.hears rq = true ∧ rq.admin = admin ∧ f (s.putRequest rq code) = some (u, n) ∧
        mailbox rq admin code pages f s = .next (u.answerReq rq.admin rq.part rq.tag n) := by
  unfold mailbox
  cases h : s.hears rq with
  | false => exact .inl ⟨rfl, rfl⟩
  | true =>
    cases hv : s.serving rq with
    | true => exact .inr (.inl ⟨rfl, rfl⟩)
    | false =>
      by_cases ha : rq.admin = admin
      · cases hf : f (s.putRequest rq code) with
        | none => exact .inr (.inr (.inr (.inl ⟨rfl, by simp [ha, hf]⟩)))
        | some p => exact .inr (.inr (.inr (.inr ⟨p.1, p.2, rfl, ha, rfl, by simp [ha, hf]⟩)))
      · exact .inr (.inr (.inl ⟨ha, by simp [ha]⟩))

/-- A request that is taken is answered with what its effect gives. -/
theorem driver_takes {rq : Req} {code : Nat} {f : State → Nat → Option (State × Nat)} {s u : State} {n : Nat} (h : s.takes rq)
    (hf : f (s.putRequest rq code) rq.part = some (u, n)) :
    driver rq code f s = .next (u.answerReq false rq.part rq.tag n) := by
  obtain ⟨ha, -, hh, hs⟩ := h
  simp [driver, mailbox, ha, hh, hs, hf]

/-- The same for the partition manager. -/
theorem manager_takes {rq : Req} {code : Nat} {f : State → State × Nat} {s : State} (h : s.takesAdmin rq) :
    manager rq code f s =
      .next ((f (s.putRequest rq code)).1.answerReq true rq.part rq.tag (f (s.putRequest rq code)).2) := by
  obtain ⟨ha, hh⟩ := h
  simp [manager, mailbox, ha, hh, State.serving]

/-- A control write is performed whole or refused with a cause. -/
theorem State.controlWrite_cases (s : State) (skip : Option WarpId) (off v : Nat) :
    (∃ t, s.writeWord skip off v = .ok t ∧ s.controlWrite skip off v = ({ t with lastOff := 0, lastCause := 0 }, true)) ∨
      ∃ n, s.writeWord skip off v = .error n ∧
        s.controlWrite skip off v = ({ s with lastOff := BitVec.ofNat 32 off, lastCause := n }, false) := by
  unfold State.controlWrite
  cases s.writeWord skip off v with
  | ok t => exact .inl ⟨t, rfl, rfl⟩
  | error n => exact .inr ⟨n, rfl, rfl⟩

/-- A fault changes launches alone. -/
theorem State.takeFault_frame (s : State) (w : WarpId) (f : FaultInfo) : ∃ ls, s.takeFault w f = { s with launches := ls } := by
  unfold State.takeFault
  split
  · exact ⟨s.launches, rfl⟩
  · split
    · exact ⟨_, rfl⟩
    · exact ⟨_, rfl⟩

theorem State.launchFault_frame (s : State) (l : Nat) (f : FaultInfo) : ∃ ls, s.launchFault l f = { s with launches := ls } := by
  unfold State.launchFault
  split
  · exact ⟨s.launches, rfl⟩
  · split
    · exact ⟨_, rfl⟩
    · exact ⟨_, rfl⟩

/-- An operation's end changes launches and takes the operation away. -/
theorem State.endOp_frame (s : State) (o : Op) (st : HState) (fl : Fl) :
    ∃ ls, s.endOp o st fl = { s with launches := ls, ops := s.ops.filter fun x => x.num ≠ o.num } := ⟨_, rfl⟩

/-- A change of translation drops entries and restarts chunks. -/
theorem State.translationChange_frame (s : State) (skip : Option WarpId) (cs : CtxKey → Bool) (ps : Nat → Bool) :
    ∃ ls, s.translationChange skip cs ps =
      { s with launches := ls, tlb := s.tlb.filter fun e => !(cs e.ctx && ps e.page) } := ⟨_, rfl⟩

theorem State.squashReaders_frame (s : State) (skip : Option WarpId) (t : Touch) :
    ∃ ls, s.squashReaders skip t = { s with launches := ls } := ⟨_, rfl⟩

/-- A step stops, passes with no instruction, or runs one. -/
theorem step_cases (s : State) :
    (s.powered = false ∧ step s = .fault .unpowered) ∨ (s.ready.2 = none ∧ step s = .next s.ready.1.endStep) ∨
      ∃ i, s.ready.2 = some i ∧ step s = after i (exec i s.ready.1) := by
  unfold step
  split
  · rename_i h
    simp only [Bool.and_eq_true, Bool.not_eq_true'] at h
    exact .inl ⟨h.1, rfl⟩
  · cases hr : s.ready with
    | mk t i => cases i with
      | none => exact .inr (.inl ⟨rfl, rfl⟩)
      | some i => exact .inr (.inr ⟨i, rfl, rfl⟩)

/-- What follows an instruction does not stop one that completed. -/
theorem after_next (i : Instr) (o : Host.Outcome State Fault Refusal) (t : State) :
    after i o = .next t ↔ ∃ u, o = .next u ∧ t = (u.keep i).endStep := by
  cases o with
  | next u => exact ⟨fun h => ⟨u, rfl, (Host.Outcome.next.inj h).symm⟩, by rintro ⟨v, hv, rfl⟩; cases hv; rfl⟩
  | fault e => exact ⟨nofun, by rintro ⟨v, hv, -⟩; cases hv⟩
  | refused r => exact ⟨nofun, by rintro ⟨v, hv, -⟩; cases hv⟩

/-- A request that waits is kept, and nothing else. -/
theorem State.keep_frame (s : State) (i : Instr) : ∃ b d, s.keep i = { s with waiting := b, deferred := d } := by
  unfold State.keep
  split
  · exact ⟨_, _, rfl⟩
  · exact ⟨s.waiting, s.deferred, rfl⟩

end Sys2Proof.Machine
end

