-- ==== Sys2Proof/Laws/State.lean ====
section
/-! SUPPORT. Each update of the state leaves every other field as it was: one lemma for each field and update. -/

namespace Sys2Proof.Machine

/-! `mapLaunch` -/

@[simp] theorem State.mapLaunch_powered (s : State) (n : Nat) (f : Launch → Launch) : (s.mapLaunch n f).powered = s.powered := rfl
@[simp] theorem State.mapLaunch_cycle (s : State) (n : Nat) (f : Launch → Launch) : (s.mapLaunch n f).cycle = s.cycle := rfl
@[simp] theorem State.mapLaunch_beat (s : State) (n : Nat) (f : Launch → Launch) : (s.mapLaunch n f).beat = s.beat := rfl
@[simp] theorem State.mapLaunch_devready (s : State) (n : Nat) (f : Launch → Launch) : (s.mapLaunch n f).devready = s.devready := rfl
@[simp] theorem State.mapLaunch_failed (s : State) (n : Nat) (f : Launch → Launch) : (s.mapLaunch n f).failed = s.failed := rfl
@[simp] theorem State.mapLaunch_bringStep (s : State) (n : Nat) (f : Launch → Launch) : (s.mapLaunch n f).bringStep = s.bringStep := rfl
@[simp] theorem State.mapLaunch_bringing (s : State) (n : Nat) (f : Launch → Launch) : (s.mapLaunch n f).bringing = s.bringing := rfl
@[simp] theorem State.mapLaunch_lwidth (s : State) (n : Nat) (f : Launch → Launch) : (s.mapLaunch n f).lwidth = s.lwidth := rfl
@[simp] theorem State.mapLaunch_lrate (s : State) (n : Nat) (f : Launch → Launch) : (s.mapLaunch n f).lrate = s.lrate := rfl
@[simp] theorem State.mapLaunch_fports (s : State) (n : Nat) (f : Launch → Launch) : (s.mapLaunch n f).fports = s.fports := rfl
@[simp] theorem State.mapLaunch_gated (s : State) (n : Nat) (f : Launch → Launch) : (s.mapLaunch n f).gated = s.gated := rfl
@[simp] theorem State.mapLaunch_thermwarn (s : State) (n : Nat) (f : Launch → Launch) : (s.mapLaunch n f).thermwarn = s.thermwarn := rfl
@[simp] theorem State.mapLaunch_hotTiers (s : State) (n : Nat) (f : Launch → Launch) : (s.mapLaunch n f).hotTiers = s.hotTiers := rfl
@[simp] theorem State.mapLaunch_overPower (s : State) (n : Nat) (f : Launch → Launch) : (s.mapLaunch n f).overPower = s.overPower := rfl
@[simp] theorem State.mapLaunch_tripped (s : State) (n : Nat) (f : Launch → Launch) : (s.mapLaunch n f).tripped = s.tripped := rfl
@[simp] theorem State.mapLaunch_forbidden (s : State) (n : Nat) (f : Launch → Launch) : (s.mapLaunch n f).forbidden = s.forbidden := rfl
@[simp] theorem State.mapLaunch_roles (s : State) (n : Nat) (f : Launch → Launch) : (s.mapLaunch n f).roles = s.roles := rfl
@[simp] theorem State.mapLaunch_roleChange (s : State) (n : Nat) (f : Launch → Launch) : (s.mapLaunch n f).roleChange = s.roleChange := rfl
@[simp] theorem State.mapLaunch_lastOff (s : State) (n : Nat) (f : Launch → Launch) : (s.mapLaunch n f).lastOff = s.lastOff := rfl
@[simp] theorem State.mapLaunch_lastCause (s : State) (n : Nat) (f : Launch → Launch) : (s.mapLaunch n f).lastCause = s.lastCause := rfl
@[simp] theorem State.mapLaunch_parts (s : State) (n : Nat) (f : Launch → Launch) : (s.mapLaunch n f).parts = s.parts := rfl
@[simp] theorem State.mapLaunch_adminTag (s : State) (n : Nat) (f : Launch → Launch) : (s.mapLaunch n f).adminTag = s.adminTag := rfl
@[simp] theorem State.mapLaunch_adminStatus (s : State) (n : Nat) (f : Launch → Launch) : (s.mapLaunch n f).adminStatus = s.adminStatus := rfl
@[simp] theorem State.mapLaunch_adminCount (s : State) (n : Nat) (f : Launch → Launch) : (s.mapLaunch n f).adminCount = s.adminCount := rfl
@[simp] theorem State.mapLaunch_adminRing (s : State) (n : Nat) (f : Launch → Launch) : (s.mapLaunch n f).adminRing = s.adminRing := rfl
@[simp] theorem State.mapLaunch_adminHeard (s : State) (n : Nat) (f : Launch → Launch) : (s.mapLaunch n f).adminHeard = s.adminHeard := rfl
@[simp] theorem State.mapLaunch_fwins (s : State) (n : Nat) (f : Launch → Launch) : (s.mapLaunch n f).fwins = s.fwins := rfl
@[simp] theorem State.mapLaunch_winLines (s : State) (n : Nat) (f : Launch → Launch) : (s.mapLaunch n f).winLines = s.winLines := rfl
@[simp] theorem State.mapLaunch_rotAt (s : State) (n : Nat) (f : Launch → Launch) : (s.mapLaunch n f).rotAt = s.rotAt := rfl
@[simp] theorem State.mapLaunch_images (s : State) (n : Nat) (f : Launch → Launch) : (s.mapLaunch n f).images = s.images := rfl
@[simp] theorem State.mapLaunch_mem (s : State) (n : Nat) (f : Launch → Launch) : (s.mapLaunch n f).mem = s.mem := rfl
@[simp] theorem State.mapLaunch_hostMem (s : State) (n : Nat) (f : Launch → Launch) : (s.mapLaunch n f).hostMem = s.hostMem := rfl
@[simp] theorem State.mapLaunch_peerMem (s : State) (n : Nat) (f : Launch → Launch) : (s.mapLaunch n f).peerMem = s.peerMem := rfl
@[simp] theorem State.mapLaunch_poison (s : State) (n : Nat) (f : Launch → Launch) : (s.mapLaunch n f).poison = s.poison := rfl
@[simp] theorem State.mapLaunch_dirty (s : State) (n : Nat) (f : Launch → Launch) : (s.mapLaunch n f).dirty = s.dirty := rfl
@[simp] theorem State.mapLaunch_recalls (s : State) (n : Nat) (f : Launch → Launch) : (s.mapLaunch n f).recalls = s.recalls := rfl
@[simp] theorem State.mapLaunch_seq (s : State) (n : Nat) (f : Launch → Launch) : (s.mapLaunch n f).seq = s.seq := rfl
@[simp] theorem State.mapLaunch_tlb (s : State) (n : Nat) (f : Launch → Launch) : (s.mapLaunch n f).tlb = s.tlb := rfl
@[simp] theorem State.mapLaunch_contexts (s : State) (n : Nat) (f : Launch → Launch) : (s.mapLaunch n f).contexts = s.contexts := rfl
@[simp] theorem State.mapLaunch_queues (s : State) (n : Nat) (f : Launch → Launch) : (s.mapLaunch n f).queues = s.queues := rfl
@[simp] theorem State.mapLaunch_slots (s : State) (n : Nat) (f : Launch → Launch) : (s.mapLaunch n f).slots = s.slots := rfl
@[simp] theorem State.mapLaunch_nextLaunch (s : State) (n : Nat) (f : Launch → Launch) : (s.mapLaunch n f).nextLaunch = s.nextLaunch := rfl
@[simp] theorem State.mapLaunch_ops (s : State) (n : Nat) (f : Launch → Launch) : (s.mapLaunch n f).ops = s.ops := rfl
@[simp] theorem State.mapLaunch_nextOp (s : State) (n : Nat) (f : Launch → Launch) : (s.mapLaunch n f).nextOp = s.nextOp := rfl
@[simp] theorem State.mapLaunch_engines (s : State) (n : Nat) (f : Launch → Launch) : (s.mapLaunch n f).engines = s.engines := rfl
@[simp] theorem State.mapLaunch_runs (s : State) (n : Nat) (f : Launch → Launch) : (s.mapLaunch n f).runs = s.runs := rfl
@[simp] theorem State.mapLaunch_nextRun (s : State) (n : Nat) (f : Launch → Launch) : (s.mapLaunch n f).nextRun = s.nextRun := rfl
@[simp] theorem State.mapLaunch_nbStore (s : State) (n : Nat) (f : Launch → Launch) : (s.mapLaunch n f).nbStore = s.nbStore := rfl
@[simp] theorem State.mapLaunch_splits (s : State) (n : Nat) (f : Launch → Launch) : (s.mapLaunch n f).splits = s.splits := rfl
@[simp] theorem State.mapLaunch_roll (s : State) (n : Nat) (f : Launch → Launch) : (s.mapLaunch n f).roll = s.roll := rfl
@[simp] theorem State.mapLaunch_meas (s : State) (n : Nat) (f : Launch → Launch) : (s.mapLaunch n f).meas = s.meas := rfl
@[simp] theorem State.mapLaunch_spdm (s : State) (n : Nat) (f : Launch → Launch) : (s.mapLaunch n f).spdm = s.spdm := rfl
@[simp] theorem State.mapLaunch_auditSig (s : State) (n : Nat) (f : Launch → Launch) : (s.mapLaunch n f).auditSig = s.auditSig := rfl
@[simp] theorem State.mapLaunch_pkg (s : State) (n : Nat) (f : Launch → Launch) : (s.mapLaunch n f).pkg = s.pkg := rfl
@[simp] theorem State.mapLaunch_routes (s : State) (n : Nat) (f : Launch → Launch) : (s.mapLaunch n f).routes = s.routes := rfl
@[simp] theorem State.mapLaunch_xoff (s : State) (n : Nat) (f : Launch → Launch) : (s.mapLaunch n f).xoff = s.xoff := rfl
@[simp] theorem State.mapLaunch_linkIn (s : State) (n : Nat) (f : Launch → Launch) : (s.mapLaunch n f).linkIn = s.linkIn := rfl
@[simp] theorem State.mapLaunch_linkOut (s : State) (n : Nat) (f : Launch → Launch) : (s.mapLaunch n f).linkOut = s.linkOut := rfl
@[simp] theorem State.mapLaunch_linkRetries (s : State) (n : Nat) (f : Launch → Launch) : (s.mapLaunch n f).linkRetries = s.linkRetries := rfl
@[simp] theorem State.mapLaunch_halves (s : State) (n : Nat) (f : Launch → Launch) : (s.mapLaunch n f).halves = s.halves := rfl
@[simp] theorem State.mapLaunch_bridge (s : State) (n : Nat) (f : Launch → Launch) : (s.mapLaunch n f).bridge = s.bridge := rfl
@[simp] theorem State.mapLaunch_incarn (s : State) (n : Nat) (f : Launch → Launch) : (s.mapLaunch n f).incarn = s.incarn := rfl
@[simp] theorem State.mapLaunch_lost (s : State) (n : Nat) (f : Launch → Launch) : (s.mapLaunch n f).lost = s.lost := rfl
@[simp] theorem State.mapLaunch_refusedLog (s : State) (n : Nat) (f : Launch → Launch) : (s.mapLaunch n f).refusedLog = s.refusedLog := rfl
@[simp] theorem State.mapLaunch_droppedLog (s : State) (n : Nat) (f : Launch → Launch) : (s.mapLaunch n f).droppedLog = s.droppedLog := rfl
@[simp] theorem State.mapLaunch_answer (s : State) (n : Nat) (f : Launch → Launch) : (s.mapLaunch n f).answer = s.answer := rfl
@[simp] theorem State.mapLaunch_mail (s : State) (n : Nat) (f : Launch → Launch) : (s.mapLaunch n f).mail = s.mail := rfl
@[simp] theorem State.mapLaunch_agenda (s : State) (n : Nat) (f : Launch → Launch) : (s.mapLaunch n f).agenda = s.agenda := rfl
@[simp] theorem State.mapLaunch_deferred (s : State) (n : Nat) (f : Launch → Launch) : (s.mapLaunch n f).deferred = s.deferred := rfl
@[simp] theorem State.mapLaunch_received (s : State) (n : Nat) (f : Launch → Launch) : (s.mapLaunch n f).received = s.received := rfl
@[simp] theorem State.mapLaunch_waiting (s : State) (n : Nat) (f : Launch → Launch) : (s.mapLaunch n f).waiting = s.waiting := rfl
@[simp] theorem State.mapLaunch_steps (s : State) (n : Nat) (f : Launch → Launch) : (s.mapLaunch n f).steps = s.steps := rfl
@[simp] theorem State.mapLaunch_issuer (s : State) (n : Nat) (f : Launch → Launch) : (s.mapLaunch n f).issuer = s.issuer := rfl
@[simp] theorem State.mapLaunch_focus (s : State) (n : Nat) (f : Launch → Launch) : (s.mapLaunch n f).focus = s.focus := rfl

/-! `mapGroup` -/

@[simp] theorem State.mapGroup_powered (s : State) (l g : Nat) (f : Group → Group) : (s.mapGroup l g f).powered = s.powered := rfl
@[simp] theorem State.mapGroup_cycle (s : State) (l g : Nat) (f : Group → Group) : (s.mapGroup l g f).cycle = s.cycle := rfl
@[simp] theorem State.mapGroup_beat (s : State) (l g : Nat) (f : Group → Group) : (s.mapGroup l g f).beat = s.beat := rfl
@[simp] theorem State.mapGroup_devready (s : State) (l g : Nat) (f : Group → Group) : (s.mapGroup l g f).devready = s.devready := rfl
@[simp] theorem State.mapGroup_failed (s : State) (l g : Nat) (f : Group → Group) : (s.mapGroup l g f).failed = s.failed := rfl
@[simp] theorem State.mapGroup_bringStep (s : State) (l g : Nat) (f : Group → Group) : (s.mapGroup l g f).bringStep = s.bringStep := rfl
@[simp] theorem State.mapGroup_bringing (s : State) (l g : Nat) (f : Group → Group) : (s.mapGroup l g f).bringing = s.bringing := rfl
@[simp] theorem State.mapGroup_lwidth (s : State) (l g : Nat) (f : Group → Group) : (s.mapGroup l g f).lwidth = s.lwidth := rfl
@[simp] theorem State.mapGroup_lrate (s : State) (l g : Nat) (f : Group → Group) : (s.mapGroup l g f).lrate = s.lrate := rfl
@[simp] theorem State.mapGroup_fports (s : State) (l g : Nat) (f : Group → Group) : (s.mapGroup l g f).fports = s.fports := rfl
@[simp] theorem State.mapGroup_gated (s : State) (l g : Nat) (f : Group → Group) : (s.mapGroup l g f).gated = s.gated := rfl
@[simp] theorem State.mapGroup_thermwarn (s : State) (l g : Nat) (f : Group → Group) : (s.mapGroup l g f).thermwarn = s.thermwarn := rfl
@[simp] theorem State.mapGroup_hotTiers (s : State) (l g : Nat) (f : Group → Group) : (s.mapGroup l g f).hotTiers = s.hotTiers := rfl
@[simp] theorem State.mapGroup_overPower (s : State) (l g : Nat) (f : Group → Group) : (s.mapGroup l g f).overPower = s.overPower := rfl
@[simp] theorem State.mapGroup_tripped (s : State) (l g : Nat) (f : Group → Group) : (s.mapGroup l g f).tripped = s.tripped := rfl
@[simp] theorem State.mapGroup_forbidden (s : State) (l g : Nat) (f : Group → Group) : (s.mapGroup l g f).forbidden = s.forbidden := rfl
@[simp] theorem State.mapGroup_roles (s : State) (l g : Nat) (f : Group → Group) : (s.mapGroup l g f).roles = s.roles := rfl
@[simp] theorem State.mapGroup_roleChange (s : State) (l g : Nat) (f : Group → Group) : (s.mapGroup l g f).roleChange = s.roleChange := rfl
@[simp] theorem State.mapGroup_lastOff (s : State) (l g : Nat) (f : Group → Group) : (s.mapGroup l g f).lastOff = s.lastOff := rfl
@[simp] theorem State.mapGroup_lastCause (s : State) (l g : Nat) (f : Group → Group) : (s.mapGroup l g f).lastCause = s.lastCause := rfl
@[simp] theorem State.mapGroup_parts (s : State) (l g : Nat) (f : Group → Group) : (s.mapGroup l g f).parts = s.parts := rfl
@[simp] theorem State.mapGroup_adminTag (s : State) (l g : Nat) (f : Group → Group) : (s.mapGroup l g f).adminTag = s.adminTag := rfl
@[simp] theorem State.mapGroup_adminStatus (s : State) (l g : Nat) (f : Group → Group) : (s.mapGroup l g f).adminStatus = s.adminStatus := rfl
@[simp] theorem State.mapGroup_adminCount (s : State) (l g : Nat) (f : Group → Group) : (s.mapGroup l g f).adminCount = s.adminCount := rfl
@[simp] theorem State.mapGroup_adminRing (s : State) (l g : Nat) (f : Group → Group) : (s.mapGroup l g f).adminRing = s.adminRing := rfl
@[simp] theorem State.mapGroup_adminHeard (s : State) (l g : Nat) (f : Group → Group) : (s.mapGroup l g f).adminHeard = s.adminHeard := rfl
@[simp] theorem State.mapGroup_fwins (s : State) (l g : Nat) (f : Group → Group) : (s.mapGroup l g f).fwins = s.fwins := rfl
@[simp] theorem State.mapGroup_winLines (s : State) (l g : Nat) (f : Group → Group) : (s.mapGroup l g f).winLines = s.winLines := rfl
@[simp] theorem State.mapGroup_rotAt (s : State) (l g : Nat) (f : Group → Group) : (s.mapGroup l g f).rotAt = s.rotAt := rfl
@[simp] theorem State.mapGroup_images (s : State) (l g : Nat) (f : Group → Group) : (s.mapGroup l g f).images = s.images := rfl
@[simp] theorem State.mapGroup_mem (s : State) (l g : Nat) (f : Group → Group) : (s.mapGroup l g f).mem = s.mem := rfl
@[simp] theorem State.mapGroup_hostMem (s : State) (l g : Nat) (f : Group → Group) : (s.mapGroup l g f).hostMem = s.hostMem := rfl
@[simp] theorem State.mapGroup_peerMem (s : State) (l g : Nat) (f : Group → Group) : (s.mapGroup l g f).peerMem = s.peerMem := rfl
@[simp] theorem State.mapGroup_poison (s : State) (l g : Nat) (f : Group → Group) : (s.mapGroup l g f).poison = s.poison := rfl
@[simp] theorem State.mapGroup_dirty (s : State) (l g : Nat) (f : Group → Group) : (s.mapGroup l g f).dirty = s.dirty := rfl
@[simp] theorem State.mapGroup_recalls (s : State) (l g : Nat) (f : Group → Group) : (s.mapGroup l g f).recalls = s.recalls := rfl
@[simp] theorem State.mapGroup_seq (s : State) (l g : Nat) (f : Group → Group) : (s.mapGroup l g f).seq = s.seq := rfl
@[simp] theorem State.mapGroup_tlb (s : State) (l g : Nat) (f : Group → Group) : (s.mapGroup l g f).tlb = s.tlb := rfl
@[simp] theorem State.mapGroup_contexts (s : State) (l g : Nat) (f : Group → Group) : (s.mapGroup l g f).contexts = s.contexts := rfl
@[simp] theorem State.mapGroup_queues (s : State) (l g : Nat) (f : Group → Group) : (s.mapGroup l g f).queues = s.queues := rfl
@[simp] theorem State.mapGroup_slots (s : State) (l g : Nat) (f : Group → Group) : (s.mapGroup l g f).slots = s.slots := rfl
@[simp] theorem State.mapGroup_nextLaunch (s : State) (l g : Nat) (f : Group → Group) : (s.mapGroup l g f).nextLaunch = s.nextLaunch := rfl
@[simp] theorem State.mapGroup_ops (s : State) (l g : Nat) (f : Group → Group) : (s.mapGroup l g f).ops = s.ops := rfl
@[simp] theorem State.mapGroup_nextOp (s : State) (l g : Nat) (f : Group → Group) : (s.mapGroup l g f).nextOp = s.nextOp := rfl
@[simp] theorem State.mapGroup_engines (s : State) (l g : Nat) (f : Group → Group) : (s.mapGroup l g f).engines = s.engines := rfl
@[simp] theorem State.mapGroup_runs (s : State) (l g : Nat) (f : Group → Group) : (s.mapGroup l g f).runs = s.runs := rfl
@[simp] theorem State.mapGroup_nextRun (s : State) (l g : Nat) (f : Group → Group) : (s.mapGroup l g f).nextRun = s.nextRun := rfl
@[simp] theorem State.mapGroup_nbStore (s : State) (l g : Nat) (f : Group → Group) : (s.mapGroup l g f).nbStore = s.nbStore := rfl
@[simp] theorem State.mapGroup_splits (s : State) (l g : Nat) (f : Group → Group) : (s.mapGroup l g f).splits = s.splits := rfl
@[simp] theorem State.mapGroup_roll (s : State) (l g : Nat) (f : Group → Group) : (s.mapGroup l g f).roll = s.roll := rfl
@[simp] theorem State.mapGroup_meas (s : State) (l g : Nat) (f : Group → Group) : (s.mapGroup l g f).meas = s.meas := rfl
@[simp] theorem State.mapGroup_spdm (s : State) (l g : Nat) (f : Group → Group) : (s.mapGroup l g f).spdm = s.spdm := rfl
@[simp] theorem State.mapGroup_auditSig (s : State) (l g : Nat) (f : Group → Group) : (s.mapGroup l g f).auditSig = s.auditSig := rfl
@[simp] theorem State.mapGroup_pkg (s : State) (l g : Nat) (f : Group → Group) : (s.mapGroup l g f).pkg = s.pkg := rfl
@[simp] theorem State.mapGroup_routes (s : State) (l g : Nat) (f : Group → Group) : (s.mapGroup l g f).routes = s.routes := rfl
@[simp] theorem State.mapGroup_xoff (s : State) (l g : Nat) (f : Group → Group) : (s.mapGroup l g f).xoff = s.xoff := rfl
@[simp] theorem State.mapGroup_linkIn (s : State) (l g : Nat) (f : Group → Group) : (s.mapGroup l g f).linkIn = s.linkIn := rfl
@[simp] theorem State.mapGroup_linkOut (s : State) (l g : Nat) (f : Group → Group) : (s.mapGroup l g f).linkOut = s.linkOut := rfl
@[simp] theorem State.mapGroup_linkRetries (s : State) (l g : Nat) (f : Group → Group) : (s.mapGroup l g f).linkRetries = s.linkRetries := rfl
@[simp] theorem State.mapGroup_halves (s : State) (l g : Nat) (f : Group → Group) : (s.mapGroup l g f).halves = s.halves := rfl
@[simp] theorem State.mapGroup_bridge (s : State) (l g : Nat) (f : Group → Group) : (s.mapGroup l g f).bridge = s.bridge := rfl
@[simp] theorem State.mapGroup_incarn (s : State) (l g : Nat) (f : Group → Group) : (s.mapGroup l g f).incarn = s.incarn := rfl
@[simp] theorem State.mapGroup_lost (s : State) (l g : Nat) (f : Group → Group) : (s.mapGroup l g f).lost = s.lost := rfl
@[simp] theorem State.mapGroup_refusedLog (s : State) (l g : Nat) (f : Group → Group) : (s.mapGroup l g f).refusedLog = s.refusedLog := rfl
@[simp] theorem State.mapGroup_droppedLog (s : State) (l g : Nat) (f : Group → Group) : (s.mapGroup l g f).droppedLog = s.droppedLog := rfl
@[simp] theorem State.mapGroup_answer (s : State) (l g : Nat) (f : Group → Group) : (s.mapGroup l g f).answer = s.answer := rfl
@[simp] theorem State.mapGroup_mail (s : State) (l g : Nat) (f : Group → Group) : (s.mapGroup l g f).mail = s.mail := rfl
@[simp] theorem State.mapGroup_agenda (s : State) (l g : Nat) (f : Group → Group) : (s.mapGroup l g f).agenda = s.agenda := rfl
@[simp] theorem State.mapGroup_deferred (s : State) (l g : Nat) (f : Group → Group) : (s.mapGroup l g f).deferred = s.deferred := rfl
@[simp] theorem State.mapGroup_received (s : State) (l g : Nat) (f : Group → Group) : (s.mapGroup l g f).received = s.received := rfl
@[simp] theorem State.mapGroup_waiting (s : State) (l g : Nat) (f : Group → Group) : (s.mapGroup l g f).waiting = s.waiting := rfl
@[simp] theorem State.mapGroup_steps (s : State) (l g : Nat) (f : Group → Group) : (s.mapGroup l g f).steps = s.steps := rfl
@[simp] theorem State.mapGroup_issuer (s : State) (l g : Nat) (f : Group → Group) : (s.mapGroup l g f).issuer = s.issuer := rfl
@[simp] theorem State.mapGroup_focus (s : State) (l g : Nat) (f : Group → Group) : (s.mapGroup l g f).focus = s.focus := rfl

/-! `mapWarp` -/

@[simp] theorem State.mapWarp_powered (s : State) (w : WarpId) (f : Warp → Warp) : (s.mapWarp w f).powered = s.powered := rfl
@[simp] theorem State.mapWarp_cycle (s : State) (w : WarpId) (f : Warp → Warp) : (s.mapWarp w f).cycle = s.cycle := rfl
@[simp] theorem State.mapWarp_beat (s : State) (w : WarpId) (f : Warp → Warp) : (s.mapWarp w f).beat = s.beat := rfl
@[simp] theorem State.mapWarp_devready (s : State) (w : WarpId) (f : Warp → Warp) : (s.mapWarp w f).devready = s.devready := rfl
@[simp] theorem State.mapWarp_failed (s : State) (w : WarpId) (f : Warp → Warp) : (s.mapWarp w f).failed = s.failed := rfl
@[simp] theorem State.mapWarp_bringStep (s : State) (w : WarpId) (f : Warp → Warp) : (s.mapWarp w f).bringStep = s.bringStep := rfl
@[simp] theorem State.mapWarp_bringing (s : State) (w : WarpId) (f : Warp → Warp) : (s.mapWarp w f).bringing = s.bringing := rfl
@[simp] theorem State.mapWarp_lwidth (s : State) (w : WarpId) (f : Warp → Warp) : (s.mapWarp w f).lwidth = s.lwidth := rfl
@[simp] theorem State.mapWarp_lrate (s : State) (w : WarpId) (f : Warp → Warp) : (s.mapWarp w f).lrate = s.lrate := rfl
@[simp] theorem State.mapWarp_fports (s : State) (w : WarpId) (f : Warp → Warp) : (s.mapWarp w f).fports = s.fports := rfl
@[simp] theorem State.mapWarp_gated (s : State) (w : WarpId) (f : Warp → Warp) : (s.mapWarp w f).gated = s.gated := rfl
@[simp] theorem State.mapWarp_thermwarn (s : State) (w : WarpId) (f : Warp → Warp) : (s.mapWarp w f).thermwarn = s.thermwarn := rfl
@[simp] theorem State.mapWarp_hotTiers (s : State) (w : WarpId) (f : Warp → Warp) : (s.mapWarp w f).hotTiers = s.hotTiers := rfl
@[simp] theorem State.mapWarp_overPower (s : State) (w : WarpId) (f : Warp → Warp) : (s.mapWarp w f).overPower = s.overPower := rfl
@[simp] theorem State.mapWarp_tripped (s : State) (w : WarpId) (f : Warp → Warp) : (s.mapWarp w f).tripped = s.tripped := rfl
@[simp] theorem State.mapWarp_forbidden (s : State) (w : WarpId) (f : Warp → Warp) : (s.mapWarp w f).forbidden = s.forbidden := rfl
@[simp] theorem State.mapWarp_roles (s : State) (w : WarpId) (f : Warp → Warp) : (s.mapWarp w f).roles = s.roles := rfl
@[simp] theorem State.mapWarp_roleChange (s : State) (w : WarpId) (f : Warp → Warp) : (s.mapWarp w f).roleChange = s.roleChange := rfl
@[simp] theorem State.mapWarp_lastOff (s : State) (w : WarpId) (f : Warp → Warp) : (s.mapWarp w f).lastOff = s.lastOff := rfl
@[simp] theorem State.mapWarp_lastCause (s : State) (w : WarpId) (f : Warp → Warp) : (s.mapWarp w f).lastCause = s.lastCause := rfl
@[simp] theorem State.mapWarp_parts (s : State) (w : WarpId) (f : Warp → Warp) : (s.mapWarp w f).parts = s.parts := rfl
@[simp] theorem State.mapWarp_adminTag (s : State) (w : WarpId) (f : Warp → Warp) : (s.mapWarp w f).adminTag = s.adminTag := rfl
@[simp] theorem State.mapWarp_adminStatus (s : State) (w : WarpId) (f : Warp → Warp) : (s.mapWarp w f).adminStatus = s.adminStatus := rfl
@[simp] theorem State.mapWarp_adminCount (s : State) (w : WarpId) (f : Warp → Warp) : (s.mapWarp w f).adminCount = s.adminCount := rfl
@[simp] theorem State.mapWarp_adminRing (s : State) (w : WarpId) (f : Warp → Warp) : (s.mapWarp w f).adminRing = s.adminRing := rfl
@[simp] theorem State.mapWarp_adminHeard (s : State) (w : WarpId) (f : Warp → Warp) : (s.mapWarp w f).adminHeard = s.adminHeard := rfl
@[simp] theorem State.mapWarp_fwins (s : State) (w : WarpId) (f : Warp → Warp) : (s.mapWarp w f).fwins = s.fwins := rfl
@[simp] theorem State.mapWarp_winLines (s : State) (w : WarpId) (f : Warp → Warp) : (s.mapWarp w f).winLines = s.winLines := rfl
@[simp] theorem State.mapWarp_rotAt (s : State) (w : WarpId) (f : Warp → Warp) : (s.mapWarp w f).rotAt = s.rotAt := rfl
@[simp] theorem State.mapWarp_images (s : State) (w : WarpId) (f : Warp → Warp) : (s.mapWarp w f).images = s.images := rfl
@[simp] theorem State.mapWarp_mem (s : State) (w : WarpId) (f : Warp → Warp) : (s.mapWarp w f).mem = s.mem := rfl
@[simp] theorem State.mapWarp_hostMem (s : State) (w : WarpId) (f : Warp → Warp) : (s.mapWarp w f).hostMem = s.hostMem := rfl
@[simp] theorem State.mapWarp_peerMem (s : State) (w : WarpId) (f : Warp → Warp) : (s.mapWarp w f).peerMem = s.peerMem := rfl
@[simp] theorem State.mapWarp_poison (s : State) (w : WarpId) (f : Warp → Warp) : (s.mapWarp w f).poison = s.poison := rfl
@[simp] theorem State.mapWarp_dirty (s : State) (w : WarpId) (f : Warp → Warp) : (s.mapWarp w f).dirty = s.dirty := rfl
@[simp] theorem State.mapWarp_recalls (s : State) (w : WarpId) (f : Warp → Warp) : (s.mapWarp w f).recalls = s.recalls := rfl
@[simp] theorem State.mapWarp_seq (s : State) (w : WarpId) (f : Warp → Warp) : (s.mapWarp w f).seq = s.seq := rfl
@[simp] theorem State.mapWarp_tlb (s : State) (w : WarpId) (f : Warp → Warp) : (s.mapWarp w f).tlb = s.tlb := rfl
@[simp] theorem State.mapWarp_contexts (s : State) (w : WarpId) (f : Warp → Warp) : (s.mapWarp w f).contexts = s.contexts := rfl
@[simp] theorem State.mapWarp_queues (s : State) (w : WarpId) (f : Warp → Warp) : (s.mapWarp w f).queues = s.queues := rfl
@[simp] theorem State.mapWarp_slots (s : State) (w : WarpId) (f : Warp → Warp) : (s.mapWarp w f).slots = s.slots := rfl
@[simp] theorem State.mapWarp_nextLaunch (s : State) (w : WarpId) (f : Warp → Warp) : (s.mapWarp w f).nextLaunch = s.nextLaunch := rfl
@[simp] theorem State.mapWarp_ops (s : State) (w : WarpId) (f : Warp → Warp) : (s.mapWarp w f).ops = s.ops := rfl
@[simp] theorem State.mapWarp_nextOp (s : State) (w : WarpId) (f : Warp → Warp) : (s.mapWarp w f).nextOp = s.nextOp := rfl
@[simp] theorem State.mapWarp_engines (s : State) (w : WarpId) (f : Warp → Warp) : (s.mapWarp w f).engines = s.engines := rfl
@[simp] theorem State.mapWarp_runs (s : State) (w : WarpId) (f : Warp → Warp) : (s.mapWarp w f).runs = s.runs := rfl
@[simp] theorem State.mapWarp_nextRun (s : State) (w : WarpId) (f : Warp → Warp) : (s.mapWarp w f).nextRun = s.nextRun := rfl
@[simp] theorem State.mapWarp_nbStore (s : State) (w : WarpId) (f : Warp → Warp) : (s.mapWarp w f).nbStore = s.nbStore := rfl
@[simp] theorem State.mapWarp_splits (s : State) (w : WarpId) (f : Warp → Warp) : (s.mapWarp w f).splits = s.splits := rfl
@[simp] theorem State.mapWarp_roll (s : State) (w : WarpId) (f : Warp → Warp) : (s.mapWarp w f).roll = s.roll := rfl
@[simp] theorem State.mapWarp_meas (s : State) (w : WarpId) (f : Warp → Warp) : (s.mapWarp w f).meas = s.meas := rfl
@[simp] theorem State.mapWarp_spdm (s : State) (w : WarpId) (f : Warp → Warp) : (s.mapWarp w f).spdm = s.spdm := rfl
@[simp] theorem State.mapWarp_auditSig (s : State) (w : WarpId) (f : Warp → Warp) : (s.mapWarp w f).auditSig = s.auditSig := rfl
@[simp] theorem State.mapWarp_pkg (s : State) (w : WarpId) (f : Warp → Warp) : (s.mapWarp w f).pkg = s.pkg := rfl
@[simp] theorem State.mapWarp_routes (s : State) (w : WarpId) (f : Warp → Warp) : (s.mapWarp w f).routes = s.routes := rfl
@[simp] theorem State.mapWarp_xoff (s : State) (w : WarpId) (f : Warp → Warp) : (s.mapWarp w f).xoff = s.xoff := rfl
@[simp] theorem State.mapWarp_linkIn (s : State) (w : WarpId) (f : Warp → Warp) : (s.mapWarp w f).linkIn = s.linkIn := rfl
@[simp] theorem State.mapWarp_linkOut (s : State) (w : WarpId) (f : Warp → Warp) : (s.mapWarp w f).linkOut = s.linkOut := rfl
@[simp] theorem State.mapWarp_linkRetries (s : State) (w : WarpId) (f : Warp → Warp) : (s.mapWarp w f).linkRetries = s.linkRetries := rfl
@[simp] theorem State.mapWarp_halves (s : State) (w : WarpId) (f : Warp → Warp) : (s.mapWarp w f).halves = s.halves := rfl
@[simp] theorem State.mapWarp_bridge (s : State) (w : WarpId) (f : Warp → Warp) : (s.mapWarp w f).bridge = s.bridge := rfl
@[simp] theorem State.mapWarp_incarn (s : State) (w : WarpId) (f : Warp → Warp) : (s.mapWarp w f).incarn = s.incarn := rfl
@[simp] theorem State.mapWarp_lost (s : State) (w : WarpId) (f : Warp → Warp) : (s.mapWarp w f).lost = s.lost := rfl
@[simp] theorem State.mapWarp_refusedLog (s : State) (w : WarpId) (f : Warp → Warp) : (s.mapWarp w f).refusedLog = s.refusedLog := rfl
@[simp] theorem State.mapWarp_droppedLog (s : State) (w : WarpId) (f : Warp → Warp) : (s.mapWarp w f).droppedLog = s.droppedLog := rfl
@[simp] theorem State.mapWarp_answer (s : State) (w : WarpId) (f : Warp → Warp) : (s.mapWarp w f).answer = s.answer := rfl
@[simp] theorem State.mapWarp_mail (s : State) (w : WarpId) (f : Warp → Warp) : (s.mapWarp w f).mail = s.mail := rfl
@[simp] theorem State.mapWarp_agenda (s : State) (w : WarpId) (f : Warp → Warp) : (s.mapWarp w f).agenda = s.agenda := rfl
@[simp] theorem State.mapWarp_deferred (s : State) (w : WarpId) (f : Warp → Warp) : (s.mapWarp w f).deferred = s.deferred := rfl
@[simp] theorem State.mapWarp_received (s : State) (w : WarpId) (f : Warp → Warp) : (s.mapWarp w f).received = s.received := rfl
@[simp] theorem State.mapWarp_waiting (s : State) (w : WarpId) (f : Warp → Warp) : (s.mapWarp w f).waiting = s.waiting := rfl
@[simp] theorem State.mapWarp_steps (s : State) (w : WarpId) (f : Warp → Warp) : (s.mapWarp w f).steps = s.steps := rfl
@[simp] theorem State.mapWarp_issuer (s : State) (w : WarpId) (f : Warp → Warp) : (s.mapWarp w f).issuer = s.issuer := rfl
@[simp] theorem State.mapWarp_focus (s : State) (w : WarpId) (f : Warp → Warp) : (s.mapWarp w f).focus = s.focus := rfl

/-! `mapContext` -/

@[simp] theorem State.mapContext_powered (s : State) (c : CtxKey) (f : Context → Context) : (s.mapContext c f).powered = s.powered := rfl
@[simp] theorem State.mapContext_cycle (s : State) (c : CtxKey) (f : Context → Context) : (s.mapContext c f).cycle = s.cycle := rfl
@[simp] theorem State.mapContext_beat (s : State) (c : CtxKey) (f : Context → Context) : (s.mapContext c f).beat = s.beat := rfl
@[simp] theorem State.mapContext_devready (s : State) (c : CtxKey) (f : Context → Context) : (s.mapContext c f).devready = s.devready := rfl
@[simp] theorem State.mapContext_failed (s : State) (c : CtxKey) (f : Context → Context) : (s.mapContext c f).failed = s.failed := rfl
@[simp] theorem State.mapContext_bringStep (s : State) (c : CtxKey) (f : Context → Context) : (s.mapContext c f).bringStep = s.bringStep := rfl
@[simp] theorem State.mapContext_bringing (s : State) (c : CtxKey) (f : Context → Context) : (s.mapContext c f).bringing = s.bringing := rfl
@[simp] theorem State.mapContext_lwidth (s : State) (c : CtxKey) (f : Context → Context) : (s.mapContext c f).lwidth = s.lwidth := rfl
@[simp] theorem State.mapContext_lrate (s : State) (c : CtxKey) (f : Context → Context) : (s.mapContext c f).lrate = s.lrate := rfl
@[simp] theorem State.mapContext_fports (s : State) (c : CtxKey) (f : Context → Context) : (s.mapContext c f).fports = s.fports := rfl
@[simp] theorem State.mapContext_gated (s : State) (c : CtxKey) (f : Context → Context) : (s.mapContext c f).gated = s.gated := rfl
@[simp] theorem State.mapContext_thermwarn (s : State) (c : CtxKey) (f : Context → Context) : (s.mapContext c f).thermwarn = s.thermwarn := rfl
@[simp] theorem State.mapContext_hotTiers (s : State) (c : CtxKey) (f : Context → Context) : (s.mapContext c f).hotTiers = s.hotTiers := rfl
@[simp] theorem State.mapContext_overPower (s : State) (c : CtxKey) (f : Context → Context) : (s.mapContext c f).overPower = s.overPower := rfl
@[simp] theorem State.mapContext_tripped (s : State) (c : CtxKey) (f : Context → Context) : (s.mapContext c f).tripped = s.tripped := rfl
@[simp] theorem State.mapContext_forbidden (s : State) (c : CtxKey) (f : Context → Context) : (s.mapContext c f).forbidden = s.forbidden := rfl
@[simp] theorem State.mapContext_roles (s : State) (c : CtxKey) (f : Context → Context) : (s.mapContext c f).roles = s.roles := rfl
@[simp] theorem State.mapContext_roleChange (s : State) (c : CtxKey) (f : Context → Context) : (s.mapContext c f).roleChange = s.roleChange := rfl
@[simp] theorem State.mapContext_lastOff (s : State) (c : CtxKey) (f : Context → Context) : (s.mapContext c f).lastOff = s.lastOff := rfl
@[simp] theorem State.mapContext_lastCause (s : State) (c : CtxKey) (f : Context → Context) : (s.mapContext c f).lastCause = s.lastCause := rfl
@[simp] theorem State.mapContext_parts (s : State) (c : CtxKey) (f : Context → Context) : (s.mapContext c f).parts = s.parts := rfl
@[simp] theorem State.mapContext_adminTag (s : State) (c : CtxKey) (f : Context → Context) : (s.mapContext c f).adminTag = s.adminTag := rfl
@[simp] theorem State.mapContext_adminStatus (s : State) (c : CtxKey) (f : Context → Context) : (s.mapContext c f).adminStatus = s.adminStatus := rfl
@[simp] theorem State.mapContext_adminCount (s : State) (c : CtxKey) (f : Context → Context) : (s.mapContext c f).adminCount = s.adminCount := rfl
@[simp] theorem State.mapContext_adminRing (s : State) (c : CtxKey) (f : Context → Context) : (s.mapContext c f).adminRing = s.adminRing := rfl
@[simp] theorem State.mapContext_adminHeard (s : State) (c : CtxKey) (f : Context → Context) : (s.mapContext c f).adminHeard = s.adminHeard := rfl
@[simp] theorem State.mapContext_fwins (s : State) (c : CtxKey) (f : Context → Context) : (s.mapContext c f).fwins = s.fwins := rfl
@[simp] theorem State.mapContext_winLines (s : State) (c : CtxKey) (f : Context → Context) : (s.mapContext c f).winLines = s.winLines := rfl
@[simp] theorem State.mapContext_rotAt (s : State) (c : CtxKey) (f : Context → Context) : (s.mapContext c f).rotAt = s.rotAt := rfl
@[simp] theorem State.mapContext_images (s : State) (c : CtxKey) (f : Context → Context) : (s.mapContext c f).images = s.images := rfl
@[simp] theorem State.mapContext_mem (s : State) (c : CtxKey) (f : Context → Context) : (s.mapContext c f).mem = s.mem := rfl
@[simp] theorem State.mapContext_hostMem (s : State) (c : CtxKey) (f : Context → Context) : (s.mapContext c f).hostMem = s.hostMem := rfl
@[simp] theorem State.mapContext_peerMem (s : State) (c : CtxKey) (f : Context → Context) : (s.mapContext c f).peerMem = s.peerMem := rfl
@[simp] theorem State.mapContext_poison (s : State) (c : CtxKey) (f : Context → Context) : (s.mapContext c f).poison = s.poison := rfl
@[simp] theorem State.mapContext_dirty (s : State) (c : CtxKey) (f : Context → Context) : (s.mapContext c f).dirty = s.dirty := rfl
@[simp] theorem State.mapContext_recalls (s : State) (c : CtxKey) (f : Context → Context) : (s.mapContext c f).recalls = s.recalls := rfl
@[simp] theorem State.mapContext_seq (s : State) (c : CtxKey) (f : Context → Context) : (s.mapContext c f).seq = s.seq := rfl
@[simp] theorem State.mapContext_tlb (s : State) (c : CtxKey) (f : Context → Context) : (s.mapContext c f).tlb = s.tlb := rfl
@[simp] theorem State.mapContext_queues (s : State) (c : CtxKey) (f : Context → Context) : (s.mapContext c f).queues = s.queues := rfl
@[simp] theorem State.mapContext_slots (s : State) (c : CtxKey) (f : Context → Context) : (s.mapContext c f).slots = s.slots := rfl
@[simp] theorem State.mapContext_launches (s : State) (c : CtxKey) (f : Context → Context) : (s.mapContext c f).launches = s.launches := rfl
@[simp] theorem State.mapContext_nextLaunch (s : State) (c : CtxKey) (f : Context → Context) : (s.mapContext c f).nextLaunch = s.nextLaunch := rfl
@[simp] theorem State.mapContext_ops (s : State) (c : CtxKey) (f : Context → Context) : (s.mapContext c f).ops = s.ops := rfl
@[simp] theorem State.mapContext_nextOp (s : State) (c : CtxKey) (f : Context → Context) : (s.mapContext c f).nextOp = s.nextOp := rfl
@[simp] theorem State.mapContext_engines (s : State) (c : CtxKey) (f : Context → Context) : (s.mapContext c f).engines = s.engines := rfl
@[simp] theorem State.mapContext_runs (s : State) (c : CtxKey) (f : Context → Context) : (s.mapContext c f).runs = s.runs := rfl
@[simp] theorem State.mapContext_nextRun (s : State) (c : CtxKey) (f : Context → Context) : (s.mapContext c f).nextRun = s.nextRun := rfl
@[simp] theorem State.mapContext_nbStore (s : State) (c : CtxKey) (f : Context → Context) : (s.mapContext c f).nbStore = s.nbStore := rfl
@[simp] theorem State.mapContext_splits (s : State) (c : CtxKey) (f : Context → Context) : (s.mapContext c f).splits = s.splits := rfl
@[simp] theorem State.mapContext_roll (s : State) (c : CtxKey) (f : Context → Context) : (s.mapContext c f).roll = s.roll := rfl
@[simp] theorem State.mapContext_meas (s : State) (c : CtxKey) (f : Context → Context) : (s.mapContext c f).meas = s.meas := rfl
@[simp] theorem State.mapContext_spdm (s : State) (c : CtxKey) (f : Context → Context) : (s.mapContext c f).spdm = s.spdm := rfl
@[simp] theorem State.mapContext_auditSig (s : State) (c : CtxKey) (f : Context → Context) : (s.mapContext c f).auditSig = s.auditSig := rfl
@[simp] theorem State.mapContext_pkg (s : State) (c : CtxKey) (f : Context → Context) : (s.mapContext c f).pkg = s.pkg := rfl
@[simp] theorem State.mapContext_routes (s : State) (c : CtxKey) (f : Context → Context) : (s.mapContext c f).routes = s.routes := rfl
@[simp] theorem State.mapContext_xoff (s : State) (c : CtxKey) (f : Context → Context) : (s.mapContext c f).xoff = s.xoff := rfl
@[simp] theorem State.mapContext_linkIn (s : State) (c : CtxKey) (f : Context → Context) : (s.mapContext c f).linkIn = s.linkIn := rfl
@[simp] theorem State.mapContext_linkOut (s : State) (c : CtxKey) (f : Context → Context) : (s.mapContext c f).linkOut = s.linkOut := rfl
@[simp] theorem State.mapContext_linkRetries (s : State) (c : CtxKey) (f : Context → Context) : (s.mapContext c f).linkRetries = s.linkRetries := rfl
@[simp] theorem State.mapContext_halves (s : State) (c : CtxKey) (f : Context → Context) : (s.mapContext c f).halves = s.halves := rfl
@[simp] theorem State.mapContext_bridge (s : State) (c : CtxKey) (f : Context → Context) : (s.mapContext c f).bridge = s.bridge := rfl
@[simp] theorem State.mapContext_incarn (s : State) (c : CtxKey) (f : Context → Context) : (s.mapContext c f).incarn = s.incarn := rfl
@[simp] theorem State.mapContext_lost (s : State) (c : CtxKey) (f : Context → Context) : (s.mapContext c f).lost = s.lost := rfl
@[simp] theorem State.mapContext_refusedLog (s : State) (c : CtxKey) (f : Context → Context) : (s.mapContext c f).refusedLog = s.refusedLog := rfl
@[simp] theorem State.mapContext_droppedLog (s : State) (c : CtxKey) (f : Context → Context) : (s.mapContext c f).droppedLog = s.droppedLog := rfl
@[simp] theorem State.mapContext_answer (s : State) (c : CtxKey) (f : Context → Context) : (s.mapContext c f).answer = s.answer := rfl
@[simp] theorem State.mapContext_mail (s : State) (c : CtxKey) (f : Context → Context) : (s.mapContext c f).mail = s.mail := rfl
@[simp] theorem State.mapContext_agenda (s : State) (c : CtxKey) (f : Context → Context) : (s.mapContext c f).agenda = s.agenda := rfl
@[simp] theorem State.mapContext_deferred (s : State) (c : CtxKey) (f : Context → Context) : (s.mapContext c f).deferred = s.deferred := rfl
@[simp] theorem State.mapContext_received (s : State) (c : CtxKey) (f : Context → Context) : (s.mapContext c f).received = s.received := rfl
@[simp] theorem State.mapContext_waiting (s : State) (c : CtxKey) (f : Context → Context) : (s.mapContext c f).waiting = s.waiting := rfl
@[simp] theorem State.mapContext_steps (s : State) (c : CtxKey) (f : Context → Context) : (s.mapContext c f).steps = s.steps := rfl
@[simp] theorem State.mapContext_issuer (s : State) (c : CtxKey) (f : Context → Context) : (s.mapContext c f).issuer = s.issuer := rfl
@[simp] theorem State.mapContext_focus (s : State) (c : CtxKey) (f : Context → Context) : (s.mapContext c f).focus = s.focus := rfl

/-! `mapPart` -/

@[simp] theorem State.mapPart_powered (s : State) (p : Nat) (f : Partition → Partition) : (s.mapPart p f).powered = s.powered := rfl
@[simp] theorem State.mapPart_cycle (s : State) (p : Nat) (f : Partition → Partition) : (s.mapPart p f).cycle = s.cycle := rfl
@[simp] theorem State.mapPart_beat (s : State) (p : Nat) (f : Partition → Partition) : (s.mapPart p f).beat = s.beat := rfl
@[simp] theorem State.mapPart_devready (s : State) (p : Nat) (f : Partition → Partition) : (s.mapPart p f).devready = s.devready := rfl
@[simp] theorem State.mapPart_failed (s : State) (p : Nat) (f : Partition → Partition) : (s.mapPart p f).failed = s.failed := rfl
@[simp] theorem State.mapPart_bringStep (s : State) (p : Nat) (f : Partition → Partition) : (s.mapPart p f).bringStep = s.bringStep := rfl
@[simp] theorem State.mapPart_bringing (s : State) (p : Nat) (f : Partition → Partition) : (s.mapPart p f).bringing = s.bringing := rfl
@[simp] theorem State.mapPart_lwidth (s : State) (p : Nat) (f : Partition → Partition) : (s.mapPart p f).lwidth = s.lwidth := rfl
@[simp] theorem State.mapPart_lrate (s : State) (p : Nat) (f : Partition → Partition) : (s.mapPart p f).lrate = s.lrate := rfl
@[simp] theorem State.mapPart_fports (s : State) (p : Nat) (f : Partition → Partition) : (s.mapPart p f).fports = s.fports := rfl
@[simp] theorem State.mapPart_gated (s : State) (p : Nat) (f : Partition → Partition) : (s.mapPart p f).gated = s.gated := rfl
@[simp] theorem State.mapPart_thermwarn (s : State) (p : Nat) (f : Partition → Partition) : (s.mapPart p f).thermwarn = s.thermwarn := rfl
@[simp] theorem State.mapPart_hotTiers (s : State) (p : Nat) (f : Partition → Partition) : (s.mapPart p f).hotTiers = s.hotTiers := rfl
@[simp] theorem State.mapPart_overPower (s : State) (p : Nat) (f : Partition → Partition) : (s.mapPart p f).overPower = s.overPower := rfl
@[simp] theorem State.mapPart_tripped (s : State) (p : Nat) (f : Partition → Partition) : (s.mapPart p f).tripped = s.tripped := rfl
@[simp] theorem State.mapPart_forbidden (s : State) (p : Nat) (f : Partition → Partition) : (s.mapPart p f).forbidden = s.forbidden := rfl
@[simp] theorem State.mapPart_roles (s : State) (p : Nat) (f : Partition → Partition) : (s.mapPart p f).roles = s.roles := rfl
@[simp] theorem State.mapPart_roleChange (s : State) (p : Nat) (f : Partition → Partition) : (s.mapPart p f).roleChange = s.roleChange := rfl
@[simp] theorem State.mapPart_lastOff (s : State) (p : Nat) (f : Partition → Partition) : (s.mapPart p f).lastOff = s.lastOff := rfl
@[simp] theorem State.mapPart_lastCause (s : State) (p : Nat) (f : Partition → Partition) : (s.mapPart p f).lastCause = s.lastCause := rfl
@[simp] theorem State.mapPart_adminTag (s : State) (p : Nat) (f : Partition → Partition) : (s.mapPart p f).adminTag = s.adminTag := rfl
@[simp] theorem State.mapPart_adminStatus (s : State) (p : Nat) (f : Partition → Partition) : (s.mapPart p f).adminStatus = s.adminStatus := rfl
@[simp] theorem State.mapPart_adminCount (s : State) (p : Nat) (f : Partition → Partition) : (s.mapPart p f).adminCount = s.adminCount := rfl
@[simp] theorem State.mapPart_adminRing (s : State) (p : Nat) (f : Partition → Partition) : (s.mapPart p f).adminRing = s.adminRing := rfl
@[simp] theorem State.mapPart_adminHeard (s : State) (p : Nat) (f : Partition → Partition) : (s.mapPart p f).adminHeard = s.adminHeard := rfl
@[simp] theorem State.mapPart_fwins (s : State) (p : Nat) (f : Partition → Partition) : (s.mapPart p f).fwins = s.fwins := rfl
@[simp] theorem State.mapPart_winLines (s : State) (p : Nat) (f : Partition → Partition) : (s.mapPart p f).winLines = s.winLines := rfl
@[simp] theorem State.mapPart_rotAt (s : State) (p : Nat) (f : Partition → Partition) : (s.mapPart p f).rotAt = s.rotAt := rfl
@[simp] theorem State.mapPart_images (s : State) (p : Nat) (f : Partition → Partition) : (s.mapPart p f).images = s.images := rfl
@[simp] theorem State.mapPart_mem (s : State) (p : Nat) (f : Partition → Partition) : (s.mapPart p f).mem = s.mem := rfl
@[simp] theorem State.mapPart_hostMem (s : State) (p : Nat) (f : Partition → Partition) : (s.mapPart p f).hostMem = s.hostMem := rfl
@[simp] theorem State.mapPart_peerMem (s : State) (p : Nat) (f : Partition → Partition) : (s.mapPart p f).peerMem = s.peerMem := rfl
@[simp] theorem State.mapPart_poison (s : State) (p : Nat) (f : Partition → Partition) : (s.mapPart p f).poison = s.poison := rfl
@[simp] theorem State.mapPart_dirty (s : State) (p : Nat) (f : Partition → Partition) : (s.mapPart p f).dirty = s.dirty := rfl
@[simp] theorem State.mapPart_recalls (s : State) (p : Nat) (f : Partition → Partition) : (s.mapPart p f).recalls = s.recalls := rfl
@[simp] theorem State.mapPart_seq (s : State) (p : Nat) (f : Partition → Partition) : (s.mapPart p f).seq = s.seq := rfl
@[simp] theorem State.mapPart_tlb (s : State) (p : Nat) (f : Partition → Partition) : (s.mapPart p f).tlb = s.tlb := rfl
@[simp] theorem State.mapPart_contexts (s : State) (p : Nat) (f : Partition → Partition) : (s.mapPart p f).contexts = s.contexts := rfl
@[simp] theorem State.mapPart_queues (s : State) (p : Nat) (f : Partition → Partition) : (s.mapPart p f).queues = s.queues := rfl
@[simp] theorem State.mapPart_slots (s : State) (p : Nat) (f : Partition → Partition) : (s.mapPart p f).slots = s.slots := rfl
@[simp] theorem State.mapPart_launches (s : State) (p : Nat) (f : Partition → Partition) : (s.mapPart p f).launches = s.launches := rfl
@[simp] theorem State.mapPart_nextLaunch (s : State) (p : Nat) (f : Partition → Partition) : (s.mapPart p f).nextLaunch = s.nextLaunch := rfl
@[simp] theorem State.mapPart_ops (s : State) (p : Nat) (f : Partition → Partition) : (s.mapPart p f).ops = s.ops := rfl
@[simp] theorem State.mapPart_nextOp (s : State) (p : Nat) (f : Partition → Partition) : (s.mapPart p f).nextOp = s.nextOp := rfl
@[simp] theorem State.mapPart_engines (s : State) (p : Nat) (f : Partition → Partition) : (s.mapPart p f).engines = s.engines := rfl
@[simp] theorem State.mapPart_runs (s : State) (p : Nat) (f : Partition → Partition) : (s.mapPart p f).runs = s.runs := rfl
@[simp] theorem State.mapPart_nextRun (s : State) (p : Nat) (f : Partition → Partition) : (s.mapPart p f).nextRun = s.nextRun := rfl
@[simp] theorem State.mapPart_nbStore (s : State) (p : Nat) (f : Partition → Partition) : (s.mapPart p f).nbStore = s.nbStore := rfl
@[simp] theorem State.mapPart_splits (s : State) (p : Nat) (f : Partition → Partition) : (s.mapPart p f).splits = s.splits := rfl
@[simp] theorem State.mapPart_roll (s : State) (p : Nat) (f : Partition → Partition) : (s.mapPart p f).roll = s.roll := rfl
@[simp] theorem State.mapPart_meas (s : State) (p : Nat) (f : Partition → Partition) : (s.mapPart p f).meas = s.meas := rfl
@[simp] theorem State.mapPart_spdm (s : State) (p : Nat) (f : Partition → Partition) : (s.mapPart p f).spdm = s.spdm := rfl
@[simp] theorem State.mapPart_auditSig (s : State) (p : Nat) (f : Partition → Partition) : (s.mapPart p f).auditSig = s.auditSig := rfl
@[simp] theorem State.mapPart_pkg (s : State) (p : Nat) (f : Partition → Partition) : (s.mapPart p f).pkg = s.pkg := rfl
@[simp] theorem State.mapPart_routes (s : State) (p : Nat) (f : Partition → Partition) : (s.mapPart p f).routes = s.routes := rfl
@[simp] theorem State.mapPart_xoff (s : State) (p : Nat) (f : Partition → Partition) : (s.mapPart p f).xoff = s.xoff := rfl
@[simp] theorem State.mapPart_linkIn (s : State) (p : Nat) (f : Partition → Partition) : (s.mapPart p f).linkIn = s.linkIn := rfl
@[simp] theorem State.mapPart_linkOut (s : State) (p : Nat) (f : Partition → Partition) : (s.mapPart p f).linkOut = s.linkOut := rfl
@[simp] theorem State.mapPart_linkRetries (s : State) (p : Nat) (f : Partition → Partition) : (s.mapPart p f).linkRetries = s.linkRetries := rfl
@[simp] theorem State.mapPart_halves (s : State) (p : Nat) (f : Partition → Partition) : (s.mapPart p f).halves = s.halves := rfl
@[simp] theorem State.mapPart_bridge (s : State) (p : Nat) (f : Partition → Partition) : (s.mapPart p f).bridge = s.bridge := rfl
@[simp] theorem State.mapPart_incarn (s : State) (p : Nat) (f : Partition → Partition) : (s.mapPart p f).incarn = s.incarn := rfl
@[simp] theorem State.mapPart_lost (s : State) (p : Nat) (f : Partition → Partition) : (s.mapPart p f).lost = s.lost := rfl
@[simp] theorem State.mapPart_refusedLog (s : State) (p : Nat) (f : Partition → Partition) : (s.mapPart p f).refusedLog = s.refusedLog := rfl
@[simp] theorem State.mapPart_droppedLog (s : State) (p : Nat) (f : Partition → Partition) : (s.mapPart p f).droppedLog = s.droppedLog := rfl
@[simp] theorem State.mapPart_answer (s : State) (p : Nat) (f : Partition → Partition) : (s.mapPart p f).answer = s.answer := rfl
@[simp] theorem State.mapPart_mail (s : State) (p : Nat) (f : Partition → Partition) : (s.mapPart p f).mail = s.mail := rfl
@[simp] theorem State.mapPart_agenda (s : State) (p : Nat) (f : Partition → Partition) : (s.mapPart p f).agenda = s.agenda := rfl
@[simp] theorem State.mapPart_deferred (s : State) (p : Nat) (f : Partition → Partition) : (s.mapPart p f).deferred = s.deferred := rfl
@[simp] theorem State.mapPart_received (s : State) (p : Nat) (f : Partition → Partition) : (s.mapPart p f).received = s.received := rfl
@[simp] theorem State.mapPart_waiting (s : State) (p : Nat) (f : Partition → Partition) : (s.mapPart p f).waiting = s.waiting := rfl
@[simp] theorem State.mapPart_steps (s : State) (p : Nat) (f : Partition → Partition) : (s.mapPart p f).steps = s.steps := rfl
@[simp] theorem State.mapPart_issuer (s : State) (p : Nat) (f : Partition → Partition) : (s.mapPart p f).issuer = s.issuer := rfl
@[simp] theorem State.mapPart_focus (s : State) (p : Nat) (f : Partition → Partition) : (s.mapPart p f).focus = s.focus := rfl

/-! `mapRegion` -/

@[simp] theorem State.mapRegion_powered (s : State) (p i : Nat) (f : Region → Region) : (s.mapRegion p i f).powered = s.powered := rfl
@[simp] theorem State.mapRegion_cycle (s : State) (p i : Nat) (f : Region → Region) : (s.mapRegion p i f).cycle = s.cycle := rfl
@[simp] theorem State.mapRegion_beat (s : State) (p i : Nat) (f : Region → Region) : (s.mapRegion p i f).beat = s.beat := rfl
@[simp] theorem State.mapRegion_devready (s : State) (p i : Nat) (f : Region → Region) : (s.mapRegion p i f).devready = s.devready := rfl
@[simp] theorem State.mapRegion_failed (s : State) (p i : Nat) (f : Region → Region) : (s.mapRegion p i f).failed = s.failed := rfl
@[simp] theorem State.mapRegion_bringStep (s : State) (p i : Nat) (f : Region → Region) : (s.mapRegion p i f).bringStep = s.bringStep := rfl
@[simp] theorem State.mapRegion_bringing (s : State) (p i : Nat) (f : Region → Region) : (s.mapRegion p i f).bringing = s.bringing := rfl
@[simp] theorem State.mapRegion_lwidth (s : State) (p i : Nat) (f : Region → Region) : (s.mapRegion p i f).lwidth = s.lwidth := rfl
@[simp] theorem State.mapRegion_lrate (s : State) (p i : Nat) (f : Region → Region) : (s.mapRegion p i f).lrate = s.lrate := rfl
@[simp] theorem State.mapRegion_fports (s : State) (p i : Nat) (f : Region → Region) : (s.mapRegion p i f).fports = s.fports := rfl
@[simp] theorem State.mapRegion_gated (s : State) (p i : Nat) (f : Region → Region) : (s.mapRegion p i f).gated = s.gated := rfl
@[simp] theorem State.mapRegion_thermwarn (s : State) (p i : Nat) (f : Region → Region) : (s.mapRegion p i f).thermwarn = s.thermwarn := rfl
@[simp] theorem State.mapRegion_hotTiers (s : State) (p i : Nat) (f : Region → Region) : (s.mapRegion p i f).hotTiers = s.hotTiers := rfl
@[simp] theorem State.mapRegion_overPower (s : State) (p i : Nat) (f : Region → Region) : (s.mapRegion p i f).overPower = s.overPower := rfl
@[simp] theorem State.mapRegion_tripped (s : State) (p i : Nat) (f : Region → Region) : (s.mapRegion p i f).tripped = s.tripped := rfl
@[simp] theorem State.mapRegion_forbidden (s : State) (p i : Nat) (f : Region → Region) : (s.mapRegion p i f).forbidden = s.forbidden := rfl
@[simp] theorem State.mapRegion_roles (s : State) (p i : Nat) (f : Region → Region) : (s.mapRegion p i f).roles = s.roles := rfl
@[simp] theorem State.mapRegion_roleChange (s : State) (p i : Nat) (f : Region → Region) : (s.mapRegion p i f).roleChange = s.roleChange := rfl
@[simp] theorem State.mapRegion_lastOff (s : State) (p i : Nat) (f : Region → Region) : (s.mapRegion p i f).lastOff = s.lastOff := rfl
@[simp] theorem State.mapRegion_lastCause (s : State) (p i : Nat) (f : Region → Region) : (s.mapRegion p i f).lastCause = s.lastCause := rfl
@[simp] theorem State.mapRegion_adminTag (s : State) (p i : Nat) (f : Region → Region) : (s.mapRegion p i f).adminTag = s.adminTag := rfl
@[simp] theorem State.mapRegion_adminStatus (s : State) (p i : Nat) (f : Region → Region) : (s.mapRegion p i f).adminStatus = s.adminStatus := rfl
@[simp] theorem State.mapRegion_adminCount (s : State) (p i : Nat) (f : Region → Region) : (s.mapRegion p i f).adminCount = s.adminCount := rfl
@[simp] theorem State.mapRegion_adminRing (s : State) (p i : Nat) (f : Region → Region) : (s.mapRegion p i f).adminRing = s.adminRing := rfl
@[simp] theorem State.mapRegion_adminHeard (s : State) (p i : Nat) (f : Region → Region) : (s.mapRegion p i f).adminHeard = s.adminHeard := rfl
@[simp] theorem State.mapRegion_fwins (s : State) (p i : Nat) (f : Region → Region) : (s.mapRegion p i f).fwins = s.fwins := rfl
@[simp] theorem State.mapRegion_winLines (s : State) (p i : Nat) (f : Region → Region) : (s.mapRegion p i f).winLines = s.winLines := rfl
@[simp] theorem State.mapRegion_rotAt (s : State) (p i : Nat) (f : Region → Region) : (s.mapRegion p i f).rotAt = s.rotAt := rfl
@[simp] theorem State.mapRegion_images (s : State) (p i : Nat) (f : Region → Region) : (s.mapRegion p i f).images = s.images := rfl
@[simp] theorem State.mapRegion_mem (s : State) (p i : Nat) (f : Region → Region) : (s.mapRegion p i f).mem = s.mem := rfl
@[simp] theorem State.mapRegion_hostMem (s : State) (p i : Nat) (f : Region → Region) : (s.mapRegion p i f).hostMem = s.hostMem := rfl
@[simp] theorem State.mapRegion_peerMem (s : State) (p i : Nat) (f : Region → Region) : (s.mapRegion p i f).peerMem = s.peerMem := rfl
@[simp] theorem State.mapRegion_poison (s : State) (p i : Nat) (f : Region → Region) : (s.mapRegion p i f).poison = s.poison := rfl
@[simp] theorem State.mapRegion_dirty (s : State) (p i : Nat) (f : Region → Region) : (s.mapRegion p i f).dirty = s.dirty := rfl
@[simp] theorem State.mapRegion_recalls (s : State) (p i : Nat) (f : Region → Region) : (s.mapRegion p i f).recalls = s.recalls := rfl
@[simp] theorem State.mapRegion_seq (s : State) (p i : Nat) (f : Region → Region) : (s.mapRegion p i f).seq = s.seq := rfl
@[simp] theorem State.mapRegion_tlb (s : State) (p i : Nat) (f : Region → Region) : (s.mapRegion p i f).tlb = s.tlb := rfl
@[simp] theorem State.mapRegion_contexts (s : State) (p i : Nat) (f : Region → Region) : (s.mapRegion p i f).contexts = s.contexts := rfl
@[simp] theorem State.mapRegion_queues (s : State) (p i : Nat) (f : Region → Region) : (s.mapRegion p i f).queues = s.queues := rfl
@[simp] theorem State.mapRegion_slots (s : State) (p i : Nat) (f : Region → Region) : (s.mapRegion p i f).slots = s.slots := rfl
@[simp] theorem State.mapRegion_launches (s : State) (p i : Nat) (f : Region → Region) : (s.mapRegion p i f).launches = s.launches := rfl
@[simp] theorem State.mapRegion_nextLaunch (s : State) (p i : Nat) (f : Region → Region) : (s.mapRegion p i f).nextLaunch = s.nextLaunch := rfl
@[simp] theorem State.mapRegion_ops (s : State) (p i : Nat) (f : Region → Region) : (s.mapRegion p i f).ops = s.ops := rfl
@[simp] theorem State.mapRegion_nextOp (s : State) (p i : Nat) (f : Region → Region) : (s.mapRegion p i f).nextOp = s.nextOp := rfl
@[simp] theorem State.mapRegion_engines (s : State) (p i : Nat) (f : Region → Region) : (s.mapRegion p i f).engines = s.engines := rfl
@[simp] theorem State.mapRegion_runs (s : State) (p i : Nat) (f : Region → Region) : (s.mapRegion p i f).runs = s.runs := rfl
@[simp] theorem State.mapRegion_nextRun (s : State) (p i : Nat) (f : Region → Region) : (s.mapRegion p i f).nextRun = s.nextRun := rfl
@[simp] theorem State.mapRegion_nbStore (s : State) (p i : Nat) (f : Region → Region) : (s.mapRegion p i f).nbStore = s.nbStore := rfl
@[simp] theorem State.mapRegion_splits (s : State) (p i : Nat) (f : Region → Region) : (s.mapRegion p i f).splits = s.splits := rfl
@[simp] theorem State.mapRegion_roll (s : State) (p i : Nat) (f : Region → Region) : (s.mapRegion p i f).roll = s.roll := rfl
@[simp] theorem State.mapRegion_meas (s : State) (p i : Nat) (f : Region → Region) : (s.mapRegion p i f).meas = s.meas := rfl
@[simp] theorem State.mapRegion_spdm (s : State) (p i : Nat) (f : Region → Region) : (s.mapRegion p i f).spdm = s.spdm := rfl
@[simp] theorem State.mapRegion_auditSig (s : State) (p i : Nat) (f : Region → Region) : (s.mapRegion p i f).auditSig = s.auditSig := rfl
@[simp] theorem State.mapRegion_pkg (s : State) (p i : Nat) (f : Region → Region) : (s.mapRegion p i f).pkg = s.pkg := rfl
@[simp] theorem State.mapRegion_routes (s : State) (p i : Nat) (f : Region → Region) : (s.mapRegion p i f).routes = s.routes := rfl
@[simp] theorem State.mapRegion_xoff (s : State) (p i : Nat) (f : Region → Region) : (s.mapRegion p i f).xoff = s.xoff := rfl
@[simp] theorem State.mapRegion_linkIn (s : State) (p i : Nat) (f : Region → Region) : (s.mapRegion p i f).linkIn = s.linkIn := rfl
@[simp] theorem State.mapRegion_linkOut (s : State) (p i : Nat) (f : Region → Region) : (s.mapRegion p i f).linkOut = s.linkOut := rfl
@[simp] theorem State.mapRegion_linkRetries (s : State) (p i : Nat) (f : Region → Region) : (s.mapRegion p i f).linkRetries = s.linkRetries := rfl
@[simp] theorem State.mapRegion_halves (s : State) (p i : Nat) (f : Region → Region) : (s.mapRegion p i f).halves = s.halves := rfl
@[simp] theorem State.mapRegion_bridge (s : State) (p i : Nat) (f : Region → Region) : (s.mapRegion p i f).bridge = s.bridge := rfl
@[simp] theorem State.mapRegion_incarn (s : State) (p i : Nat) (f : Region → Region) : (s.mapRegion p i f).incarn = s.incarn := rfl
@[simp] theorem State.mapRegion_lost (s : State) (p i : Nat) (f : Region → Region) : (s.mapRegion p i f).lost = s.lost := rfl
@[simp] theorem State.mapRegion_refusedLog (s : State) (p i : Nat) (f : Region → Region) : (s.mapRegion p i f).refusedLog = s.refusedLog := rfl
@[simp] theorem State.mapRegion_droppedLog (s : State) (p i : Nat) (f : Region → Region) : (s.mapRegion p i f).droppedLog = s.droppedLog := rfl
@[simp] theorem State.mapRegion_answer (s : State) (p i : Nat) (f : Region → Region) : (s.mapRegion p i f).answer = s.answer := rfl
@[simp] theorem State.mapRegion_mail (s : State) (p i : Nat) (f : Region → Region) : (s.mapRegion p i f).mail = s.mail := rfl
@[simp] theorem State.mapRegion_agenda (s : State) (p i : Nat) (f : Region → Region) : (s.mapRegion p i f).agenda = s.agenda := rfl
@[simp] theorem State.mapRegion_deferred (s : State) (p i : Nat) (f : Region → Region) : (s.mapRegion p i f).deferred = s.deferred := rfl
@[simp] theorem State.mapRegion_received (s : State) (p i : Nat) (f : Region → Region) : (s.mapRegion p i f).received = s.received := rfl
@[simp] theorem State.mapRegion_waiting (s : State) (p i : Nat) (f : Region → Region) : (s.mapRegion p i f).waiting = s.waiting := rfl
@[simp] theorem State.mapRegion_steps (s : State) (p i : Nat) (f : Region → Region) : (s.mapRegion p i f).steps = s.steps := rfl
@[simp] theorem State.mapRegion_issuer (s : State) (p i : Nat) (f : Region → Region) : (s.mapRegion p i f).issuer = s.issuer := rfl
@[simp] theorem State.mapRegion_focus (s : State) (p i : Nat) (f : Region → Region) : (s.mapRegion p i f).focus = s.focus := rfl

/-! `mapQueue` -/

@[simp] theorem State.mapQueue_powered (s : State) (q : QueueKey) (f : Queue → Queue) : (s.mapQueue q f).powered = s.powered := rfl
@[simp] theorem State.mapQueue_cycle (s : State) (q : QueueKey) (f : Queue → Queue) : (s.mapQueue q f).cycle = s.cycle := rfl
@[simp] theorem State.mapQueue_beat (s : State) (q : QueueKey) (f : Queue → Queue) : (s.mapQueue q f).beat = s.beat := rfl
@[simp] theorem State.mapQueue_devready (s : State) (q : QueueKey) (f : Queue → Queue) : (s.mapQueue q f).devready = s.devready := rfl
@[simp] theorem State.mapQueue_failed (s : State) (q : QueueKey) (f : Queue → Queue) : (s.mapQueue q f).failed = s.failed := rfl
@[simp] theorem State.mapQueue_bringStep (s : State) (q : QueueKey) (f : Queue → Queue) : (s.mapQueue q f).bringStep = s.bringStep := rfl
@[simp] theorem State.mapQueue_bringing (s : State) (q : QueueKey) (f : Queue → Queue) : (s.mapQueue q f).bringing = s.bringing := rfl
@[simp] theorem State.mapQueue_lwidth (s : State) (q : QueueKey) (f : Queue → Queue) : (s.mapQueue q f).lwidth = s.lwidth := rfl
@[simp] theorem State.mapQueue_lrate (s : State) (q : QueueKey) (f : Queue → Queue) : (s.mapQueue q f).lrate = s.lrate := rfl
@[simp] theorem State.mapQueue_fports (s : State) (q : QueueKey) (f : Queue → Queue) : (s.mapQueue q f).fports = s.fports := rfl
@[simp] theorem State.mapQueue_gated (s : State) (q : QueueKey) (f : Queue → Queue) : (s.mapQueue q f).gated = s.gated := rfl
@[simp] theorem State.mapQueue_thermwarn (s : State) (q : QueueKey) (f : Queue → Queue) : (s.mapQueue q f).thermwarn = s.thermwarn := rfl
@[simp] theorem State.mapQueue_hotTiers (s : State) (q : QueueKey) (f : Queue → Queue) : (s.mapQueue q f).hotTiers = s.hotTiers := rfl
@[simp] theorem State.mapQueue_overPower (s : State) (q : QueueKey) (f : Queue → Queue) : (s.mapQueue q f).overPower = s.overPower := rfl
@[simp] theorem State.mapQueue_tripped (s : State) (q : QueueKey) (f : Queue → Queue) : (s.mapQueue q f).tripped = s.tripped := rfl
@[simp] theorem State.mapQueue_forbidden (s : State) (q : QueueKey) (f : Queue → Queue) : (s.mapQueue q f).forbidden = s.forbidden := rfl
@[simp] theorem State.mapQueue_roles (s : State) (q : QueueKey) (f : Queue → Queue) : (s.mapQueue q f).roles = s.roles := rfl
@[simp] theorem State.mapQueue_roleChange (s : State) (q : QueueKey) (f : Queue → Queue) : (s.mapQueue q f).roleChange = s.roleChange := rfl
@[simp] theorem State.mapQueue_lastOff (s : State) (q : QueueKey) (f : Queue → Queue) : (s.mapQueue q f).lastOff = s.lastOff := rfl
@[simp] theorem State.mapQueue_lastCause (s : State) (q : QueueKey) (f : Queue → Queue) : (s.mapQueue q f).lastCause = s.lastCause := rfl
@[simp] theorem State.mapQueue_parts (s : State) (q : QueueKey) (f : Queue → Queue) : (s.mapQueue q f).parts = s.parts := rfl
@[simp] theorem State.mapQueue_adminTag (s : State) (q : QueueKey) (f : Queue → Queue) : (s.mapQueue q f).adminTag = s.adminTag := rfl
@[simp] theorem State.mapQueue_adminStatus (s : State) (q : QueueKey) (f : Queue → Queue) : (s.mapQueue q f).adminStatus = s.adminStatus := rfl
@[simp] theorem State.mapQueue_adminCount (s : State) (q : QueueKey) (f : Queue → Queue) : (s.mapQueue q f).adminCount = s.adminCount := rfl
@[simp] theorem State.mapQueue_adminRing (s : State) (q : QueueKey) (f : Queue → Queue) : (s.mapQueue q f).adminRing = s.adminRing := rfl
@[simp] theorem State.mapQueue_adminHeard (s : State) (q : QueueKey) (f : Queue → Queue) : (s.mapQueue q f).adminHeard = s.adminHeard := rfl
@[simp] theorem State.mapQueue_fwins (s : State) (q : QueueKey) (f : Queue → Queue) : (s.mapQueue q f).fwins = s.fwins := rfl
@[simp] theorem State.mapQueue_winLines (s : State) (q : QueueKey) (f : Queue → Queue) : (s.mapQueue q f).winLines = s.winLines := rfl
@[simp] theorem State.mapQueue_rotAt (s : State) (q : QueueKey) (f : Queue → Queue) : (s.mapQueue q f).rotAt = s.rotAt := rfl
@[simp] theorem State.mapQueue_images (s : State) (q : QueueKey) (f : Queue → Queue) : (s.mapQueue q f).images = s.images := rfl
@[simp] theorem State.mapQueue_mem (s : State) (q : QueueKey) (f : Queue → Queue) : (s.mapQueue q f).mem = s.mem := rfl
@[simp] theorem State.mapQueue_hostMem (s : State) (q : QueueKey) (f : Queue → Queue) : (s.mapQueue q f).hostMem = s.hostMem := rfl
@[simp] theorem State.mapQueue_peerMem (s : State) (q : QueueKey) (f : Queue → Queue) : (s.mapQueue q f).peerMem = s.peerMem := rfl
@[simp] theorem State.mapQueue_poison (s : State) (q : QueueKey) (f : Queue → Queue) : (s.mapQueue q f).poison = s.poison := rfl
@[simp] theorem State.mapQueue_dirty (s : State) (q : QueueKey) (f : Queue → Queue) : (s.mapQueue q f).dirty = s.dirty := rfl
@[simp] theorem State.mapQueue_recalls (s : State) (q : QueueKey) (f : Queue → Queue) : (s.mapQueue q f).recalls = s.recalls := rfl
@[simp] theorem State.mapQueue_seq (s : State) (q : QueueKey) (f : Queue → Queue) : (s.mapQueue q f).seq = s.seq := rfl
@[simp] theorem State.mapQueue_tlb (s : State) (q : QueueKey) (f : Queue → Queue) : (s.mapQueue q f).tlb = s.tlb := rfl
@[simp] theorem State.mapQueue_contexts (s : State) (q : QueueKey) (f : Queue → Queue) : (s.mapQueue q f).contexts = s.contexts := rfl
@[simp] theorem State.mapQueue_slots (s : State) (q : QueueKey) (f : Queue → Queue) : (s.mapQueue q f).slots = s.slots := rfl
@[simp] theorem State.mapQueue_launches (s : State) (q : QueueKey) (f : Queue → Queue) : (s.mapQueue q f).launches = s.launches := rfl
@[simp] theorem State.mapQueue_nextLaunch (s : State) (q : QueueKey) (f : Queue → Queue) : (s.mapQueue q f).nextLaunch = s.nextLaunch := rfl
@[simp] theorem State.mapQueue_ops (s : State) (q : QueueKey) (f : Queue → Queue) : (s.mapQueue q f).ops = s.ops := rfl
@[simp] theorem State.mapQueue_nextOp (s : State) (q : QueueKey) (f : Queue → Queue) : (s.mapQueue q f).nextOp = s.nextOp := rfl
@[simp] theorem State.mapQueue_engines (s : State) (q : QueueKey) (f : Queue → Queue) : (s.mapQueue q f).engines = s.engines := rfl
@[simp] theorem State.mapQueue_runs (s : State) (q : QueueKey) (f : Queue → Queue) : (s.mapQueue q f).runs = s.runs := rfl
@[simp] theorem State.mapQueue_nextRun (s : State) (q : QueueKey) (f : Queue → Queue) : (s.mapQueue q f).nextRun = s.nextRun := rfl
@[simp] theorem State.mapQueue_nbStore (s : State) (q : QueueKey) (f : Queue → Queue) : (s.mapQueue q f).nbStore = s.nbStore := rfl
@[simp] theorem State.mapQueue_splits (s : State) (q : QueueKey) (f : Queue → Queue) : (s.mapQueue q f).splits = s.splits := rfl
@[simp] theorem State.mapQueue_roll (s : State) (q : QueueKey) (f : Queue → Queue) : (s.mapQueue q f).roll = s.roll := rfl
@[simp] theorem State.mapQueue_meas (s : State) (q : QueueKey) (f : Queue → Queue) : (s.mapQueue q f).meas = s.meas := rfl
@[simp] theorem State.mapQueue_spdm (s : State) (q : QueueKey) (f : Queue → Queue) : (s.mapQueue q f).spdm = s.spdm := rfl
@[simp] theorem State.mapQueue_auditSig (s : State) (q : QueueKey) (f : Queue → Queue) : (s.mapQueue q f).auditSig = s.auditSig := rfl
@[simp] theorem State.mapQueue_pkg (s : State) (q : QueueKey) (f : Queue → Queue) : (s.mapQueue q f).pkg = s.pkg := rfl
@[simp] theorem State.mapQueue_routes (s : State) (q : QueueKey) (f : Queue → Queue) : (s.mapQueue q f).routes = s.routes := rfl
@[simp] theorem State.mapQueue_xoff (s : State) (q : QueueKey) (f : Queue → Queue) : (s.mapQueue q f).xoff = s.xoff := rfl
@[simp] theorem State.mapQueue_linkIn (s : State) (q : QueueKey) (f : Queue → Queue) : (s.mapQueue q f).linkIn = s.linkIn := rfl
@[simp] theorem State.mapQueue_linkOut (s : State) (q : QueueKey) (f : Queue → Queue) : (s.mapQueue q f).linkOut = s.linkOut := rfl
@[simp] theorem State.mapQueue_linkRetries (s : State) (q : QueueKey) (f : Queue → Queue) : (s.mapQueue q f).linkRetries = s.linkRetries := rfl
@[simp] theorem State.mapQueue_halves (s : State) (q : QueueKey) (f : Queue → Queue) : (s.mapQueue q f).halves = s.halves := rfl
@[simp] theorem State.mapQueue_bridge (s : State) (q : QueueKey) (f : Queue → Queue) : (s.mapQueue q f).bridge = s.bridge := rfl
@[simp] theorem State.mapQueue_incarn (s : State) (q : QueueKey) (f : Queue → Queue) : (s.mapQueue q f).incarn = s.incarn := rfl
@[simp] theorem State.mapQueue_lost (s : State) (q : QueueKey) (f : Queue → Queue) : (s.mapQueue q f).lost = s.lost := rfl
@[simp] theorem State.mapQueue_refusedLog (s : State) (q : QueueKey) (f : Queue → Queue) : (s.mapQueue q f).refusedLog = s.refusedLog := rfl
@[simp] theorem State.mapQueue_droppedLog (s : State) (q : QueueKey) (f : Queue → Queue) : (s.mapQueue q f).droppedLog = s.droppedLog := rfl
@[simp] theorem State.mapQueue_answer (s : State) (q : QueueKey) (f : Queue → Queue) : (s.mapQueue q f).answer = s.answer := rfl
@[simp] theorem State.mapQueue_mail (s : State) (q : QueueKey) (f : Queue → Queue) : (s.mapQueue q f).mail = s.mail := rfl
@[simp] theorem State.mapQueue_agenda (s : State) (q : QueueKey) (f : Queue → Queue) : (s.mapQueue q f).agenda = s.agenda := rfl
@[simp] theorem State.mapQueue_deferred (s : State) (q : QueueKey) (f : Queue → Queue) : (s.mapQueue q f).deferred = s.deferred := rfl
@[simp] theorem State.mapQueue_received (s : State) (q : QueueKey) (f : Queue → Queue) : (s.mapQueue q f).received = s.received := rfl
@[simp] theorem State.mapQueue_waiting (s : State) (q : QueueKey) (f : Queue → Queue) : (s.mapQueue q f).waiting = s.waiting := rfl
@[simp] theorem State.mapQueue_steps (s : State) (q : QueueKey) (f : Queue → Queue) : (s.mapQueue q f).steps = s.steps := rfl
@[simp] theorem State.mapQueue_issuer (s : State) (q : QueueKey) (f : Queue → Queue) : (s.mapQueue q f).issuer = s.issuer := rfl
@[simp] theorem State.mapQueue_focus (s : State) (q : QueueKey) (f : Queue → Queue) : (s.mapQueue q f).focus = s.focus := rfl

/-! `mapOp` -/

@[simp] theorem State.mapOp_powered (s : State) (n : Nat) (f : Op → Op) : (s.mapOp n f).powered = s.powered := rfl
@[simp] theorem State.mapOp_cycle (s : State) (n : Nat) (f : Op → Op) : (s.mapOp n f).cycle = s.cycle := rfl
@[simp] theorem State.mapOp_beat (s : State) (n : Nat) (f : Op → Op) : (s.mapOp n f).beat = s.beat := rfl
@[simp] theorem State.mapOp_devready (s : State) (n : Nat) (f : Op → Op) : (s.mapOp n f).devready = s.devready := rfl
@[simp] theorem State.mapOp_failed (s : State) (n : Nat) (f : Op → Op) : (s.mapOp n f).failed = s.failed := rfl
@[simp] theorem State.mapOp_bringStep (s : State) (n : Nat) (f : Op → Op) : (s.mapOp n f).bringStep = s.bringStep := rfl
@[simp] theorem State.mapOp_bringing (s : State) (n : Nat) (f : Op → Op) : (s.mapOp n f).bringing = s.bringing := rfl
@[simp] theorem State.mapOp_lwidth (s : State) (n : Nat) (f : Op → Op) : (s.mapOp n f).lwidth = s.lwidth := rfl
@[simp] theorem State.mapOp_lrate (s : State) (n : Nat) (f : Op → Op) : (s.mapOp n f).lrate = s.lrate := rfl
@[simp] theorem State.mapOp_fports (s : State) (n : Nat) (f : Op → Op) : (s.mapOp n f).fports = s.fports := rfl
@[simp] theorem State.mapOp_gated (s : State) (n : Nat) (f : Op → Op) : (s.mapOp n f).gated = s.gated := rfl
@[simp] theorem State.mapOp_thermwarn (s : State) (n : Nat) (f : Op → Op) : (s.mapOp n f).thermwarn = s.thermwarn := rfl
@[simp] theorem State.mapOp_hotTiers (s : State) (n : Nat) (f : Op → Op) : (s.mapOp n f).hotTiers = s.hotTiers := rfl
@[simp] theorem State.mapOp_overPower (s : State) (n : Nat) (f : Op → Op) : (s.mapOp n f).overPower = s.overPower := rfl
@[simp] theorem State.mapOp_tripped (s : State) (n : Nat) (f : Op → Op) : (s.mapOp n f).tripped = s.tripped := rfl
@[simp] theorem State.mapOp_forbidden (s : State) (n : Nat) (f : Op → Op) : (s.mapOp n f).forbidden = s.forbidden := rfl
@[simp] theorem State.mapOp_roles (s : State) (n : Nat) (f : Op → Op) : (s.mapOp n f).roles = s.roles := rfl
@[simp] theorem State.mapOp_roleChange (s : State) (n : Nat) (f : Op → Op) : (s.mapOp n f).roleChange = s.roleChange := rfl
@[simp] theorem State.mapOp_lastOff (s : State) (n : Nat) (f : Op → Op) : (s.mapOp n f).lastOff = s.lastOff := rfl
@[simp] theorem State.mapOp_lastCause (s : State) (n : Nat) (f : Op → Op) : (s.mapOp n f).lastCause = s.lastCause := rfl
@[simp] theorem State.mapOp_parts (s : State) (n : Nat) (f : Op → Op) : (s.mapOp n f).parts = s.parts := rfl
@[simp] theorem State.mapOp_adminTag (s : State) (n : Nat) (f : Op → Op) : (s.mapOp n f).adminTag = s.adminTag := rfl
@[simp] theorem State.mapOp_adminStatus (s : State) (n : Nat) (f : Op → Op) : (s.mapOp n f).adminStatus = s.adminStatus := rfl
@[simp] theorem State.mapOp_adminCount (s : State) (n : Nat) (f : Op → Op) : (s.mapOp n f).adminCount = s.adminCount := rfl
@[simp] theorem State.mapOp_adminRing (s : State) (n : Nat) (f : Op → Op) : (s.mapOp n f).adminRing = s.adminRing := rfl
@[simp] theorem State.mapOp_adminHeard (s : State) (n : Nat) (f : Op → Op) : (s.mapOp n f).adminHeard = s.adminHeard := rfl
@[simp] theorem State.mapOp_fwins (s : State) (n : Nat) (f : Op → Op) : (s.mapOp n f).fwins = s.fwins := rfl
@[simp] theorem State.mapOp_winLines (s : State) (n : Nat) (f : Op → Op) : (s.mapOp n f).winLines = s.winLines := rfl
@[simp] theorem State.mapOp_rotAt (s : State) (n : Nat) (f : Op → Op) : (s.mapOp n f).rotAt = s.rotAt := rfl
@[simp] theorem State.mapOp_images (s : State) (n : Nat) (f : Op → Op) : (s.mapOp n f).images = s.images := rfl
@[simp] theorem State.mapOp_mem (s : State) (n : Nat) (f : Op → Op) : (s.mapOp n f).mem = s.mem := rfl
@[simp] theorem State.mapOp_hostMem (s : State) (n : Nat) (f : Op → Op) : (s.mapOp n f).hostMem = s.hostMem := rfl
@[simp] theorem State.mapOp_peerMem (s : State) (n : Nat) (f : Op → Op) : (s.mapOp n f).peerMem = s.peerMem := rfl
@[simp] theorem State.mapOp_poison (s : State) (n : Nat) (f : Op → Op) : (s.mapOp n f).poison = s.poison := rfl
@[simp] theorem State.mapOp_dirty (s : State) (n : Nat) (f : Op → Op) : (s.mapOp n f).dirty = s.dirty := rfl
@[simp] theorem State.mapOp_recalls (s : State) (n : Nat) (f : Op → Op) : (s.mapOp n f).recalls = s.recalls := rfl
@[simp] theorem State.mapOp_seq (s : State) (n : Nat) (f : Op → Op) : (s.mapOp n f).seq = s.seq := rfl
@[simp] theorem State.mapOp_tlb (s : State) (n : Nat) (f : Op → Op) : (s.mapOp n f).tlb = s.tlb := rfl
@[simp] theorem State.mapOp_contexts (s : State) (n : Nat) (f : Op → Op) : (s.mapOp n f).contexts = s.contexts := rfl
@[simp] theorem State.mapOp_queues (s : State) (n : Nat) (f : Op → Op) : (s.mapOp n f).queues = s.queues := rfl
@[simp] theorem State.mapOp_slots (s : State) (n : Nat) (f : Op → Op) : (s.mapOp n f).slots = s.slots := rfl
@[simp] theorem State.mapOp_launches (s : State) (n : Nat) (f : Op → Op) : (s.mapOp n f).launches = s.launches := rfl
@[simp] theorem State.mapOp_nextLaunch (s : State) (n : Nat) (f : Op → Op) : (s.mapOp n f).nextLaunch = s.nextLaunch := rfl
@[simp] theorem State.mapOp_nextOp (s : State) (n : Nat) (f : Op → Op) : (s.mapOp n f).nextOp = s.nextOp := rfl
@[simp] theorem State.mapOp_engines (s : State) (n : Nat) (f : Op → Op) : (s.mapOp n f).engines = s.engines := rfl
@[simp] theorem State.mapOp_runs (s : State) (n : Nat) (f : Op → Op) : (s.mapOp n f).runs = s.runs := rfl
@[simp] theorem State.mapOp_nextRun (s : State) (n : Nat) (f : Op → Op) : (s.mapOp n f).nextRun = s.nextRun := rfl
@[simp] theorem State.mapOp_nbStore (s : State) (n : Nat) (f : Op → Op) : (s.mapOp n f).nbStore = s.nbStore := rfl
@[simp] theorem State.mapOp_splits (s : State) (n : Nat) (f : Op → Op) : (s.mapOp n f).splits = s.splits := rfl
@[simp] theorem State.mapOp_roll (s : State) (n : Nat) (f : Op → Op) : (s.mapOp n f).roll = s.roll := rfl
@[simp] theorem State.mapOp_meas (s : State) (n : Nat) (f : Op → Op) : (s.mapOp n f).meas = s.meas := rfl
@[simp] theorem State.mapOp_spdm (s : State) (n : Nat) (f : Op → Op) : (s.mapOp n f).spdm = s.spdm := rfl
@[simp] theorem State.mapOp_auditSig (s : State) (n : Nat) (f : Op → Op) : (s.mapOp n f).auditSig = s.auditSig := rfl
@[simp] theorem State.mapOp_pkg (s : State) (n : Nat) (f : Op → Op) : (s.mapOp n f).pkg = s.pkg := rfl
@[simp] theorem State.mapOp_routes (s : State) (n : Nat) (f : Op → Op) : (s.mapOp n f).routes = s.routes := rfl
@[simp] theorem State.mapOp_xoff (s : State) (n : Nat) (f : Op → Op) : (s.mapOp n f).xoff = s.xoff := rfl
@[simp] theorem State.mapOp_linkIn (s : State) (n : Nat) (f : Op → Op) : (s.mapOp n f).linkIn = s.linkIn := rfl
@[simp] theorem State.mapOp_linkOut (s : State) (n : Nat) (f : Op → Op) : (s.mapOp n f).linkOut = s.linkOut := rfl
@[simp] theorem State.mapOp_linkRetries (s : State) (n : Nat) (f : Op → Op) : (s.mapOp n f).linkRetries = s.linkRetries := rfl
@[simp] theorem State.mapOp_halves (s : State) (n : Nat) (f : Op → Op) : (s.mapOp n f).halves = s.halves := rfl
@[simp] theorem State.mapOp_bridge (s : State) (n : Nat) (f : Op → Op) : (s.mapOp n f).bridge = s.bridge := rfl
@[simp] theorem State.mapOp_incarn (s : State) (n : Nat) (f : Op → Op) : (s.mapOp n f).incarn = s.incarn := rfl
@[simp] theorem State.mapOp_lost (s : State) (n : Nat) (f : Op → Op) : (s.mapOp n f).lost = s.lost := rfl
@[simp] theorem State.mapOp_refusedLog (s : State) (n : Nat) (f : Op → Op) : (s.mapOp n f).refusedLog = s.refusedLog := rfl
@[simp] theorem State.mapOp_droppedLog (s : State) (n : Nat) (f : Op → Op) : (s.mapOp n f).droppedLog = s.droppedLog := rfl
@[simp] theorem State.mapOp_answer (s : State) (n : Nat) (f : Op → Op) : (s.mapOp n f).answer = s.answer := rfl
@[simp] theorem State.mapOp_mail (s : State) (n : Nat) (f : Op → Op) : (s.mapOp n f).mail = s.mail := rfl
@[simp] theorem State.mapOp_agenda (s : State) (n : Nat) (f : Op → Op) : (s.mapOp n f).agenda = s.agenda := rfl
@[simp] theorem State.mapOp_deferred (s : State) (n : Nat) (f : Op → Op) : (s.mapOp n f).deferred = s.deferred := rfl
@[simp] theorem State.mapOp_received (s : State) (n : Nat) (f : Op → Op) : (s.mapOp n f).received = s.received := rfl
@[simp] theorem State.mapOp_waiting (s : State) (n : Nat) (f : Op → Op) : (s.mapOp n f).waiting = s.waiting := rfl
@[simp] theorem State.mapOp_steps (s : State) (n : Nat) (f : Op → Op) : (s.mapOp n f).steps = s.steps := rfl
@[simp] theorem State.mapOp_issuer (s : State) (n : Nat) (f : Op → Op) : (s.mapOp n f).issuer = s.issuer := rfl
@[simp] theorem State.mapOp_focus (s : State) (n : Nat) (f : Op → Op) : (s.mapOp n f).focus = s.focus := rfl

/-! `dropOp` -/

@[simp] theorem State.dropOp_powered (s : State) (n : Nat) : (s.dropOp n).powered = s.powered := rfl
@[simp] theorem State.dropOp_cycle (s : State) (n : Nat) : (s.dropOp n).cycle = s.cycle := rfl
@[simp] theorem State.dropOp_beat (s : State) (n : Nat) : (s.dropOp n).beat = s.beat := rfl
@[simp] theorem State.dropOp_devready (s : State) (n : Nat) : (s.dropOp n).devready = s.devready := rfl
@[simp] theorem State.dropOp_failed (s : State) (n : Nat) : (s.dropOp n).failed = s.failed := rfl
@[simp] theorem State.dropOp_bringStep (s : State) (n : Nat) : (s.dropOp n).bringStep = s.bringStep := rfl
@[simp] theorem State.dropOp_bringing (s : State) (n : Nat) : (s.dropOp n).bringing = s.bringing := rfl
@[simp] theorem State.dropOp_lwidth (s : State) (n : Nat) : (s.dropOp n).lwidth = s.lwidth := rfl
@[simp] theorem State.dropOp_lrate (s : State) (n : Nat) : (s.dropOp n).lrate = s.lrate := rfl
@[simp] theorem State.dropOp_fports (s : State) (n : Nat) : (s.dropOp n).fports = s.fports := rfl
@[simp] theorem State.dropOp_gated (s : State) (n : Nat) : (s.dropOp n).gated = s.gated := rfl
@[simp] theorem State.dropOp_thermwarn (s : State) (n : Nat) : (s.dropOp n).thermwarn = s.thermwarn := rfl
@[simp] theorem State.dropOp_hotTiers (s : State) (n : Nat) : (s.dropOp n).hotTiers = s.hotTiers := rfl
@[simp] theorem State.dropOp_overPower (s : State) (n : Nat) : (s.dropOp n).overPower = s.overPower := rfl
@[simp] theorem State.dropOp_tripped (s : State) (n : Nat) : (s.dropOp n).tripped = s.tripped := rfl
@[simp] theorem State.dropOp_forbidden (s : State) (n : Nat) : (s.dropOp n).forbidden = s.forbidden := rfl
@[simp] theorem State.dropOp_roles (s : State) (n : Nat) : (s.dropOp n).roles = s.roles := rfl
@[simp] theorem State.dropOp_roleChange (s : State) (n : Nat) : (s.dropOp n).roleChange = s.roleChange := rfl
@[simp] theorem State.dropOp_lastOff (s : State) (n : Nat) : (s.dropOp n).lastOff = s.lastOff := rfl
@[simp] theorem State.dropOp_lastCause (s : State) (n : Nat) : (s.dropOp n).lastCause = s.lastCause := rfl
@[simp] theorem State.dropOp_parts (s : State) (n : Nat) : (s.dropOp n).parts = s.parts := rfl
@[simp] theorem State.dropOp_adminTag (s : State) (n : Nat) : (s.dropOp n).adminTag = s.adminTag := rfl
@[simp] theorem State.dropOp_adminStatus (s : State) (n : Nat) : (s.dropOp n).adminStatus = s.adminStatus := rfl
@[simp] theorem State.dropOp_adminCount (s : State) (n : Nat) : (s.dropOp n).adminCount = s.adminCount := rfl
@[simp] theorem State.dropOp_adminRing (s : State) (n : Nat) : (s.dropOp n).adminRing = s.adminRing := rfl
@[simp] theorem State.dropOp_adminHeard (s : State) (n : Nat) : (s.dropOp n).adminHeard = s.adminHeard := rfl
@[simp] theorem State.dropOp_fwins (s : State) (n : Nat) : (s.dropOp n).fwins = s.fwins := rfl
@[simp] theorem State.dropOp_winLines (s : State) (n : Nat) : (s.dropOp n).winLines = s.winLines := rfl
@[simp] theorem State.dropOp_rotAt (s : State) (n : Nat) : (s.dropOp n).rotAt = s.rotAt := rfl
@[simp] theorem State.dropOp_images (s : State) (n : Nat) : (s.dropOp n).images = s.images := rfl
@[simp] theorem State.dropOp_mem (s : State) (n : Nat) : (s.dropOp n).mem = s.mem := rfl
@[simp] theorem State.dropOp_hostMem (s : State) (n : Nat) : (s.dropOp n).hostMem = s.hostMem := rfl
@[simp] theorem State.dropOp_peerMem (s : State) (n : Nat) : (s.dropOp n).peerMem = s.peerMem := rfl
@[simp] theorem State.dropOp_poison (s : State) (n : Nat) : (s.dropOp n).poison = s.poison := rfl
@[simp] theorem State.dropOp_dirty (s : State) (n : Nat) : (s.dropOp n).dirty = s.dirty := rfl
@[simp] theorem State.dropOp_recalls (s : State) (n : Nat) : (s.dropOp n).recalls = s.recalls := rfl
@[simp] theorem State.dropOp_seq (s : State) (n : Nat) : (s.dropOp n).seq = s.seq := rfl
@[simp] theorem State.dropOp_tlb (s : State) (n : Nat) : (s.dropOp n).tlb = s.tlb := rfl
@[simp] theorem State.dropOp_contexts (s : State) (n : Nat) : (s.dropOp n).contexts = s.contexts := rfl
@[simp] theorem State.dropOp_queues (s : State) (n : Nat) : (s.dropOp n).queues = s.queues := rfl
@[simp] theorem State.dropOp_slots (s : State) (n : Nat) : (s.dropOp n).slots = s.slots := rfl
@[simp] theorem State.dropOp_launches (s : State) (n : Nat) : (s.dropOp n).launches = s.launches := rfl
@[simp] theorem State.dropOp_nextLaunch (s : State) (n : Nat) : (s.dropOp n).nextLaunch = s.nextLaunch := rfl
@[simp] theorem State.dropOp_nextOp (s : State) (n : Nat) : (s.dropOp n).nextOp = s.nextOp := rfl
@[simp] theorem State.dropOp_engines (s : State) (n : Nat) : (s.dropOp n).engines = s.engines := rfl
@[simp] theorem State.dropOp_runs (s : State) (n : Nat) : (s.dropOp n).runs = s.runs := rfl
@[simp] theorem State.dropOp_nextRun (s : State) (n : Nat) : (s.dropOp n).nextRun = s.nextRun := rfl
@[simp] theorem State.dropOp_nbStore (s : State) (n : Nat) : (s.dropOp n).nbStore = s.nbStore := rfl
@[simp] theorem State.dropOp_splits (s : State) (n : Nat) : (s.dropOp n).splits = s.splits := rfl
@[simp] theorem State.dropOp_roll (s : State) (n : Nat) : (s.dropOp n).roll = s.roll := rfl
@[simp] theorem State.dropOp_meas (s : State) (n : Nat) : (s.dropOp n).meas = s.meas := rfl
@[simp] theorem State.dropOp_spdm (s : State) (n : Nat) : (s.dropOp n).spdm = s.spdm := rfl
@[simp] theorem State.dropOp_auditSig (s : State) (n : Nat) : (s.dropOp n).auditSig = s.auditSig := rfl
@[simp] theorem State.dropOp_pkg (s : State) (n : Nat) : (s.dropOp n).pkg = s.pkg := rfl
@[simp] theorem State.dropOp_routes (s : State) (n : Nat) : (s.dropOp n).routes = s.routes := rfl
@[simp] theorem State.dropOp_xoff (s : State) (n : Nat) : (s.dropOp n).xoff = s.xoff := rfl
@[simp] theorem State.dropOp_linkIn (s : State) (n : Nat) : (s.dropOp n).linkIn = s.linkIn := rfl
@[simp] theorem State.dropOp_linkOut (s : State) (n : Nat) : (s.dropOp n).linkOut = s.linkOut := rfl
@[simp] theorem State.dropOp_linkRetries (s : State) (n : Nat) : (s.dropOp n).linkRetries = s.linkRetries := rfl
@[simp] theorem State.dropOp_halves (s : State) (n : Nat) : (s.dropOp n).halves = s.halves := rfl
@[simp] theorem State.dropOp_bridge (s : State) (n : Nat) : (s.dropOp n).bridge = s.bridge := rfl
@[simp] theorem State.dropOp_incarn (s : State) (n : Nat) : (s.dropOp n).incarn = s.incarn := rfl
@[simp] theorem State.dropOp_lost (s : State) (n : Nat) : (s.dropOp n).lost = s.lost := rfl
@[simp] theorem State.dropOp_refusedLog (s : State) (n : Nat) : (s.dropOp n).refusedLog = s.refusedLog := rfl
@[simp] theorem State.dropOp_droppedLog (s : State) (n : Nat) : (s.dropOp n).droppedLog = s.droppedLog := rfl
@[simp] theorem State.dropOp_answer (s : State) (n : Nat) : (s.dropOp n).answer = s.answer := rfl
@[simp] theorem State.dropOp_mail (s : State) (n : Nat) : (s.dropOp n).mail = s.mail := rfl
@[simp] theorem State.dropOp_agenda (s : State) (n : Nat) : (s.dropOp n).agenda = s.agenda := rfl
@[simp] theorem State.dropOp_deferred (s : State) (n : Nat) : (s.dropOp n).deferred = s.deferred := rfl
@[simp] theorem State.dropOp_received (s : State) (n : Nat) : (s.dropOp n).received = s.received := rfl
@[simp] theorem State.dropOp_waiting (s : State) (n : Nat) : (s.dropOp n).waiting = s.waiting := rfl
@[simp] theorem State.dropOp_steps (s : State) (n : Nat) : (s.dropOp n).steps = s.steps := rfl
@[simp] theorem State.dropOp_issuer (s : State) (n : Nat) : (s.dropOp n).issuer = s.issuer := rfl
@[simp] theorem State.dropOp_focus (s : State) (n : Nat) : (s.dropOp n).focus = s.focus := rfl

/-! `mapRun` -/

@[simp] theorem State.mapRun_powered (s : State) (n : Nat) (f : Run → Run) : (s.mapRun n f).powered = s.powered := rfl
@[simp] theorem State.mapRun_cycle (s : State) (n : Nat) (f : Run → Run) : (s.mapRun n f).cycle = s.cycle := rfl
@[simp] theorem State.mapRun_beat (s : State) (n : Nat) (f : Run → Run) : (s.mapRun n f).beat = s.beat := rfl
@[simp] theorem State.mapRun_devready (s : State) (n : Nat) (f : Run → Run) : (s.mapRun n f).devready = s.devready := rfl
@[simp] theorem State.mapRun_failed (s : State) (n : Nat) (f : Run → Run) : (s.mapRun n f).failed = s.failed := rfl
@[simp] theorem State.mapRun_bringStep (s : State) (n : Nat) (f : Run → Run) : (s.mapRun n f).bringStep = s.bringStep := rfl
@[simp] theorem State.mapRun_bringing (s : State) (n : Nat) (f : Run → Run) : (s.mapRun n f).bringing = s.bringing := rfl
@[simp] theorem State.mapRun_lwidth (s : State) (n : Nat) (f : Run → Run) : (s.mapRun n f).lwidth = s.lwidth := rfl
@[simp] theorem State.mapRun_lrate (s : State) (n : Nat) (f : Run → Run) : (s.mapRun n f).lrate = s.lrate := rfl
@[simp] theorem State.mapRun_fports (s : State) (n : Nat) (f : Run → Run) : (s.mapRun n f).fports = s.fports := rfl
@[simp] theorem State.mapRun_gated (s : State) (n : Nat) (f : Run → Run) : (s.mapRun n f).gated = s.gated := rfl
@[simp] theorem State.mapRun_thermwarn (s : State) (n : Nat) (f : Run → Run) : (s.mapRun n f).thermwarn = s.thermwarn := rfl
@[simp] theorem State.mapRun_hotTiers (s : State) (n : Nat) (f : Run → Run) : (s.mapRun n f).hotTiers = s.hotTiers := rfl
@[simp] theorem State.mapRun_overPower (s : State) (n : Nat) (f : Run → Run) : (s.mapRun n f).overPower = s.overPower := rfl
@[simp] theorem State.mapRun_tripped (s : State) (n : Nat) (f : Run → Run) : (s.mapRun n f).tripped = s.tripped := rfl
@[simp] theorem State.mapRun_forbidden (s : State) (n : Nat) (f : Run → Run) : (s.mapRun n f).forbidden = s.forbidden := rfl
@[simp] theorem State.mapRun_roles (s : State) (n : Nat) (f : Run → Run) : (s.mapRun n f).roles = s.roles := rfl
@[simp] theorem State.mapRun_roleChange (s : State) (n : Nat) (f : Run → Run) : (s.mapRun n f).roleChange = s.roleChange := rfl
@[simp] theorem State.mapRun_lastOff (s : State) (n : Nat) (f : Run → Run) : (s.mapRun n f).lastOff = s.lastOff := rfl
@[simp] theorem State.mapRun_lastCause (s : State) (n : Nat) (f : Run → Run) : (s.mapRun n f).lastCause = s.lastCause := rfl
@[simp] theorem State.mapRun_parts (s : State) (n : Nat) (f : Run → Run) : (s.mapRun n f).parts = s.parts := rfl
@[simp] theorem State.mapRun_adminTag (s : State) (n : Nat) (f : Run → Run) : (s.mapRun n f).adminTag = s.adminTag := rfl
@[simp] theorem State.mapRun_adminStatus (s : State) (n : Nat) (f : Run → Run) : (s.mapRun n f).adminStatus = s.adminStatus := rfl
@[simp] theorem State.mapRun_adminCount (s : State) (n : Nat) (f : Run → Run) : (s.mapRun n f).adminCount = s.adminCount := rfl
@[simp] theorem State.mapRun_adminRing (s : State) (n : Nat) (f : Run → Run) : (s.mapRun n f).adminRing = s.adminRing := rfl
@[simp] theorem State.mapRun_adminHeard (s : State) (n : Nat) (f : Run → Run) : (s.mapRun n f).adminHeard = s.adminHeard := rfl
@[simp] theorem State.mapRun_fwins (s : State) (n : Nat) (f : Run → Run) : (s.mapRun n f).fwins = s.fwins := rfl
@[simp] theorem State.mapRun_winLines (s : State) (n : Nat) (f : Run → Run) : (s.mapRun n f).winLines = s.winLines := rfl
@[simp] theorem State.mapRun_rotAt (s : State) (n : Nat) (f : Run → Run) : (s.mapRun n f).rotAt = s.rotAt := rfl
@[simp] theorem State.mapRun_images (s : State) (n : Nat) (f : Run → Run) : (s.mapRun n f).images = s.images := rfl
@[simp] theorem State.mapRun_mem (s : State) (n : Nat) (f : Run → Run) : (s.mapRun n f).mem = s.mem := rfl
@[simp] theorem State.mapRun_hostMem (s : State) (n : Nat) (f : Run → Run) : (s.mapRun n f).hostMem = s.hostMem := rfl
@[simp] theorem State.mapRun_peerMem (s : State) (n : Nat) (f : Run → Run) : (s.mapRun n f).peerMem = s.peerMem := rfl
@[simp] theorem State.mapRun_poison (s : State) (n : Nat) (f : Run → Run) : (s.mapRun n f).poison = s.poison := rfl
@[simp] theorem State.mapRun_dirty (s : State) (n : Nat) (f : Run → Run) : (s.mapRun n f).dirty = s.dirty := rfl
@[simp] theorem State.mapRun_recalls (s : State) (n : Nat) (f : Run → Run) : (s.mapRun n f).recalls = s.recalls := rfl
@[simp] theorem State.mapRun_seq (s : State) (n : Nat) (f : Run → Run) : (s.mapRun n f).seq = s.seq := rfl
@[simp] theorem State.mapRun_tlb (s : State) (n : Nat) (f : Run → Run) : (s.mapRun n f).tlb = s.tlb := rfl
@[simp] theorem State.mapRun_contexts (s : State) (n : Nat) (f : Run → Run) : (s.mapRun n f).contexts = s.contexts := rfl
@[simp] theorem State.mapRun_queues (s : State) (n : Nat) (f : Run → Run) : (s.mapRun n f).queues = s.queues := rfl
@[simp] theorem State.mapRun_slots (s : State) (n : Nat) (f : Run → Run) : (s.mapRun n f).slots = s.slots := rfl
@[simp] theorem State.mapRun_launches (s : State) (n : Nat) (f : Run → Run) : (s.mapRun n f).launches = s.launches := rfl
@[simp] theorem State.mapRun_nextLaunch (s : State) (n : Nat) (f : Run → Run) : (s.mapRun n f).nextLaunch = s.nextLaunch := rfl
@[simp] theorem State.mapRun_ops (s : State) (n : Nat) (f : Run → Run) : (s.mapRun n f).ops = s.ops := rfl
@[simp] theorem State.mapRun_nextOp (s : State) (n : Nat) (f : Run → Run) : (s.mapRun n f).nextOp = s.nextOp := rfl
@[simp] theorem State.mapRun_engines (s : State) (n : Nat) (f : Run → Run) : (s.mapRun n f).engines = s.engines := rfl
@[simp] theorem State.mapRun_nextRun (s : State) (n : Nat) (f : Run → Run) : (s.mapRun n f).nextRun = s.nextRun := rfl
@[simp] theorem State.mapRun_nbStore (s : State) (n : Nat) (f : Run → Run) : (s.mapRun n f).nbStore = s.nbStore := rfl
@[simp] theorem State.mapRun_splits (s : State) (n : Nat) (f : Run → Run) : (s.mapRun n f).splits = s.splits := rfl
@[simp] theorem State.mapRun_roll (s : State) (n : Nat) (f : Run → Run) : (s.mapRun n f).roll = s.roll := rfl
@[simp] theorem State.mapRun_meas (s : State) (n : Nat) (f : Run → Run) : (s.mapRun n f).meas = s.meas := rfl
@[simp] theorem State.mapRun_spdm (s : State) (n : Nat) (f : Run → Run) : (s.mapRun n f).spdm = s.spdm := rfl
@[simp] theorem State.mapRun_auditSig (s : State) (n : Nat) (f : Run → Run) : (s.mapRun n f).auditSig = s.auditSig := rfl
@[simp] theorem State.mapRun_pkg (s : State) (n : Nat) (f : Run → Run) : (s.mapRun n f).pkg = s.pkg := rfl
@[simp] theorem State.mapRun_routes (s : State) (n : Nat) (f : Run → Run) : (s.mapRun n f).routes = s.routes := rfl
@[simp] theorem State.mapRun_xoff (s : State) (n : Nat) (f : Run → Run) : (s.mapRun n f).xoff = s.xoff := rfl
@[simp] theorem State.mapRun_linkIn (s : State) (n : Nat) (f : Run → Run) : (s.mapRun n f).linkIn = s.linkIn := rfl
@[simp] theorem State.mapRun_linkOut (s : State) (n : Nat) (f : Run → Run) : (s.mapRun n f).linkOut = s.linkOut := rfl
@[simp] theorem State.mapRun_linkRetries (s : State) (n : Nat) (f : Run → Run) : (s.mapRun n f).linkRetries = s.linkRetries := rfl
@[simp] theorem State.mapRun_halves (s : State) (n : Nat) (f : Run → Run) : (s.mapRun n f).halves = s.halves := rfl
@[simp] theorem State.mapRun_bridge (s : State) (n : Nat) (f : Run → Run) : (s.mapRun n f).bridge = s.bridge := rfl
@[simp] theorem State.mapRun_incarn (s : State) (n : Nat) (f : Run → Run) : (s.mapRun n f).incarn = s.incarn := rfl
@[simp] theorem State.mapRun_lost (s : State) (n : Nat) (f : Run → Run) : (s.mapRun n f).lost = s.lost := rfl
@[simp] theorem State.mapRun_refusedLog (s : State) (n : Nat) (f : Run → Run) : (s.mapRun n f).refusedLog = s.refusedLog := rfl
@[simp] theorem State.mapRun_droppedLog (s : State) (n : Nat) (f : Run → Run) : (s.mapRun n f).droppedLog = s.droppedLog := rfl
@[simp] theorem State.mapRun_answer (s : State) (n : Nat) (f : Run → Run) : (s.mapRun n f).answer = s.answer := rfl
@[simp] theorem State.mapRun_mail (s : State) (n : Nat) (f : Run → Run) : (s.mapRun n f).mail = s.mail := rfl
@[simp] theorem State.mapRun_agenda (s : State) (n : Nat) (f : Run → Run) : (s.mapRun n f).agenda = s.agenda := rfl
@[simp] theorem State.mapRun_deferred (s : State) (n : Nat) (f : Run → Run) : (s.mapRun n f).deferred = s.deferred := rfl
@[simp] theorem State.mapRun_received (s : State) (n : Nat) (f : Run → Run) : (s.mapRun n f).received = s.received := rfl
@[simp] theorem State.mapRun_waiting (s : State) (n : Nat) (f : Run → Run) : (s.mapRun n f).waiting = s.waiting := rfl
@[simp] theorem State.mapRun_steps (s : State) (n : Nat) (f : Run → Run) : (s.mapRun n f).steps = s.steps := rfl
@[simp] theorem State.mapRun_issuer (s : State) (n : Nat) (f : Run → Run) : (s.mapRun n f).issuer = s.issuer := rfl
@[simp] theorem State.mapRun_focus (s : State) (n : Nat) (f : Run → Run) : (s.mapRun n f).focus = s.focus := rfl

/-! `poisonHalf` -/

@[simp] theorem State.poisonHalf_powered (s : State) (x : Loc) : (s.poisonHalf x).powered = s.powered := rfl
@[simp] theorem State.poisonHalf_cycle (s : State) (x : Loc) : (s.poisonHalf x).cycle = s.cycle := rfl
@[simp] theorem State.poisonHalf_beat (s : State) (x : Loc) : (s.poisonHalf x).beat = s.beat := rfl
@[simp] theorem State.poisonHalf_devready (s : State) (x : Loc) : (s.poisonHalf x).devready = s.devready := rfl
@[simp] theorem State.poisonHalf_failed (s : State) (x : Loc) : (s.poisonHalf x).failed = s.failed := rfl
@[simp] theorem State.poisonHalf_bringStep (s : State) (x : Loc) : (s.poisonHalf x).bringStep = s.bringStep := rfl
@[simp] theorem State.poisonHalf_bringing (s : State) (x : Loc) : (s.poisonHalf x).bringing = s.bringing := rfl
@[simp] theorem State.poisonHalf_lwidth (s : State) (x : Loc) : (s.poisonHalf x).lwidth = s.lwidth := rfl
@[simp] theorem State.poisonHalf_lrate (s : State) (x : Loc) : (s.poisonHalf x).lrate = s.lrate := rfl
@[simp] theorem State.poisonHalf_fports (s : State) (x : Loc) : (s.poisonHalf x).fports = s.fports := rfl
@[simp] theorem State.poisonHalf_gated (s : State) (x : Loc) : (s.poisonHalf x).gated = s.gated := rfl
@[simp] theorem State.poisonHalf_thermwarn (s : State) (x : Loc) : (s.poisonHalf x).thermwarn = s.thermwarn := rfl
@[simp] theorem State.poisonHalf_hotTiers (s : State) (x : Loc) : (s.poisonHalf x).hotTiers = s.hotTiers := rfl
@[simp] theorem State.poisonHalf_overPower (s : State) (x : Loc) : (s.poisonHalf x).overPower = s.overPower := rfl
@[simp] theorem State.poisonHalf_tripped (s : State) (x : Loc) : (s.poisonHalf x).tripped = s.tripped := rfl
@[simp] theorem State.poisonHalf_forbidden (s : State) (x : Loc) : (s.poisonHalf x).forbidden = s.forbidden := rfl
@[simp] theorem State.poisonHalf_roles (s : State) (x : Loc) : (s.poisonHalf x).roles = s.roles := rfl
@[simp] theorem State.poisonHalf_roleChange (s : State) (x : Loc) : (s.poisonHalf x).roleChange = s.roleChange := rfl
@[simp] theorem State.poisonHalf_lastOff (s : State) (x : Loc) : (s.poisonHalf x).lastOff = s.lastOff := rfl
@[simp] theorem State.poisonHalf_lastCause (s : State) (x : Loc) : (s.poisonHalf x).lastCause = s.lastCause := rfl
@[simp] theorem State.poisonHalf_parts (s : State) (x : Loc) : (s.poisonHalf x).parts = s.parts := rfl
@[simp] theorem State.poisonHalf_adminTag (s : State) (x : Loc) : (s.poisonHalf x).adminTag = s.adminTag := rfl
@[simp] theorem State.poisonHalf_adminStatus (s : State) (x : Loc) : (s.poisonHalf x).adminStatus = s.adminStatus := rfl
@[simp] theorem State.poisonHalf_adminCount (s : State) (x : Loc) : (s.poisonHalf x).adminCount = s.adminCount := rfl
@[simp] theorem State.poisonHalf_adminRing (s : State) (x : Loc) : (s.poisonHalf x).adminRing = s.adminRing := rfl
@[simp] theorem State.poisonHalf_adminHeard (s : State) (x : Loc) : (s.poisonHalf x).adminHeard = s.adminHeard := rfl
@[simp] theorem State.poisonHalf_fwins (s : State) (x : Loc) : (s.poisonHalf x).fwins = s.fwins := rfl
@[simp] theorem State.poisonHalf_winLines (s : State) (x : Loc) : (s.poisonHalf x).winLines = s.winLines := rfl
@[simp] theorem State.poisonHalf_rotAt (s : State) (x : Loc) : (s.poisonHalf x).rotAt = s.rotAt := rfl
@[simp] theorem State.poisonHalf_images (s : State) (x : Loc) : (s.poisonHalf x).images = s.images := rfl
@[simp] theorem State.poisonHalf_mem (s : State) (x : Loc) : (s.poisonHalf x).mem = s.mem := rfl
@[simp] theorem State.poisonHalf_hostMem (s : State) (x : Loc) : (s.poisonHalf x).hostMem = s.hostMem := rfl
@[simp] theorem State.poisonHalf_peerMem (s : State) (x : Loc) : (s.poisonHalf x).peerMem = s.peerMem := rfl
@[simp] theorem State.poisonHalf_dirty (s : State) (x : Loc) : (s.poisonHalf x).dirty = s.dirty := rfl
@[simp] theorem State.poisonHalf_recalls (s : State) (x : Loc) : (s.poisonHalf x).recalls = s.recalls := rfl
@[simp] theorem State.poisonHalf_seq (s : State) (x : Loc) : (s.poisonHalf x).seq = s.seq := rfl
@[simp] theorem State.poisonHalf_tlb (s : State) (x : Loc) : (s.poisonHalf x).tlb = s.tlb := rfl
@[simp] theorem State.poisonHalf_contexts (s : State) (x : Loc) : (s.poisonHalf x).contexts = s.contexts := rfl
@[simp] theorem State.poisonHalf_queues (s : State) (x : Loc) : (s.poisonHalf x).queues = s.queues := rfl
@[simp] theorem State.poisonHalf_slots (s : State) (x : Loc) : (s.poisonHalf x).slots = s.slots := rfl
@[simp] theorem State.poisonHalf_launches (s : State) (x : Loc) : (s.poisonHalf x).launches = s.launches := rfl
@[simp] theorem State.poisonHalf_nextLaunch (s : State) (x : Loc) : (s.poisonHalf x).nextLaunch = s.nextLaunch := rfl
@[simp] theorem State.poisonHalf_ops (s : State) (x : Loc) : (s.poisonHalf x).ops = s.ops := rfl
@[simp] theorem State.poisonHalf_nextOp (s : State) (x : Loc) : (s.poisonHalf x).nextOp = s.nextOp := rfl
@[simp] theorem State.poisonHalf_engines (s : State) (x : Loc) : (s.poisonHalf x).engines = s.engines := rfl
@[simp] theorem State.poisonHalf_runs (s : State) (x : Loc) : (s.poisonHalf x).runs = s.runs := rfl
@[simp] theorem State.poisonHalf_nextRun (s : State) (x : Loc) : (s.poisonHalf x).nextRun = s.nextRun := rfl
@[simp] theorem State.poisonHalf_nbStore (s : State) (x : Loc) : (s.poisonHalf x).nbStore = s.nbStore := rfl
@[simp] theorem State.poisonHalf_splits (s : State) (x : Loc) : (s.poisonHalf x).splits = s.splits := rfl
@[simp] theorem State.poisonHalf_roll (s : State) (x : Loc) : (s.poisonHalf x).roll = s.roll := rfl
@[simp] theorem State.poisonHalf_meas (s : State) (x : Loc) : (s.poisonHalf x).meas = s.meas := rfl
@[simp] theorem State.poisonHalf_spdm (s : State) (x : Loc) : (s.poisonHalf x).spdm = s.spdm := rfl
@[simp] theorem State.poisonHalf_auditSig (s : State) (x : Loc) : (s.poisonHalf x).auditSig = s.auditSig := rfl
@[simp] theorem State.poisonHalf_pkg (s : State) (x : Loc) : (s.poisonHalf x).pkg = s.pkg := rfl
@[simp] theorem State.poisonHalf_routes (s : State) (x : Loc) : (s.poisonHalf x).routes = s.routes := rfl
@[simp] theorem State.poisonHalf_xoff (s : State) (x : Loc) : (s.poisonHalf x).xoff = s.xoff := rfl
@[simp] theorem State.poisonHalf_linkIn (s : State) (x : Loc) : (s.poisonHalf x).linkIn = s.linkIn := rfl
@[simp] theorem State.poisonHalf_linkOut (s : State) (x : Loc) : (s.poisonHalf x).linkOut = s.linkOut := rfl
@[simp] theorem State.poisonHalf_linkRetries (s : State) (x : Loc) : (s.poisonHalf x).linkRetries = s.linkRetries := rfl
@[simp] theorem State.poisonHalf_halves (s : State) (x : Loc) : (s.poisonHalf x).halves = s.halves := rfl
@[simp] theorem State.poisonHalf_bridge (s : State) (x : Loc) : (s.poisonHalf x).bridge = s.bridge := rfl
@[simp] theorem State.poisonHalf_incarn (s : State) (x : Loc) : (s.poisonHalf x).incarn = s.incarn := rfl
@[simp] theorem State.poisonHalf_lost (s : State) (x : Loc) : (s.poisonHalf x).lost = s.lost := rfl
@[simp] theorem State.poisonHalf_refusedLog (s : State) (x : Loc) : (s.poisonHalf x).refusedLog = s.refusedLog := rfl
@[simp] theorem State.poisonHalf_droppedLog (s : State) (x : Loc) : (s.poisonHalf x).droppedLog = s.droppedLog := rfl
@[simp] theorem State.poisonHalf_answer (s : State) (x : Loc) : (s.poisonHalf x).answer = s.answer := rfl
@[simp] theorem State.poisonHalf_mail (s : State) (x : Loc) : (s.poisonHalf x).mail = s.mail := rfl
@[simp] theorem State.poisonHalf_agenda (s : State) (x : Loc) : (s.poisonHalf x).agenda = s.agenda := rfl
@[simp] theorem State.poisonHalf_deferred (s : State) (x : Loc) : (s.poisonHalf x).deferred = s.deferred := rfl
@[simp] theorem State.poisonHalf_received (s : State) (x : Loc) : (s.poisonHalf x).received = s.received := rfl
@[simp] theorem State.poisonHalf_waiting (s : State) (x : Loc) : (s.poisonHalf x).waiting = s.waiting := rfl
@[simp] theorem State.poisonHalf_steps (s : State) (x : Loc) : (s.poisonHalf x).steps = s.steps := rfl
@[simp] theorem State.poisonHalf_issuer (s : State) (x : Loc) : (s.poisonHalf x).issuer = s.issuer := rfl
@[simp] theorem State.poisonHalf_focus (s : State) (x : Loc) : (s.poisonHalf x).focus = s.focus := rfl

/-! `unpoisonHalf` -/

@[simp] theorem State.unpoisonHalf_powered (s : State) (x : Loc) : (s.unpoisonHalf x).powered = s.powered := rfl
@[simp] theorem State.unpoisonHalf_cycle (s : State) (x : Loc) : (s.unpoisonHalf x).cycle = s.cycle := rfl
@[simp] theorem State.unpoisonHalf_beat (s : State) (x : Loc) : (s.unpoisonHalf x).beat = s.beat := rfl
@[simp] theorem State.unpoisonHalf_devready (s : State) (x : Loc) : (s.unpoisonHalf x).devready = s.devready := rfl
@[simp] theorem State.unpoisonHalf_failed (s : State) (x : Loc) : (s.unpoisonHalf x).failed = s.failed := rfl
@[simp] theorem State.unpoisonHalf_bringStep (s : State) (x : Loc) : (s.unpoisonHalf x).bringStep = s.bringStep := rfl
@[simp] theorem State.unpoisonHalf_bringing (s : State) (x : Loc) : (s.unpoisonHalf x).bringing = s.bringing := rfl
@[simp] theorem State.unpoisonHalf_lwidth (s : State) (x : Loc) : (s.unpoisonHalf x).lwidth = s.lwidth := rfl
@[simp] theorem State.unpoisonHalf_lrate (s : State) (x : Loc) : (s.unpoisonHalf x).lrate = s.lrate := rfl
@[simp] theorem State.unpoisonHalf_fports (s : State) (x : Loc) : (s.unpoisonHalf x).fports = s.fports := rfl
@[simp] theorem State.unpoisonHalf_gated (s : State) (x : Loc) : (s.unpoisonHalf x).gated = s.gated := rfl
@[simp] theorem State.unpoisonHalf_thermwarn (s : State) (x : Loc) : (s.unpoisonHalf x).thermwarn = s.thermwarn := rfl
@[simp] theorem State.unpoisonHalf_hotTiers (s : State) (x : Loc) : (s.unpoisonHalf x).hotTiers = s.hotTiers := rfl
@[simp] theorem State.unpoisonHalf_overPower (s : State) (x : Loc) : (s.unpoisonHalf x).overPower = s.overPower := rfl
@[simp] theorem State.unpoisonHalf_tripped (s : State) (x : Loc) : (s.unpoisonHalf x).tripped = s.tripped := rfl
@[simp] theorem State.unpoisonHalf_forbidden (s : State) (x : Loc) : (s.unpoisonHalf x).forbidden = s.forbidden := rfl
@[simp] theorem State.unpoisonHalf_roles (s : State) (x : Loc) : (s.unpoisonHalf x).roles = s.roles := rfl
@[simp] theorem State.unpoisonHalf_roleChange (s : State) (x : Loc) : (s.unpoisonHalf x).roleChange = s.roleChange := rfl
@[simp] theorem State.unpoisonHalf_lastOff (s : State) (x : Loc) : (s.unpoisonHalf x).lastOff = s.lastOff := rfl
@[simp] theorem State.unpoisonHalf_lastCause (s : State) (x : Loc) : (s.unpoisonHalf x).lastCause = s.lastCause := rfl
@[simp] theorem State.unpoisonHalf_parts (s : State) (x : Loc) : (s.unpoisonHalf x).parts = s.parts := rfl
@[simp] theorem State.unpoisonHalf_adminTag (s : State) (x : Loc) : (s.unpoisonHalf x).adminTag = s.adminTag := rfl
@[simp] theorem State.unpoisonHalf_adminStatus (s : State) (x : Loc) : (s.unpoisonHalf x).adminStatus = s.adminStatus := rfl
@[simp] theorem State.unpoisonHalf_adminCount (s : State) (x : Loc) : (s.unpoisonHalf x).adminCount = s.adminCount := rfl
@[simp] theorem State.unpoisonHalf_adminRing (s : State) (x : Loc) : (s.unpoisonHalf x).adminRing = s.adminRing := rfl
@[simp] theorem State.unpoisonHalf_adminHeard (s : State) (x : Loc) : (s.unpoisonHalf x).adminHeard = s.adminHeard := rfl
@[simp] theorem State.unpoisonHalf_fwins (s : State) (x : Loc) : (s.unpoisonHalf x).fwins = s.fwins := rfl
@[simp] theorem State.unpoisonHalf_winLines (s : State) (x : Loc) : (s.unpoisonHalf x).winLines = s.winLines := rfl
@[simp] theorem State.unpoisonHalf_rotAt (s : State) (x : Loc) : (s.unpoisonHalf x).rotAt = s.rotAt := rfl
@[simp] theorem State.unpoisonHalf_images (s : State) (x : Loc) : (s.unpoisonHalf x).images = s.images := rfl
@[simp] theorem State.unpoisonHalf_mem (s : State) (x : Loc) : (s.unpoisonHalf x).mem = s.mem := rfl
@[simp] theorem State.unpoisonHalf_hostMem (s : State) (x : Loc) : (s.unpoisonHalf x).hostMem = s.hostMem := rfl
@[simp] theorem State.unpoisonHalf_peerMem (s : State) (x : Loc) : (s.unpoisonHalf x).peerMem = s.peerMem := rfl
@[simp] theorem State.unpoisonHalf_dirty (s : State) (x : Loc) : (s.unpoisonHalf x).dirty = s.dirty := rfl
@[simp] theorem State.unpoisonHalf_recalls (s : State) (x : Loc) : (s.unpoisonHalf x).recalls = s.recalls := rfl
@[simp] theorem State.unpoisonHalf_seq (s : State) (x : Loc) : (s.unpoisonHalf x).seq = s.seq := rfl
@[simp] theorem State.unpoisonHalf_tlb (s : State) (x : Loc) : (s.unpoisonHalf x).tlb = s.tlb := rfl
@[simp] theorem State.unpoisonHalf_contexts (s : State) (x : Loc) : (s.unpoisonHalf x).contexts = s.contexts := rfl
@[simp] theorem State.unpoisonHalf_queues (s : State) (x : Loc) : (s.unpoisonHalf x).queues = s.queues := rfl
@[simp] theorem State.unpoisonHalf_slots (s : State) (x : Loc) : (s.unpoisonHalf x).slots = s.slots := rfl
@[simp] theorem State.unpoisonHalf_launches (s : State) (x : Loc) : (s.unpoisonHalf x).launches = s.launches := rfl
@[simp] theorem State.unpoisonHalf_nextLaunch (s : State) (x : Loc) : (s.unpoisonHalf x).nextLaunch = s.nextLaunch := rfl
@[simp] theorem State.unpoisonHalf_ops (s : State) (x : Loc) : (s.unpoisonHalf x).ops = s.ops := rfl
@[simp] theorem State.unpoisonHalf_nextOp (s : State) (x : Loc) : (s.unpoisonHalf x).nextOp = s.nextOp := rfl
@[simp] theorem State.unpoisonHalf_engines (s : State) (x : Loc) : (s.unpoisonHalf x).engines = s.engines := rfl
@[simp] theorem State.unpoisonHalf_runs (s : State) (x : Loc) : (s.unpoisonHalf x).runs = s.runs := rfl
@[simp] theorem State.unpoisonHalf_nextRun (s : State) (x : Loc) : (s.unpoisonHalf x).nextRun = s.nextRun := rfl
@[simp] theorem State.unpoisonHalf_nbStore (s : State) (x : Loc) : (s.unpoisonHalf x).nbStore = s.nbStore := rfl
@[simp] theorem State.unpoisonHalf_splits (s : State) (x : Loc) : (s.unpoisonHalf x).splits = s.splits := rfl
@[simp] theorem State.unpoisonHalf_roll (s : State) (x : Loc) : (s.unpoisonHalf x).roll = s.roll := rfl
@[simp] theorem State.unpoisonHalf_meas (s : State) (x : Loc) : (s.unpoisonHalf x).meas = s.meas := rfl
@[simp] theorem State.unpoisonHalf_spdm (s : State) (x : Loc) : (s.unpoisonHalf x).spdm = s.spdm := rfl
@[simp] theorem State.unpoisonHalf_auditSig (s : State) (x : Loc) : (s.unpoisonHalf x).auditSig = s.auditSig := rfl
@[simp] theorem State.unpoisonHalf_pkg (s : State) (x : Loc) : (s.unpoisonHalf x).pkg = s.pkg := rfl
@[simp] theorem State.unpoisonHalf_routes (s : State) (x : Loc) : (s.unpoisonHalf x).routes = s.routes := rfl
@[simp] theorem State.unpoisonHalf_xoff (s : State) (x : Loc) : (s.unpoisonHalf x).xoff = s.xoff := rfl
@[simp] theorem State.unpoisonHalf_linkIn (s : State) (x : Loc) : (s.unpoisonHalf x).linkIn = s.linkIn := rfl
@[simp] theorem State.unpoisonHalf_linkOut (s : State) (x : Loc) : (s.unpoisonHalf x).linkOut = s.linkOut := rfl
@[simp] theorem State.unpoisonHalf_linkRetries (s : State) (x : Loc) : (s.unpoisonHalf x).linkRetries = s.linkRetries := rfl
@[simp] theorem State.unpoisonHalf_halves (s : State) (x : Loc) : (s.unpoisonHalf x).halves = s.halves := rfl
@[simp] theorem State.unpoisonHalf_bridge (s : State) (x : Loc) : (s.unpoisonHalf x).bridge = s.bridge := rfl
@[simp] theorem State.unpoisonHalf_incarn (s : State) (x : Loc) : (s.unpoisonHalf x).incarn = s.incarn := rfl
@[simp] theorem State.unpoisonHalf_lost (s : State) (x : Loc) : (s.unpoisonHalf x).lost = s.lost := rfl
@[simp] theorem State.unpoisonHalf_refusedLog (s : State) (x : Loc) : (s.unpoisonHalf x).refusedLog = s.refusedLog := rfl
@[simp] theorem State.unpoisonHalf_droppedLog (s : State) (x : Loc) : (s.unpoisonHalf x).droppedLog = s.droppedLog := rfl
@[simp] theorem State.unpoisonHalf_answer (s : State) (x : Loc) : (s.unpoisonHalf x).answer = s.answer := rfl
@[simp] theorem State.unpoisonHalf_mail (s : State) (x : Loc) : (s.unpoisonHalf x).mail = s.mail := rfl
@[simp] theorem State.unpoisonHalf_agenda (s : State) (x : Loc) : (s.unpoisonHalf x).agenda = s.agenda := rfl
@[simp] theorem State.unpoisonHalf_deferred (s : State) (x : Loc) : (s.unpoisonHalf x).deferred = s.deferred := rfl
@[simp] theorem State.unpoisonHalf_received (s : State) (x : Loc) : (s.unpoisonHalf x).received = s.received := rfl
@[simp] theorem State.unpoisonHalf_waiting (s : State) (x : Loc) : (s.unpoisonHalf x).waiting = s.waiting := rfl
@[simp] theorem State.unpoisonHalf_steps (s : State) (x : Loc) : (s.unpoisonHalf x).steps = s.steps := rfl
@[simp] theorem State.unpoisonHalf_issuer (s : State) (x : Loc) : (s.unpoisonHalf x).issuer = s.issuer := rfl
@[simp] theorem State.unpoisonHalf_focus (s : State) (x : Loc) : (s.unpoisonHalf x).focus = s.focus := rfl

/-! `notifyPart` -/

@[simp] theorem State.notifyPart_powered (s : State) (p k c : Nat) (a b : DWord) : (s.notifyPart p k c a b).powered = s.powered := rfl
@[simp] theorem State.notifyPart_cycle (s : State) (p k c : Nat) (a b : DWord) : (s.notifyPart p k c a b).cycle = s.cycle := rfl
@[simp] theorem State.notifyPart_beat (s : State) (p k c : Nat) (a b : DWord) : (s.notifyPart p k c a b).beat = s.beat := rfl
@[simp] theorem State.notifyPart_devready (s : State) (p k c : Nat) (a b : DWord) : (s.notifyPart p k c a b).devready = s.devready := rfl
@[simp] theorem State.notifyPart_failed (s : State) (p k c : Nat) (a b : DWord) : (s.notifyPart p k c a b).failed = s.failed := rfl
@[simp] theorem State.notifyPart_bringStep (s : State) (p k c : Nat) (a b : DWord) : (s.notifyPart p k c a b).bringStep = s.bringStep := rfl
@[simp] theorem State.notifyPart_bringing (s : State) (p k c : Nat) (a b : DWord) : (s.notifyPart p k c a b).bringing = s.bringing := rfl
@[simp] theorem State.notifyPart_lwidth (s : State) (p k c : Nat) (a b : DWord) : (s.notifyPart p k c a b).lwidth = s.lwidth := rfl
@[simp] theorem State.notifyPart_lrate (s : State) (p k c : Nat) (a b : DWord) : (s.notifyPart p k c a b).lrate = s.lrate := rfl
@[simp] theorem State.notifyPart_fports (s : State) (p k c : Nat) (a b : DWord) : (s.notifyPart p k c a b).fports = s.fports := rfl
@[simp] theorem State.notifyPart_gated (s : State) (p k c : Nat) (a b : DWord) : (s.notifyPart p k c a b).gated = s.gated := rfl
@[simp] theorem State.notifyPart_thermwarn (s : State) (p k c : Nat) (a b : DWord) : (s.notifyPart p k c a b).thermwarn = s.thermwarn := rfl
@[simp] theorem State.notifyPart_hotTiers (s : State) (p k c : Nat) (a b : DWord) : (s.notifyPart p k c a b).hotTiers = s.hotTiers := rfl
@[simp] theorem State.notifyPart_overPower (s : State) (p k c : Nat) (a b : DWord) : (s.notifyPart p k c a b).overPower = s.overPower := rfl
@[simp] theorem State.notifyPart_tripped (s : State) (p k c : Nat) (a b : DWord) : (s.notifyPart p k c a b).tripped = s.tripped := rfl
@[simp] theorem State.notifyPart_forbidden (s : State) (p k c : Nat) (a b : DWord) : (s.notifyPart p k c a b).forbidden = s.forbidden := rfl
@[simp] theorem State.notifyPart_roles (s : State) (p k c : Nat) (a b : DWord) : (s.notifyPart p k c a b).roles = s.roles := rfl
@[simp] theorem State.notifyPart_roleChange (s : State) (p k c : Nat) (a b : DWord) : (s.notifyPart p k c a b).roleChange = s.roleChange := rfl
@[simp] theorem State.notifyPart_lastOff (s : State) (p k c : Nat) (a b : DWord) : (s.notifyPart p k c a b).lastOff = s.lastOff := rfl
@[simp] theorem State.notifyPart_lastCause (s : State) (p k c : Nat) (a b : DWord) : (s.notifyPart p k c a b).lastCause = s.lastCause := rfl
@[simp] theorem State.notifyPart_adminTag (s : State) (p k c : Nat) (a b : DWord) : (s.notifyPart p k c a b).adminTag = s.adminTag := rfl
@[simp] theorem State.notifyPart_adminStatus (s : State) (p k c : Nat) (a b : DWord) : (s.notifyPart p k c a b).adminStatus = s.adminStatus := rfl
@[simp] theorem State.notifyPart_adminCount (s : State) (p k c : Nat) (a b : DWord) : (s.notifyPart p k c a b).adminCount = s.adminCount := rfl
@[simp] theorem State.notifyPart_adminRing (s : State) (p k c : Nat) (a b : DWord) : (s.notifyPart p k c a b).adminRing = s.adminRing := rfl
@[simp] theorem State.notifyPart_adminHeard (s : State) (p k c : Nat) (a b : DWord) : (s.notifyPart p k c a b).adminHeard = s.adminHeard := rfl
@[simp] theorem State.notifyPart_fwins (s : State) (p k c : Nat) (a b : DWord) : (s.notifyPart p k c a b).fwins = s.fwins := rfl
@[simp] theorem State.notifyPart_winLines (s : State) (p k c : Nat) (a b : DWord) : (s.notifyPart p k c a b).winLines = s.winLines := rfl
@[simp] theorem State.notifyPart_rotAt (s : State) (p k c : Nat) (a b : DWord) : (s.notifyPart p k c a b).rotAt = s.rotAt := rfl
@[simp] theorem State.notifyPart_images (s : State) (p k c : Nat) (a b : DWord) : (s.notifyPart p k c a b).images = s.images := rfl
@[simp] theorem State.notifyPart_mem (s : State) (p k c : Nat) (a b : DWord) : (s.notifyPart p k c a b).mem = s.mem := rfl
@[simp] theorem State.notifyPart_hostMem (s : State) (p k c : Nat) (a b : DWord) : (s.notifyPart p k c a b).hostMem = s.hostMem := rfl
@[simp] theorem State.notifyPart_peerMem (s : State) (p k c : Nat) (a b : DWord) : (s.notifyPart p k c a b).peerMem = s.peerMem := rfl
@[simp] theorem State.notifyPart_poison (s : State) (p k c : Nat) (a b : DWord) : (s.notifyPart p k c a b).poison = s.poison := rfl
@[simp] theorem State.notifyPart_dirty (s : State) (p k c : Nat) (a b : DWord) : (s.notifyPart p k c a b).dirty = s.dirty := rfl
@[simp] theorem State.notifyPart_recalls (s : State) (p k c : Nat) (a b : DWord) : (s.notifyPart p k c a b).recalls = s.recalls := rfl
@[simp] theorem State.notifyPart_seq (s : State) (p k c : Nat) (a b : DWord) : (s.notifyPart p k c a b).seq = s.seq := rfl
@[simp] theorem State.notifyPart_tlb (s : State) (p k c : Nat) (a b : DWord) : (s.notifyPart p k c a b).tlb = s.tlb := rfl
@[simp] theorem State.notifyPart_contexts (s : State) (p k c : Nat) (a b : DWord) : (s.notifyPart p k c a b).contexts = s.contexts := rfl
@[simp] theorem State.notifyPart_queues (s : State) (p k c : Nat) (a b : DWord) : (s.notifyPart p k c a b).queues = s.queues := rfl
@[simp] theorem State.notifyPart_slots (s : State) (p k c : Nat) (a b : DWord) : (s.notifyPart p k c a b).slots = s.slots := rfl
@[simp] theorem State.notifyPart_launches (s : State) (p k c : Nat) (a b : DWord) : (s.notifyPart p k c a b).launches = s.launches := rfl
@[simp] theorem State.notifyPart_nextLaunch (s : State) (p k c : Nat) (a b : DWord) : (s.notifyPart p k c a b).nextLaunch = s.nextLaunch := rfl
@[simp] theorem State.notifyPart_ops (s : State) (p k c : Nat) (a b : DWord) : (s.notifyPart p k c a b).ops = s.ops := rfl
@[simp] theorem State.notifyPart_nextOp (s : State) (p k c : Nat) (a b : DWord) : (s.notifyPart p k c a b).nextOp = s.nextOp := rfl
@[simp] theorem State.notifyPart_engines (s : State) (p k c : Nat) (a b : DWord) : (s.notifyPart p k c a b).engines = s.engines := rfl
@[simp] theorem State.notifyPart_runs (s : State) (p k c : Nat) (a b : DWord) : (s.notifyPart p k c a b).runs = s.runs := rfl
@[simp] theorem State.notifyPart_nextRun (s : State) (p k c : Nat) (a b : DWord) : (s.notifyPart p k c a b).nextRun = s.nextRun := rfl
@[simp] theorem State.notifyPart_nbStore (s : State) (p k c : Nat) (a b : DWord) : (s.notifyPart p k c a b).nbStore = s.nbStore := rfl
@[simp] theorem State.notifyPart_splits (s : State) (p k c : Nat) (a b : DWord) : (s.notifyPart p k c a b).splits = s.splits := rfl
@[simp] theorem State.notifyPart_roll (s : State) (p k c : Nat) (a b : DWord) : (s.notifyPart p k c a b).roll = s.roll := rfl
@[simp] theorem State.notifyPart_meas (s : State) (p k c : Nat) (a b : DWord) : (s.notifyPart p k c a b).meas = s.meas := rfl
@[simp] theorem State.notifyPart_spdm (s : State) (p k c : Nat) (a b : DWord) : (s.notifyPart p k c a b).spdm = s.spdm := rfl
@[simp] theorem State.notifyPart_auditSig (s : State) (p k c : Nat) (a b : DWord) : (s.notifyPart p k c a b).auditSig = s.auditSig := rfl
@[simp] theorem State.notifyPart_pkg (s : State) (p k c : Nat) (a b : DWord) : (s.notifyPart p k c a b).pkg = s.pkg := rfl
@[simp] theorem State.notifyPart_routes (s : State) (p k c : Nat) (a b : DWord) : (s.notifyPart p k c a b).routes = s.routes := rfl
@[simp] theorem State.notifyPart_xoff (s : State) (p k c : Nat) (a b : DWord) : (s.notifyPart p k c a b).xoff = s.xoff := rfl
@[simp] theorem State.notifyPart_linkIn (s : State) (p k c : Nat) (a b : DWord) : (s.notifyPart p k c a b).linkIn = s.linkIn := rfl
@[simp] theorem State.notifyPart_linkOut (s : State) (p k c : Nat) (a b : DWord) : (s.notifyPart p k c a b).linkOut = s.linkOut := rfl
@[simp] theorem State.notifyPart_linkRetries (s : State) (p k c : Nat) (a b : DWord) : (s.notifyPart p k c a b).linkRetries = s.linkRetries := rfl
@[simp] theorem State.notifyPart_halves (s : State) (p k c : Nat) (a b : DWord) : (s.notifyPart p k c a b).halves = s.halves := rfl
@[simp] theorem State.notifyPart_bridge (s : State) (p k c : Nat) (a b : DWord) : (s.notifyPart p k c a b).bridge = s.bridge := rfl
@[simp] theorem State.notifyPart_incarn (s : State) (p k c : Nat) (a b : DWord) : (s.notifyPart p k c a b).incarn = s.incarn := rfl
@[simp] theorem State.notifyPart_lost (s : State) (p k c : Nat) (a b : DWord) : (s.notifyPart p k c a b).lost = s.lost := rfl
@[simp] theorem State.notifyPart_refusedLog (s : State) (p k c : Nat) (a b : DWord) : (s.notifyPart p k c a b).refusedLog = s.refusedLog := rfl
@[simp] theorem State.notifyPart_droppedLog (s : State) (p k c : Nat) (a b : DWord) : (s.notifyPart p k c a b).droppedLog = s.droppedLog := rfl
@[simp] theorem State.notifyPart_answer (s : State) (p k c : Nat) (a b : DWord) : (s.notifyPart p k c a b).answer = s.answer := rfl
@[simp] theorem State.notifyPart_mail (s : State) (p k c : Nat) (a b : DWord) : (s.notifyPart p k c a b).mail = s.mail := rfl
@[simp] theorem State.notifyPart_agenda (s : State) (p k c : Nat) (a b : DWord) : (s.notifyPart p k c a b).agenda = s.agenda := rfl
@[simp] theorem State.notifyPart_deferred (s : State) (p k c : Nat) (a b : DWord) : (s.notifyPart p k c a b).deferred = s.deferred := rfl
@[simp] theorem State.notifyPart_received (s : State) (p k c : Nat) (a b : DWord) : (s.notifyPart p k c a b).received = s.received := rfl
@[simp] theorem State.notifyPart_waiting (s : State) (p k c : Nat) (a b : DWord) : (s.notifyPart p k c a b).waiting = s.waiting := rfl
@[simp] theorem State.notifyPart_steps (s : State) (p k c : Nat) (a b : DWord) : (s.notifyPart p k c a b).steps = s.steps := rfl
@[simp] theorem State.notifyPart_issuer (s : State) (p k c : Nat) (a b : DWord) : (s.notifyPart p k c a b).issuer = s.issuer := rfl
@[simp] theorem State.notifyPart_focus (s : State) (p k c : Nat) (a b : DWord) : (s.notifyPart p k c a b).focus = s.focus := rfl

/-! `notifyAdmin` -/

@[simp] theorem State.notifyAdmin_powered (s : State) (k c : Nat) (a b : DWord) : (s.notifyAdmin k c a b).powered = s.powered := rfl
@[simp] theorem State.notifyAdmin_cycle (s : State) (k c : Nat) (a b : DWord) : (s.notifyAdmin k c a b).cycle = s.cycle := rfl
@[simp] theorem State.notifyAdmin_beat (s : State) (k c : Nat) (a b : DWord) : (s.notifyAdmin k c a b).beat = s.beat := rfl
@[simp] theorem State.notifyAdmin_devready (s : State) (k c : Nat) (a b : DWord) : (s.notifyAdmin k c a b).devready = s.devready := rfl
@[simp] theorem State.notifyAdmin_failed (s : State) (k c : Nat) (a b : DWord) : (s.notifyAdmin k c a b).failed = s.failed := rfl
@[simp] theorem State.notifyAdmin_bringStep (s : State) (k c : Nat) (a b : DWord) : (s.notifyAdmin k c a b).bringStep = s.bringStep := rfl
@[simp] theorem State.notifyAdmin_bringing (s : State) (k c : Nat) (a b : DWord) : (s.notifyAdmin k c a b).bringing = s.bringing := rfl
@[simp] theorem State.notifyAdmin_lwidth (s : State) (k c : Nat) (a b : DWord) : (s.notifyAdmin k c a b).lwidth = s.lwidth := rfl
@[simp] theorem State.notifyAdmin_lrate (s : State) (k c : Nat) (a b : DWord) : (s.notifyAdmin k c a b).lrate = s.lrate := rfl
@[simp] theorem State.notifyAdmin_fports (s : State) (k c : Nat) (a b : DWord) : (s.notifyAdmin k c a b).fports = s.fports := rfl
@[simp] theorem State.notifyAdmin_gated (s : State) (k c : Nat) (a b : DWord) : (s.notifyAdmin k c a b).gated = s.gated := rfl
@[simp] theorem State.notifyAdmin_thermwarn (s : State) (k c : Nat) (a b : DWord) : (s.notifyAdmin k c a b).thermwarn = s.thermwarn := rfl
@[simp] theorem State.notifyAdmin_hotTiers (s : State) (k c : Nat) (a b : DWord) : (s.notifyAdmin k c a b).hotTiers = s.hotTiers := rfl
@[simp] theorem State.notifyAdmin_overPower (s : State) (k c : Nat) (a b : DWord) : (s.notifyAdmin k c a b).overPower = s.overPower := rfl
@[simp] theorem State.notifyAdmin_tripped (s : State) (k c : Nat) (a b : DWord) : (s.notifyAdmin k c a b).tripped = s.tripped := rfl
@[simp] theorem State.notifyAdmin_forbidden (s : State) (k c : Nat) (a b : DWord) : (s.notifyAdmin k c a b).forbidden = s.forbidden := rfl
@[simp] theorem State.notifyAdmin_roles (s : State) (k c : Nat) (a b : DWord) : (s.notifyAdmin k c a b).roles = s.roles := rfl
@[simp] theorem State.notifyAdmin_roleChange (s : State) (k c : Nat) (a b : DWord) : (s.notifyAdmin k c a b).roleChange = s.roleChange := rfl
@[simp] theorem State.notifyAdmin_lastOff (s : State) (k c : Nat) (a b : DWord) : (s.notifyAdmin k c a b).lastOff = s.lastOff := rfl
@[simp] theorem State.notifyAdmin_lastCause (s : State) (k c : Nat) (a b : DWord) : (s.notifyAdmin k c a b).lastCause = s.lastCause := rfl
@[simp] theorem State.notifyAdmin_parts (s : State) (k c : Nat) (a b : DWord) : (s.notifyAdmin k c a b).parts = s.parts := rfl
@[simp] theorem State.notifyAdmin_adminTag (s : State) (k c : Nat) (a b : DWord) : (s.notifyAdmin k c a b).adminTag = s.adminTag := rfl
@[simp] theorem State.notifyAdmin_adminStatus (s : State) (k c : Nat) (a b : DWord) : (s.notifyAdmin k c a b).adminStatus = s.adminStatus := rfl
@[simp] theorem State.notifyAdmin_adminHeard (s : State) (k c : Nat) (a b : DWord) : (s.notifyAdmin k c a b).adminHeard = s.adminHeard := rfl
@[simp] theorem State.notifyAdmin_fwins (s : State) (k c : Nat) (a b : DWord) : (s.notifyAdmin k c a b).fwins = s.fwins := rfl
@[simp] theorem State.notifyAdmin_winLines (s : State) (k c : Nat) (a b : DWord) : (s.notifyAdmin k c a b).winLines = s.winLines := rfl
@[simp] theorem State.notifyAdmin_rotAt (s : State) (k c : Nat) (a b : DWord) : (s.notifyAdmin k c a b).rotAt = s.rotAt := rfl
@[simp] theorem State.notifyAdmin_images (s : State) (k c : Nat) (a b : DWord) : (s.notifyAdmin k c a b).images = s.images := rfl
@[simp] theorem State.notifyAdmin_mem (s : State) (k c : Nat) (a b : DWord) : (s.notifyAdmin k c a b).mem = s.mem := rfl
@[simp] theorem State.notifyAdmin_hostMem (s : State) (k c : Nat) (a b : DWord) : (s.notifyAdmin k c a b).hostMem = s.hostMem := rfl
@[simp] theorem State.notifyAdmin_peerMem (s : State) (k c : Nat) (a b : DWord) : (s.notifyAdmin k c a b).peerMem = s.peerMem := rfl
@[simp] theorem State.notifyAdmin_poison (s : State) (k c : Nat) (a b : DWord) : (s.notifyAdmin k c a b).poison = s.poison := rfl
@[simp] theorem State.notifyAdmin_dirty (s : State) (k c : Nat) (a b : DWord) : (s.notifyAdmin k c a b).dirty = s.dirty := rfl
@[simp] theorem State.notifyAdmin_recalls (s : State) (k c : Nat) (a b : DWord) : (s.notifyAdmin k c a b).recalls = s.recalls := rfl
@[simp] theorem State.notifyAdmin_seq (s : State) (k c : Nat) (a b : DWord) : (s.notifyAdmin k c a b).seq = s.seq := rfl
@[simp] theorem State.notifyAdmin_tlb (s : State) (k c : Nat) (a b : DWord) : (s.notifyAdmin k c a b).tlb = s.tlb := rfl
@[simp] theorem State.notifyAdmin_contexts (s : State) (k c : Nat) (a b : DWord) : (s.notifyAdmin k c a b).contexts = s.contexts := rfl
@[simp] theorem State.notifyAdmin_queues (s : State) (k c : Nat) (a b : DWord) : (s.notifyAdmin k c a b).queues = s.queues := rfl
@[simp] theorem State.notifyAdmin_slots (s : State) (k c : Nat) (a b : DWord) : (s.notifyAdmin k c a b).slots = s.slots := rfl
@[simp] theorem State.notifyAdmin_launches (s : State) (k c : Nat) (a b : DWord) : (s.notifyAdmin k c a b).launches = s.launches := rfl
@[simp] theorem State.notifyAdmin_nextLaunch (s : State) (k c : Nat) (a b : DWord) : (s.notifyAdmin k c a b).nextLaunch = s.nextLaunch := rfl
@[simp] theorem State.notifyAdmin_ops (s : State) (k c : Nat) (a b : DWord) : (s.notifyAdmin k c a b).ops = s.ops := rfl
@[simp] theorem State.notifyAdmin_nextOp (s : State) (k c : Nat) (a b : DWord) : (s.notifyAdmin k c a b).nextOp = s.nextOp := rfl
@[simp] theorem State.notifyAdmin_engines (s : State) (k c : Nat) (a b : DWord) : (s.notifyAdmin k c a b).engines = s.engines := rfl
@[simp] theorem State.notifyAdmin_runs (s : State) (k c : Nat) (a b : DWord) : (s.notifyAdmin k c a b).runs = s.runs := rfl
@[simp] theorem State.notifyAdmin_nextRun (s : State) (k c : Nat) (a b : DWord) : (s.notifyAdmin k c a b).nextRun = s.nextRun := rfl
@[simp] theorem State.notifyAdmin_nbStore (s : State) (k c : Nat) (a b : DWord) : (s.notifyAdmin k c a b).nbStore = s.nbStore := rfl
@[simp] theorem State.notifyAdmin_splits (s : State) (k c : Nat) (a b : DWord) : (s.notifyAdmin k c a b).splits = s.splits := rfl
@[simp] theorem State.notifyAdmin_roll (s : State) (k c : Nat) (a b : DWord) : (s.notifyAdmin k c a b).roll = s.roll := rfl
@[simp] theorem State.notifyAdmin_meas (s : State) (k c : Nat) (a b : DWord) : (s.notifyAdmin k c a b).meas = s.meas := rfl
@[simp] theorem State.notifyAdmin_spdm (s : State) (k c : Nat) (a b : DWord) : (s.notifyAdmin k c a b).spdm = s.spdm := rfl
@[simp] theorem State.notifyAdmin_auditSig (s : State) (k c : Nat) (a b : DWord) : (s.notifyAdmin k c a b).auditSig = s.auditSig := rfl
@[simp] theorem State.notifyAdmin_pkg (s : State) (k c : Nat) (a b : DWord) : (s.notifyAdmin k c a b).pkg = s.pkg := rfl
@[simp] theorem State.notifyAdmin_routes (s : State) (k c : Nat) (a b : DWord) : (s.notifyAdmin k c a b).routes = s.routes := rfl
@[simp] theorem State.notifyAdmin_xoff (s : State) (k c : Nat) (a b : DWord) : (s.notifyAdmin k c a b).xoff = s.xoff := rfl
@[simp] theorem State.notifyAdmin_linkIn (s : State) (k c : Nat) (a b : DWord) : (s.notifyAdmin k c a b).linkIn = s.linkIn := rfl
@[simp] theorem State.notifyAdmin_linkOut (s : State) (k c : Nat) (a b : DWord) : (s.notifyAdmin k c a b).linkOut = s.linkOut := rfl
@[simp] theorem State.notifyAdmin_linkRetries (s : State) (k c : Nat) (a b : DWord) : (s.notifyAdmin k c a b).linkRetries = s.linkRetries := rfl
@[simp] theorem State.notifyAdmin_halves (s : State) (k c : Nat) (a b : DWord) : (s.notifyAdmin k c a b).halves = s.halves := rfl
@[simp] theorem State.notifyAdmin_bridge (s : State) (k c : Nat) (a b : DWord) : (s.notifyAdmin k c a b).bridge = s.bridge := rfl
@[simp] theorem State.notifyAdmin_incarn (s : State) (k c : Nat) (a b : DWord) : (s.notifyAdmin k c a b).incarn = s.incarn := rfl
@[simp] theorem State.notifyAdmin_lost (s : State) (k c : Nat) (a b : DWord) : (s.notifyAdmin k c a b).lost = s.lost := rfl
@[simp] theorem State.notifyAdmin_refusedLog (s : State) (k c : Nat) (a b : DWord) : (s.notifyAdmin k c a b).refusedLog = s.refusedLog := rfl
@[simp] theorem State.notifyAdmin_droppedLog (s : State) (k c : Nat) (a b : DWord) : (s.notifyAdmin k c a b).droppedLog = s.droppedLog := rfl
@[simp] theorem State.notifyAdmin_answer (s : State) (k c : Nat) (a b : DWord) : (s.notifyAdmin k c a b).answer = s.answer := rfl
@[simp] theorem State.notifyAdmin_mail (s : State) (k c : Nat) (a b : DWord) : (s.notifyAdmin k c a b).mail = s.mail := rfl
@[simp] theorem State.notifyAdmin_agenda (s : State) (k c : Nat) (a b : DWord) : (s.notifyAdmin k c a b).agenda = s.agenda := rfl
@[simp] theorem State.notifyAdmin_deferred (s : State) (k c : Nat) (a b : DWord) : (s.notifyAdmin k c a b).deferred = s.deferred := rfl
@[simp] theorem State.notifyAdmin_received (s : State) (k c : Nat) (a b : DWord) : (s.notifyAdmin k c a b).received = s.received := rfl
@[simp] theorem State.notifyAdmin_waiting (s : State) (k c : Nat) (a b : DWord) : (s.notifyAdmin k c a b).waiting = s.waiting := rfl
@[simp] theorem State.notifyAdmin_steps (s : State) (k c : Nat) (a b : DWord) : (s.notifyAdmin k c a b).steps = s.steps := rfl
@[simp] theorem State.notifyAdmin_issuer (s : State) (k c : Nat) (a b : DWord) : (s.notifyAdmin k c a b).issuer = s.issuer := rfl
@[simp] theorem State.notifyAdmin_focus (s : State) (k c : Nat) (a b : DWord) : (s.notifyAdmin k c a b).focus = s.focus := rfl

/-! `latchFault` -/

@[simp] theorem State.latchFault_powered (s : State) (l : Nat) (f : FaultInfo) : (s.latchFault l f).powered = s.powered := rfl
@[simp] theorem State.latchFault_cycle (s : State) (l : Nat) (f : FaultInfo) : (s.latchFault l f).cycle = s.cycle := rfl
@[simp] theorem State.latchFault_beat (s : State) (l : Nat) (f : FaultInfo) : (s.latchFault l f).beat = s.beat := rfl
@[simp] theorem State.latchFault_devready (s : State) (l : Nat) (f : FaultInfo) : (s.latchFault l f).devready = s.devready := rfl
@[simp] theorem State.latchFault_failed (s : State) (l : Nat) (f : FaultInfo) : (s.latchFault l f).failed = s.failed := rfl
@[simp] theorem State.latchFault_bringStep (s : State) (l : Nat) (f : FaultInfo) : (s.latchFault l f).bringStep = s.bringStep := rfl
@[simp] theorem State.latchFault_bringing (s : State) (l : Nat) (f : FaultInfo) : (s.latchFault l f).bringing = s.bringing := rfl
@[simp] theorem State.latchFault_lwidth (s : State) (l : Nat) (f : FaultInfo) : (s.latchFault l f).lwidth = s.lwidth := rfl
@[simp] theorem State.latchFault_lrate (s : State) (l : Nat) (f : FaultInfo) : (s.latchFault l f).lrate = s.lrate := rfl
@[simp] theorem State.latchFault_fports (s : State) (l : Nat) (f : FaultInfo) : (s.latchFault l f).fports = s.fports := rfl
@[simp] theorem State.latchFault_gated (s : State) (l : Nat) (f : FaultInfo) : (s.latchFault l f).gated = s.gated := rfl
@[simp] theorem State.latchFault_thermwarn (s : State) (l : Nat) (f : FaultInfo) : (s.latchFault l f).thermwarn = s.thermwarn := rfl
@[simp] theorem State.latchFault_hotTiers (s : State) (l : Nat) (f : FaultInfo) : (s.latchFault l f).hotTiers = s.hotTiers := rfl
@[simp] theorem State.latchFault_overPower (s : State) (l : Nat) (f : FaultInfo) : (s.latchFault l f).overPower = s.overPower := rfl
@[simp] theorem State.latchFault_tripped (s : State) (l : Nat) (f : FaultInfo) : (s.latchFault l f).tripped = s.tripped := rfl
@[simp] theorem State.latchFault_forbidden (s : State) (l : Nat) (f : FaultInfo) : (s.latchFault l f).forbidden = s.forbidden := rfl
@[simp] theorem State.latchFault_roles (s : State) (l : Nat) (f : FaultInfo) : (s.latchFault l f).roles = s.roles := rfl
@[simp] theorem State.latchFault_roleChange (s : State) (l : Nat) (f : FaultInfo) : (s.latchFault l f).roleChange = s.roleChange := rfl
@[simp] theorem State.latchFault_lastOff (s : State) (l : Nat) (f : FaultInfo) : (s.latchFault l f).lastOff = s.lastOff := rfl
@[simp] theorem State.latchFault_lastCause (s : State) (l : Nat) (f : FaultInfo) : (s.latchFault l f).lastCause = s.lastCause := rfl
@[simp] theorem State.latchFault_parts (s : State) (l : Nat) (f : FaultInfo) : (s.latchFault l f).parts = s.parts := rfl
@[simp] theorem State.latchFault_adminTag (s : State) (l : Nat) (f : FaultInfo) : (s.latchFault l f).adminTag = s.adminTag := rfl
@[simp] theorem State.latchFault_adminStatus (s : State) (l : Nat) (f : FaultInfo) : (s.latchFault l f).adminStatus = s.adminStatus := rfl
@[simp] theorem State.latchFault_adminCount (s : State) (l : Nat) (f : FaultInfo) : (s.latchFault l f).adminCount = s.adminCount := rfl
@[simp] theorem State.latchFault_adminRing (s : State) (l : Nat) (f : FaultInfo) : (s.latchFault l f).adminRing = s.adminRing := rfl
@[simp] theorem State.latchFault_adminHeard (s : State) (l : Nat) (f : FaultInfo) : (s.latchFault l f).adminHeard = s.adminHeard := rfl
@[simp] theorem State.latchFault_fwins (s : State) (l : Nat) (f : FaultInfo) : (s.latchFault l f).fwins = s.fwins := rfl
@[simp] theorem State.latchFault_winLines (s : State) (l : Nat) (f : FaultInfo) : (s.latchFault l f).winLines = s.winLines := rfl
@[simp] theorem State.latchFault_rotAt (s : State) (l : Nat) (f : FaultInfo) : (s.latchFault l f).rotAt = s.rotAt := rfl
@[simp] theorem State.latchFault_images (s : State) (l : Nat) (f : FaultInfo) : (s.latchFault l f).images = s.images := rfl
@[simp] theorem State.latchFault_mem (s : State) (l : Nat) (f : FaultInfo) : (s.latchFault l f).mem = s.mem := rfl
@[simp] theorem State.latchFault_hostMem (s : State) (l : Nat) (f : FaultInfo) : (s.latchFault l f).hostMem = s.hostMem := rfl
@[simp] theorem State.latchFault_peerMem (s : State) (l : Nat) (f : FaultInfo) : (s.latchFault l f).peerMem = s.peerMem := rfl
@[simp] theorem State.latchFault_poison (s : State) (l : Nat) (f : FaultInfo) : (s.latchFault l f).poison = s.poison := rfl
@[simp] theorem State.latchFault_dirty (s : State) (l : Nat) (f : FaultInfo) : (s.latchFault l f).dirty = s.dirty := rfl
@[simp] theorem State.latchFault_recalls (s : State) (l : Nat) (f : FaultInfo) : (s.latchFault l f).recalls = s.recalls := rfl
@[simp] theorem State.latchFault_seq (s : State) (l : Nat) (f : FaultInfo) : (s.latchFault l f).seq = s.seq := rfl
@[simp] theorem State.latchFault_tlb (s : State) (l : Nat) (f : FaultInfo) : (s.latchFault l f).tlb = s.tlb := rfl
@[simp] theorem State.latchFault_contexts (s : State) (l : Nat) (f : FaultInfo) : (s.latchFault l f).contexts = s.contexts := rfl
@[simp] theorem State.latchFault_queues (s : State) (l : Nat) (f : FaultInfo) : (s.latchFault l f).queues = s.queues := rfl
@[simp] theorem State.latchFault_slots (s : State) (l : Nat) (f : FaultInfo) : (s.latchFault l f).slots = s.slots := rfl
@[simp] theorem State.latchFault_nextLaunch (s : State) (l : Nat) (f : FaultInfo) : (s.latchFault l f).nextLaunch = s.nextLaunch := rfl
@[simp] theorem State.latchFault_ops (s : State) (l : Nat) (f : FaultInfo) : (s.latchFault l f).ops = s.ops := rfl
@[simp] theorem State.latchFault_nextOp (s : State) (l : Nat) (f : FaultInfo) : (s.latchFault l f).nextOp = s.nextOp := rfl
@[simp] theorem State.latchFault_engines (s : State) (l : Nat) (f : FaultInfo) : (s.latchFault l f).engines = s.engines := rfl
@[simp] theorem State.latchFault_runs (s : State) (l : Nat) (f : FaultInfo) : (s.latchFault l f).runs = s.runs := rfl
@[simp] theorem State.latchFault_nextRun (s : State) (l : Nat) (f : FaultInfo) : (s.latchFault l f).nextRun = s.nextRun := rfl
@[simp] theorem State.latchFault_nbStore (s : State) (l : Nat) (f : FaultInfo) : (s.latchFault l f).nbStore = s.nbStore := rfl
@[simp] theorem State.latchFault_splits (s : State) (l : Nat) (f : FaultInfo) : (s.latchFault l f).splits = s.splits := rfl
@[simp] theorem State.latchFault_roll (s : State) (l : Nat) (f : FaultInfo) : (s.latchFault l f).roll = s.roll := rfl
@[simp] theorem State.latchFault_meas (s : State) (l : Nat) (f : FaultInfo) : (s.latchFault l f).meas = s.meas := rfl
@[simp] theorem State.latchFault_spdm (s : State) (l : Nat) (f : FaultInfo) : (s.latchFault l f).spdm = s.spdm := rfl
@[simp] theorem State.latchFault_auditSig (s : State) (l : Nat) (f : FaultInfo) : (s.latchFault l f).auditSig = s.auditSig := rfl
@[simp] theorem State.latchFault_pkg (s : State) (l : Nat) (f : FaultInfo) : (s.latchFault l f).pkg = s.pkg := rfl
@[simp] theorem State.latchFault_routes (s : State) (l : Nat) (f : FaultInfo) : (s.latchFault l f).routes = s.routes := rfl
@[simp] theorem State.latchFault_xoff (s : State) (l : Nat) (f : FaultInfo) : (s.latchFault l f).xoff = s.xoff := rfl
@[simp] theorem State.latchFault_linkIn (s : State) (l : Nat) (f : FaultInfo) : (s.latchFault l f).linkIn = s.linkIn := rfl
@[simp] theorem State.latchFault_linkOut (s : State) (l : Nat) (f : FaultInfo) : (s.latchFault l f).linkOut = s.linkOut := rfl
@[simp] theorem State.latchFault_linkRetries (s : State) (l : Nat) (f : FaultInfo) : (s.latchFault l f).linkRetries = s.linkRetries := rfl
@[simp] theorem State.latchFault_halves (s : State) (l : Nat) (f : FaultInfo) : (s.latchFault l f).halves = s.halves := rfl
@[simp] theorem State.latchFault_bridge (s : State) (l : Nat) (f : FaultInfo) : (s.latchFault l f).bridge = s.bridge := rfl
@[simp] theorem State.latchFault_incarn (s : State) (l : Nat) (f : FaultInfo) : (s.latchFault l f).incarn = s.incarn := rfl
@[simp] theorem State.latchFault_lost (s : State) (l : Nat) (f : FaultInfo) : (s.latchFault l f).lost = s.lost := rfl
@[simp] theorem State.latchFault_refusedLog (s : State) (l : Nat) (f : FaultInfo) : (s.latchFault l f).refusedLog = s.refusedLog := rfl
@[simp] theorem State.latchFault_droppedLog (s : State) (l : Nat) (f : FaultInfo) : (s.latchFault l f).droppedLog = s.droppedLog := rfl
@[simp] theorem State.latchFault_answer (s : State) (l : Nat) (f : FaultInfo) : (s.latchFault l f).answer = s.answer := rfl
@[simp] theorem State.latchFault_mail (s : State) (l : Nat) (f : FaultInfo) : (s.latchFault l f).mail = s.mail := rfl
@[simp] theorem State.latchFault_agenda (s : State) (l : Nat) (f : FaultInfo) : (s.latchFault l f).agenda = s.agenda := rfl
@[simp] theorem State.latchFault_deferred (s : State) (l : Nat) (f : FaultInfo) : (s.latchFault l f).deferred = s.deferred := rfl
@[simp] theorem State.latchFault_received (s : State) (l : Nat) (f : FaultInfo) : (s.latchFault l f).received = s.received := rfl
@[simp] theorem State.latchFault_waiting (s : State) (l : Nat) (f : FaultInfo) : (s.latchFault l f).waiting = s.waiting := rfl
@[simp] theorem State.latchFault_steps (s : State) (l : Nat) (f : FaultInfo) : (s.latchFault l f).steps = s.steps := rfl
@[simp] theorem State.latchFault_issuer (s : State) (l : Nat) (f : FaultInfo) : (s.latchFault l f).issuer = s.issuer := rfl
@[simp] theorem State.latchFault_focus (s : State) (l : Nat) (f : FaultInfo) : (s.latchFault l f).focus = s.focus := rfl

/-! `hold` -/

@[simp] theorem State.hold_powered (s : State) : (s.hold).powered = s.powered := rfl
@[simp] theorem State.hold_cycle (s : State) : (s.hold).cycle = s.cycle := rfl
@[simp] theorem State.hold_beat (s : State) : (s.hold).beat = s.beat := rfl
@[simp] theorem State.hold_devready (s : State) : (s.hold).devready = s.devready := rfl
@[simp] theorem State.hold_failed (s : State) : (s.hold).failed = s.failed := rfl
@[simp] theorem State.hold_bringStep (s : State) : (s.hold).bringStep = s.bringStep := rfl
@[simp] theorem State.hold_bringing (s : State) : (s.hold).bringing = s.bringing := rfl
@[simp] theorem State.hold_lwidth (s : State) : (s.hold).lwidth = s.lwidth := rfl
@[simp] theorem State.hold_lrate (s : State) : (s.hold).lrate = s.lrate := rfl
@[simp] theorem State.hold_fports (s : State) : (s.hold).fports = s.fports := rfl
@[simp] theorem State.hold_gated (s : State) : (s.hold).gated = s.gated := rfl
@[simp] theorem State.hold_thermwarn (s : State) : (s.hold).thermwarn = s.thermwarn := rfl
@[simp] theorem State.hold_hotTiers (s : State) : (s.hold).hotTiers = s.hotTiers := rfl
@[simp] theorem State.hold_overPower (s : State) : (s.hold).overPower = s.overPower := rfl
@[simp] theorem State.hold_tripped (s : State) : (s.hold).tripped = s.tripped := rfl
@[simp] theorem State.hold_forbidden (s : State) : (s.hold).forbidden = s.forbidden := rfl
@[simp] theorem State.hold_roles (s : State) : (s.hold).roles = s.roles := rfl
@[simp] theorem State.hold_roleChange (s : State) : (s.hold).roleChange = s.roleChange := rfl
@[simp] theorem State.hold_lastOff (s : State) : (s.hold).lastOff = s.lastOff := rfl
@[simp] theorem State.hold_lastCause (s : State) : (s.hold).lastCause = s.lastCause := rfl
@[simp] theorem State.hold_parts (s : State) : (s.hold).parts = s.parts := rfl
@[simp] theorem State.hold_adminTag (s : State) : (s.hold).adminTag = s.adminTag := rfl
@[simp] theorem State.hold_adminStatus (s : State) : (s.hold).adminStatus = s.adminStatus := rfl
@[simp] theorem State.hold_adminCount (s : State) : (s.hold).adminCount = s.adminCount := rfl
@[simp] theorem State.hold_adminRing (s : State) : (s.hold).adminRing = s.adminRing := rfl
@[simp] theorem State.hold_adminHeard (s : State) : (s.hold).adminHeard = s.adminHeard := rfl
@[simp] theorem State.hold_fwins (s : State) : (s.hold).fwins = s.fwins := rfl
@[simp] theorem State.hold_winLines (s : State) : (s.hold).winLines = s.winLines := rfl
@[simp] theorem State.hold_rotAt (s : State) : (s.hold).rotAt = s.rotAt := rfl
@[simp] theorem State.hold_images (s : State) : (s.hold).images = s.images := rfl
@[simp] theorem State.hold_mem (s : State) : (s.hold).mem = s.mem := rfl
@[simp] theorem State.hold_hostMem (s : State) : (s.hold).hostMem = s.hostMem := rfl
@[simp] theorem State.hold_peerMem (s : State) : (s.hold).peerMem = s.peerMem := rfl
@[simp] theorem State.hold_poison (s : State) : (s.hold).poison = s.poison := rfl
@[simp] theorem State.hold_dirty (s : State) : (s.hold).dirty = s.dirty := rfl
@[simp] theorem State.hold_recalls (s : State) : (s.hold).recalls = s.recalls := rfl
@[simp] theorem State.hold_seq (s : State) : (s.hold).seq = s.seq := rfl
@[simp] theorem State.hold_tlb (s : State) : (s.hold).tlb = s.tlb := rfl
@[simp] theorem State.hold_contexts (s : State) : (s.hold).contexts = s.contexts := rfl
@[simp] theorem State.hold_queues (s : State) : (s.hold).queues = s.queues := rfl
@[simp] theorem State.hold_slots (s : State) : (s.hold).slots = s.slots := rfl
@[simp] theorem State.hold_launches (s : State) : (s.hold).launches = s.launches := rfl
@[simp] theorem State.hold_nextLaunch (s : State) : (s.hold).nextLaunch = s.nextLaunch := rfl
@[simp] theorem State.hold_ops (s : State) : (s.hold).ops = s.ops := rfl
@[simp] theorem State.hold_nextOp (s : State) : (s.hold).nextOp = s.nextOp := rfl
@[simp] theorem State.hold_engines (s : State) : (s.hold).engines = s.engines := rfl
@[simp] theorem State.hold_runs (s : State) : (s.hold).runs = s.runs := rfl
@[simp] theorem State.hold_nextRun (s : State) : (s.hold).nextRun = s.nextRun := rfl
@[simp] theorem State.hold_nbStore (s : State) : (s.hold).nbStore = s.nbStore := rfl
@[simp] theorem State.hold_splits (s : State) : (s.hold).splits = s.splits := rfl
@[simp] theorem State.hold_roll (s : State) : (s.hold).roll = s.roll := rfl
@[simp] theorem State.hold_meas (s : State) : (s.hold).meas = s.meas := rfl
@[simp] theorem State.hold_spdm (s : State) : (s.hold).spdm = s.spdm := rfl
@[simp] theorem State.hold_auditSig (s : State) : (s.hold).auditSig = s.auditSig := rfl
@[simp] theorem State.hold_pkg (s : State) : (s.hold).pkg = s.pkg := rfl
@[simp] theorem State.hold_routes (s : State) : (s.hold).routes = s.routes := rfl
@[simp] theorem State.hold_xoff (s : State) : (s.hold).xoff = s.xoff := rfl
@[simp] theorem State.hold_linkIn (s : State) : (s.hold).linkIn = s.linkIn := rfl
@[simp] theorem State.hold_linkOut (s : State) : (s.hold).linkOut = s.linkOut := rfl
@[simp] theorem State.hold_linkRetries (s : State) : (s.hold).linkRetries = s.linkRetries := rfl
@[simp] theorem State.hold_halves (s : State) : (s.hold).halves = s.halves := rfl
@[simp] theorem State.hold_bridge (s : State) : (s.hold).bridge = s.bridge := rfl
@[simp] theorem State.hold_incarn (s : State) : (s.hold).incarn = s.incarn := rfl
@[simp] theorem State.hold_lost (s : State) : (s.hold).lost = s.lost := rfl
@[simp] theorem State.hold_refusedLog (s : State) : (s.hold).refusedLog = s.refusedLog := rfl
@[simp] theorem State.hold_droppedLog (s : State) : (s.hold).droppedLog = s.droppedLog := rfl
@[simp] theorem State.hold_answer (s : State) : (s.hold).answer = s.answer := rfl
@[simp] theorem State.hold_mail (s : State) : (s.hold).mail = s.mail := rfl
@[simp] theorem State.hold_agenda (s : State) : (s.hold).agenda = s.agenda := rfl
@[simp] theorem State.hold_deferred (s : State) : (s.hold).deferred = s.deferred := rfl
@[simp] theorem State.hold_received (s : State) : (s.hold).received = s.received := rfl
@[simp] theorem State.hold_steps (s : State) : (s.hold).steps = s.steps := rfl
@[simp] theorem State.hold_issuer (s : State) : (s.hold).issuer = s.issuer := rfl
@[simp] theorem State.hold_focus (s : State) : (s.hold).focus = s.focus := rfl

/-! `unissued` -/

@[simp] theorem State.unissued_powered (s : State) : (s.unissued).powered = s.powered := rfl
@[simp] theorem State.unissued_cycle (s : State) : (s.unissued).cycle = s.cycle := rfl
@[simp] theorem State.unissued_beat (s : State) : (s.unissued).beat = s.beat := rfl
@[simp] theorem State.unissued_devready (s : State) : (s.unissued).devready = s.devready := rfl
@[simp] theorem State.unissued_failed (s : State) : (s.unissued).failed = s.failed := rfl
@[simp] theorem State.unissued_bringStep (s : State) : (s.unissued).bringStep = s.bringStep := rfl
@[simp] theorem State.unissued_bringing (s : State) : (s.unissued).bringing = s.bringing := rfl
@[simp] theorem State.unissued_lwidth (s : State) : (s.unissued).lwidth = s.lwidth := rfl
@[simp] theorem State.unissued_lrate (s : State) : (s.unissued).lrate = s.lrate := rfl
@[simp] theorem State.unissued_fports (s : State) : (s.unissued).fports = s.fports := rfl
@[simp] theorem State.unissued_gated (s : State) : (s.unissued).gated = s.gated := rfl
@[simp] theorem State.unissued_thermwarn (s : State) : (s.unissued).thermwarn = s.thermwarn := rfl
@[simp] theorem State.unissued_hotTiers (s : State) : (s.unissued).hotTiers = s.hotTiers := rfl
@[simp] theorem State.unissued_overPower (s : State) : (s.unissued).overPower = s.overPower := rfl
@[simp] theorem State.unissued_tripped (s : State) : (s.unissued).tripped = s.tripped := rfl
@[simp] theorem State.unissued_forbidden (s : State) : (s.unissued).forbidden = s.forbidden := rfl
@[simp] theorem State.unissued_roles (s : State) : (s.unissued).roles = s.roles := rfl
@[simp] theorem State.unissued_roleChange (s : State) : (s.unissued).roleChange = s.roleChange := rfl
@[simp] theorem State.unissued_lastOff (s : State) : (s.unissued).lastOff = s.lastOff := rfl
@[simp] theorem State.unissued_lastCause (s : State) : (s.unissued).lastCause = s.lastCause := rfl
@[simp] theorem State.unissued_parts (s : State) : (s.unissued).parts = s.parts := rfl
@[simp] theorem State.unissued_adminTag (s : State) : (s.unissued).adminTag = s.adminTag := rfl
@[simp] theorem State.unissued_adminStatus (s : State) : (s.unissued).adminStatus = s.adminStatus := rfl
@[simp] theorem State.unissued_adminCount (s : State) : (s.unissued).adminCount = s.adminCount := rfl
@[simp] theorem State.unissued_adminRing (s : State) : (s.unissued).adminRing = s.adminRing := rfl
@[simp] theorem State.unissued_adminHeard (s : State) : (s.unissued).adminHeard = s.adminHeard := rfl
@[simp] theorem State.unissued_fwins (s : State) : (s.unissued).fwins = s.fwins := rfl
@[simp] theorem State.unissued_winLines (s : State) : (s.unissued).winLines = s.winLines := rfl
@[simp] theorem State.unissued_rotAt (s : State) : (s.unissued).rotAt = s.rotAt := rfl
@[simp] theorem State.unissued_images (s : State) : (s.unissued).images = s.images := rfl
@[simp] theorem State.unissued_mem (s : State) : (s.unissued).mem = s.mem := rfl
@[simp] theorem State.unissued_hostMem (s : State) : (s.unissued).hostMem = s.hostMem := rfl
@[simp] theorem State.unissued_peerMem (s : State) : (s.unissued).peerMem = s.peerMem := rfl
@[simp] theorem State.unissued_poison (s : State) : (s.unissued).poison = s.poison := rfl
@[simp] theorem State.unissued_dirty (s : State) : (s.unissued).dirty = s.dirty := rfl
@[simp] theorem State.unissued_recalls (s : State) : (s.unissued).recalls = s.recalls := rfl
@[simp] theorem State.unissued_seq (s : State) : (s.unissued).seq = s.seq := rfl
@[simp] theorem State.unissued_tlb (s : State) : (s.unissued).tlb = s.tlb := rfl
@[simp] theorem State.unissued_contexts (s : State) : (s.unissued).contexts = s.contexts := rfl
@[simp] theorem State.unissued_queues (s : State) : (s.unissued).queues = s.queues := rfl
@[simp] theorem State.unissued_slots (s : State) : (s.unissued).slots = s.slots := rfl
@[simp] theorem State.unissued_launches (s : State) : (s.unissued).launches = s.launches := rfl
@[simp] theorem State.unissued_nextLaunch (s : State) : (s.unissued).nextLaunch = s.nextLaunch := rfl
@[simp] theorem State.unissued_ops (s : State) : (s.unissued).ops = s.ops := rfl
@[simp] theorem State.unissued_nextOp (s : State) : (s.unissued).nextOp = s.nextOp := rfl
@[simp] theorem State.unissued_engines (s : State) : (s.unissued).engines = s.engines := rfl
@[simp] theorem State.unissued_runs (s : State) : (s.unissued).runs = s.runs := rfl
@[simp] theorem State.unissued_nextRun (s : State) : (s.unissued).nextRun = s.nextRun := rfl
@[simp] theorem State.unissued_nbStore (s : State) : (s.unissued).nbStore = s.nbStore := rfl
@[simp] theorem State.unissued_splits (s : State) : (s.unissued).splits = s.splits := rfl
@[simp] theorem State.unissued_roll (s : State) : (s.unissued).roll = s.roll := rfl
@[simp] theorem State.unissued_meas (s : State) : (s.unissued).meas = s.meas := rfl
@[simp] theorem State.unissued_spdm (s : State) : (s.unissued).spdm = s.spdm := rfl
@[simp] theorem State.unissued_auditSig (s : State) : (s.unissued).auditSig = s.auditSig := rfl
@[simp] theorem State.unissued_pkg (s : State) : (s.unissued).pkg = s.pkg := rfl
@[simp] theorem State.unissued_routes (s : State) : (s.unissued).routes = s.routes := rfl
@[simp] theorem State.unissued_xoff (s : State) : (s.unissued).xoff = s.xoff := rfl
@[simp] theorem State.unissued_linkIn (s : State) : (s.unissued).linkIn = s.linkIn := rfl
@[simp] theorem State.unissued_linkOut (s : State) : (s.unissued).linkOut = s.linkOut := rfl
@[simp] theorem State.unissued_linkRetries (s : State) : (s.unissued).linkRetries = s.linkRetries := rfl
@[simp] theorem State.unissued_halves (s : State) : (s.unissued).halves = s.halves := rfl
@[simp] theorem State.unissued_bridge (s : State) : (s.unissued).bridge = s.bridge := rfl
@[simp] theorem State.unissued_incarn (s : State) : (s.unissued).incarn = s.incarn := rfl
@[simp] theorem State.unissued_lost (s : State) : (s.unissued).lost = s.lost := rfl
@[simp] theorem State.unissued_refusedLog (s : State) : (s.unissued).refusedLog = s.refusedLog := rfl
@[simp] theorem State.unissued_droppedLog (s : State) : (s.unissued).droppedLog = s.droppedLog := rfl
@[simp] theorem State.unissued_answer (s : State) : (s.unissued).answer = s.answer := rfl
@[simp] theorem State.unissued_mail (s : State) : (s.unissued).mail = s.mail := rfl
@[simp] theorem State.unissued_agenda (s : State) : (s.unissued).agenda = s.agenda := rfl
@[simp] theorem State.unissued_deferred (s : State) : (s.unissued).deferred = s.deferred := rfl
@[simp] theorem State.unissued_received (s : State) : (s.unissued).received = s.received := rfl
@[simp] theorem State.unissued_waiting (s : State) : (s.unissued).waiting = s.waiting := rfl
@[simp] theorem State.unissued_steps (s : State) : (s.unissued).steps = s.steps := rfl
@[simp] theorem State.unissued_focus (s : State) : (s.unissued).focus = s.focus := rfl

end Sys2Proof.Machine
end

