-- ==== Sys2Proof/Tests/Slice0.lean ====
section
/-! SUPPORT. The model's own tests: ill-formed instructions refused, words that decode to their instructions, single steps, and
for each obligation a state and operands that meet its hypotheses. -/

open Sys2Proof Sys2Proof.Machine

namespace Sys2Proof.Tests

set_option Elab.async false

/-! ### Operands -/

/-- Always, and predicate 1 negated. -/
def gT : Guard := ⟨7, false⟩
def gN : Guard := ⟨1, true⟩

def mods (ty : Ty) (sub : Fin 16) : Mods := ⟨ty, .rne, false, false, false, false, false, false, sub⟩

def lane (d a b c : Fin 224) (ty : Ty) (sub : Fin 16) : LaneArgs :=
  { g := gN, d := .v d, a := .v a, b := .v b, c := .v c, m := mods ty sub }

/-! ### Decoding (R41 to R62, R69, R72, R75, R159, R233, R368) -/

/-- The table's numbering of the words decodes to the instruction. -/
def decodes (p : Nat × Nat × Instr) : Bool := decodeTableWord p.1 p.2.1 == some p.2.2

/-- Words of the integer instructions, from the encoding tables. -/
def words_integer : List (Nat × Nat × Instr) :=
  [(64, 0x0010_4080_C009_C000, .iadd (lane 4 8 12 0 .u8x4 0)),
   (64, 0x0020_4080_C009_B000, .isub (lane 4 8 12 0 .i16x2 0)),
   (64, 0x0030_4080_C009_0000, .imul (lane 4 8 12 0 .u32 0)),
   (64, 0x0040_4080_C009_1000, .imulh (lane 4 8 12 0 .i32 0)),
   (64, 0x0050_4080_C109_0001, .imad (lane 4 8 12 16 .u32 1)),
   (64, 0x0060_4080_C009_3000, .idiv (lane 4 8 12 0 .i64 0)),
   (64, 0x0070_4080_C009_2000, .irem (lane 4 8 12 0 .u64 0)),
   (64, 0x0080_4080_C009_D000, .imin (lane 4 8 12 0 .i8x4 0)),
   (64, 0x0090_4080_C009_A000, .imax (lane 4 8 12 0 .u16x2 0)),
   (64, 0x00A0_4080_0009_3000, .iabs (lane 4 8 0 0 .i64 0)),
   (64, 0x00B0_4080_C009_2000, .iadd64 (lane 4 8 12 0 .u64 0)),
   (64, 0x00C0_4080_C009_3000, .isub64 (lane 4 8 12 0 .i64 0)),
   (64, 0x00D0_4080_C009_0007, .lea (lane 4 8 12 0 .u32 7)),
   (64, 0x0100_4080_C009_2000, .and (lane 4 8 12 0 .u64 0)),
   (64, 0x0110_4080_C009_0000, .or (lane 4 8 12 0 .u32 0)),
   (64, 0x0120_4080_C009_0000, .xor (lane 4 8 12 0 .u32 0)),
   (64, 0x0140_4080_D009_2000, .shl (lane 4 8 13 0 .u64 0)),
   (64, 0x0150_4080_D009_1000, .shr (lane 4 8 13 0 .i32 0)),
   (64, 0x0160_4080_C109_0001, .shw (lane 4 8 12 16 .u32 1)),
   (64, 0x0170_4080_0009_2000, .popc (lane 4 8 0 0 .u64 0)),
   (64, 0x0180_4080_0009_0000, .clz (lane 4 8 0 0 .u32 0)),
   (64, 0x0190_4080_0009_0000, .brev (lane 4 8 0 0 .u32 0)),
   (64, 0x01A0_4080_C009_1000, .bfe (lane 4 8 12 0 .i32 0)),
   (64, 0x01B0_4080_C109_0000, .bfi (lane 4 8 12 16 .u32 0)),
   (64, 0x01C0_4080_C109_0000, .bpick (lane 4 8 12 16 .u32 0)),
   (64, 0x01E0_4080_0009_2000, .mov (lane 4 8 0 0 .u64 0)),
   (64, 0x00E0_5080_C0B9_1085, .isetp { g := gN, pd := 5, a := .v 8, b := .v 12, pc := ⟨3, true⟩, m := { mods .i32 5 with na := true } }),
   (64, 0x00F0_5080_C039_2002, .isetp64 { g := gN, pd := 5, a := .v 8, b := .v 12, pc := ⟨3, false⟩, m := mods .u64 2 }),
   (64, 0x0130_4080_C109_00E8, .tlog { g := gN, d := .v 4, a := .v 8, b := .v 12, c := .v 16, tt := 0xE8 }),
   (64, 0x01D0_4080_C0B9_0000, .sel { g := gN, d := .v 4, a := .v 8, b := .v 12, pc := ⟨3, true⟩, m := mods .u32 0 }),
   (64, 0x01F0_6010_A039_0096, .plog { g := gN, pd := 6, pa := ⟨1, false⟩, pb := ⟨2, true⟩, pc := ⟨3, false⟩, tt := 0x96 }),
   (64, 0x0200_4009_89AB_CDEF, .movi { g := gN, d := .v 4, a := .v 0, imm := 0x89ABCDEF }),
   (64, 0x0210_4089_89AB_CDEF, .iaddi { g := gN, d := .v 4, a := .v 8, imm := 0x89ABCDEF }),
   (64, 0x0220_4089_89AB_CDEF, .andi { g := gN, d := .v 4, a := .v 8, imm := 0x89ABCDEF }),
   (64, 0x0230_4089_89AB_CDEF, .ori { g := gN, d := .v 4, a := .v 8, imm := 0x89ABCDEF }),
   (64, 0x0240_4089_89AB_CDEF, .xori { g := gN, d := .v 4, a := .v 8, imm := 0x89ABCDEF }),
   (64, 0x0250_5089_3FFF_FFFB, .isetpi { g := gN, pd := 5, a := .v 8, cond := 3, signed := true, imm := 0x7FFFFFB }),
   (128, 0xC000_0000_0123_4567_826E_4009_89AB_CDEF, .movw { g := gN, d := .s 4, imm := 0x0123456789ABCDEF }),
   (64, 0x027E_4000_E009_0000, .sread { g := gN, d := .s 4, sel := 0x0E })]

theorem test_decode_integer : words_integer.all decodes = true := by decide +kernel

/-- Words of the floating instructions, from the encoding tables. -/
def words_floating : List (Nat × Nat × Instr) :=
  [(64, 0x0800_4080_C009_4000, .fadd (lane 4 8 12 0 .f32 0)),
   (64, 0x0810_4080_C009_5000, .fsub (lane 4 8 12 0 .f64 0)),
   (64, 0x0820_4080_C009_8000, .fmul (lane 4 8 12 0 .f8e4x4 0)),
   (64, 0x0830_4080_C109_6000, .ffma (lane 4 8 12 16 .f16x2 0)),
   (64, 0x0840_4080_C009_7000, .fmin (lane 4 8 12 0 .bf16x2 0)),
   (64, 0x0850_4080_C009_9000, .fmax (lane 4 8 12 0 .f8e5x4 0)),
   (64, 0x0870_4080_0009_5000, .fclass (lane 4 8 0 0 .f64 0)),
   (64, 0x0880_4080_C009_4000, .fdiv (lane 4 8 12 0 .f32 0)),
   (64, 0x0890_4080_0009_4000, .fsqrt (lane 4 8 0 0 .f32 0)),
   (64, 0x08A0_4080_0009_5000, .frcp (lane 4 8 0 0 .f64 0)),
   (64, 0x08B0_4080_0009_4000, .frsq (lane 4 8 0 0 .f32 0)),
   (64, 0x08C0_4080_0009_4000, .fex2 (lane 4 8 0 0 .f32 0)),
   (64, 0x08D0_4080_0009_4000, .flg2 (lane 4 8 0 0 .f32 0)),
   (64, 0x08E0_4080_0009_4000, .fsin (lane 4 8 0 0 .f32 0)),
   (64, 0x08F0_4080_0009_4000, .fcos (lane 4 8 0 0 .f32 0)),
   (64, 0x0860_5080_C039_500D, .fsetp { g := gN, pd := 5, a := .v 8, b := .v 12, pc := ⟨3, false⟩, m := mods .f64 13 }),
   (64, 0x0930_4000_0009_0000, .flagrd { g := gN, r := .v 4 }),
   (64, 0x0940_0E50_0009_0000, .flagclr { g := gN, r := .s 5 }),
   (128, 0xC011_2FFF_FFFF_FFFC_8910_A010_2030_0924, .expr { g := gN, d := .v 10, a := .v 1, b := .v 2, c := .v 3, e := .v 0, ty := .f32, rm := .rup, nt := 4, toks := [0, 1, 2, 11, 31, 31, 31, 31, 31, 31, 31, 31] })]

theorem test_decode_floating : words_floating.all decodes = true := by decide +kernel

/-- Words of the convert instructions, from the encoding tables. -/
def words_convert : List (Nat × Nat × Instr) :=
  [(64, 0x1000_4080_0019_6604, .cvt { g := gN, d := .v 4, a := .v 8, k := 1, dst := .f16x2, src := .f32, rm := .rtz, sat := true }),
   (64, 0x1010_4080_0009_5000, .frnd (lane 4 8 0 0 .f64 0)),
   (64, 0x1020_4080_0009_C003, .pack (lane 4 8 0 0 .u8x4 3)),
   (64, 0x1030_4080_0009_B001, .unpk (lane 4 8 0 0 .i16x2 1)),
   (64, 0x1040_4000_0009_0000, .rgtr (lane 4 0 0 0 .u32 0))]

theorem test_decode_convert : words_convert.all decodes = true := by decide +kernel

/-- Words of the cross-lane instructions, from the encoding tables. -/
def words_cross_lane : List (Nat × Nat × Instr) :=
  [(64, 0x1400_4080_D009_2003, .xlane (lane 4 8 13 0 .u64 3)),
   (64, 0x1410_60A0_0009_0002, .poll { g := gN, d := .v 6, pa := ⟨2, true⟩, mode := 2 }),
   (64, 0x1420_4080_0009_4000, .wred (lane 4 8 0 0 .f32 0)),
   (64, 0x1430_4080_0009_0005, .wscan (lane 4 8 0 0 .u32 5)),
   (64, 0x1440_4080_0009_2000, .eqm (lane 4 8 0 0 .u64 0)),
   (64, 0x1450_408E_5009_0000, .rdlane { lane 4 8 0 0 .u32 0 with b := .s 5 })]

theorem test_decode_cross_lane : words_cross_lane.all decodes = true := by decide +kernel

/-- Words of the memory instructions, from the encoding tables. -/
def words_memory : List (Nat × Nat × Instr) :=
  [(64, 0x1800_8E40_0129_3A34, .ld { g := gN, data := .v 8, addr := .s 4, off := 0x1234, sz := 1, sx := true, hint := 2, col := true }),
   (64, 0x1810_0E40_8FF9_8EF8, .st { g := gN, data := .v 8, addr := .s 4, off := 0xFFF8, sz := 4, sx := false, hint := 3, col := true }),
   (64, 0x1820_8E50_0129_4034, .lds { g := gN, data := .v 8, addr := .s 5, off := 0x1234, sz := 2, sx := false, hint := 0, col := false }),
   (64, 0x1830_0E50_8809_6001, .sts { g := gN, data := .v 8, addr := .s 5, off := 0x8001, sz := 3, sx := false, hint := 0, col := false }),
   (64, 0x1840_4E40_CF89_0623, .atom { g := gN, d := .v 4, a := .s 4, b := .v 12, off := 0xF8, hint := 1, col := true, op := .max, ty := .i64 }),
   (64, 0x1850_4E50_CF89_0064, .atoms { g := gN, d := .v 4, a := .s 5, b := .v 12, off := 0xF8, hint := 0, col := false, op := .exch, ty := .f32 }),
   (64, 0x1860_0E40_CF89_0050, .red { g := gN, d := .v 0, a := .s 4, b := .v 12, off := 0xF8, hint := 0, col := false, op := .xor, ty := .u32 }),
   (64, 0x1870_4080_C109_6800, .cas { g := gN, d := .v 4, a := .v 8, b := .v 12, c := .v 16, sz := 3, hint := 2 }),
   (64, 0x1880_5080_C009_8000, .enq { g := gN, pd := 5, a := .v 8, data := .v 12, sz := 4 }),
   (64, 0x1890_C080_0059_4000, .deq { g := gN, pd := 5, a := .v 8, data := .v 12, sz := 2 }),
   (64, 0x18A0_4080_0009_0000, .pgenum { g := gN, d := .v 4, a := .v 8 }),
   (64, 0x18B0_5080_0009_0000, .pgstat { g := gN, pd := 5, a := .v 8, b := .v 0 }),
   (64, 0x18C0_0080_0009_0000, .pgreset { g := gN, r := .v 8 }),
   (64, 0x18D0_0E40_0009_0000, .regsweep { g := gN, r := .s 4 }),
   (64, 0x18E0_0E40_0129_0434, .prefetch { g := gN, data := .v 0, addr := .s 4, off := 0x1234, sz := 0, sx := false, hint := 1, col := false }),
   (64, 0x18F0_0E40_0129_0034, .lnflush { g := gN, data := .v 0, addr := .s 4, off := 0x1234, sz := 0, sx := false, hint := 0, col := false })]

theorem test_decode_memory : words_memory.all decodes = true := by decide +kernel

/-- Words of the ordering and asynchrony instructions, from the encoding tables. -/
def words_async : List (Nat × Nat × Instr) :=
  [(64, 0x2000_0000_0009_0000, .chunk gN),
   (64, 0x2020_0000_0009_0000, .txend gN),
   (64, 0x2040_0000_0009_0000, .settle gN),
   (64, 0x2050_0000_0009_0000, .beat gN),
   (64, 0x2010_0009_FFFF_FFF0, .txbegin { g := gN, imm := 0xFFFFFFF0 }),
   (64, 0x2030_0000_0009_00A5, .txabort { g := gN, code := 0xA5 }),
   (128, 0xFA3B_3000_0000_0000_A402_6E4E_6EA0_09C0, .copy { g := gN, h := 2, xf := 6, sa := .s 4, da := .s 6, gr := .s 10, pr := .v 0, ssp := true, dsp := true, col := false, ra := .s 8, aw := .s 12, hint := 3 }),
   (64, 0x2410_0090_0059_0001, .hwait { g := gN, h := 9, pw := true, pd := ⟨5, false⟩ }),
   (64, 0x2420_5090_0009_0000, .htest { g := gN, pd := 5, h := 9 }),
   (64, 0x2430_0090_0009_0000, .hcancel { g := gN, h := 9, r := .v 0 }),
   (64, 0x244E_5090_0009_0000, .htok { g := gN, h := 9, r := .s 5 }),
   (64, 0x2450_900E_5009_0000, .hadopt { g := gN, h := 9, r := .s 5 }),
   (64, 0x2460_0E4E_5009_0000, .awinit { g := gN, d := .s 4, a := .s 5 }),
   (64, 0x2470_0E4E_5009_0000, .arrive { g := gN, d := .s 4, a := .s 5 }),
   (64, 0x2480_0E4E_5009_0000, .await { g := gN, d := .s 4, a := .s 5 }),
   (64, 0x2490_9E40_0009_0000, .nbrun { g := gN, h := 9, r := .s 4 }),
   (64, 0x24A0_0E4E_7009_0000, .nbload { g := gN, d := .s 4, a := .s 7 }),
   (64, 0x24B0_5E40_0009_0000, .stepopen { g := gN, pd := 5, a := .s 4, b := .v 0 }),
   (64, 0x24C0_5E4E_7009_0000, .stepend { g := gN, pd := 5, a := .s 4, b := .s 7 }),
   (64, 0x24D0_9E40_0009_0000, .coll { g := gN, h := 9, r := .s 4 })]

theorem test_decode_async : words_async.all decodes = true := by decide +kernel

/-- Words of the matrix instructions, from the encoding tables. -/
def words_matrix : List (Nat × Nat × Instr) :=
  [(64, 0x2800_0008_1409_0003, .gang { g := gN, mask := 0x40810003 }),
   (128, 0xE555_E091_8000_0000_A81D_7E4E_5E6E_79AA, .mma { g := gN, dt := 13, h := 7, ar := .s 4, br := .s 5, sa := .s 6, sb := .s 7, ovw := true, asrc := false, ks := 0x2A, fa := .f8e4, fb := .f8e5, asat := false, pa := 0xABC, pb := 0x123 }),
   (64, 0x2820_0000_0009_8001, .accz { g := gN, mask := 0x8001 }),
   (64, 0x2830_7E40_D009_2155, .accld { g := gN, h := 7, a := .s 4, tile := 13, fmt := .acc96, rm := .rne, sat := false, pitch := 0x155 }),
   (64, 0x2840_7E40_D009_4E55, .accst { g := gN, h := 7, a := .s 4, tile := 13, fmt := .fp16, rm := .rdn, sat := true, pitch := 0x055 }),
   (64, 0x2850_40DE_5009_5600, .accrd { g := gN, d := .v 4, tile := 13, b := .s 5, f64 := true, rm := .rtz, sat := true })]

theorem test_decode_matrix : words_matrix.all decodes = true := by decide +kernel

/-- Words of the control instructions, from the encoding tables. -/
def words_control : List (Nat × Nat × Instr) :=
  [(64, 0x2C00_0000_0009_0000, .nop gN),
   (64, 0x2C70_0000_0009_0000, .exit gN),
   (64, 0x2C10_0009_FFFF_FFFE, .bra { g := gN, imm := 0xFFFFFFFE }),
   (64, 0x2C40_0009_FFFF_FFFE, .call { g := gN, imm := 0xFFFFFFFE }),
   (64, 0x2CD0_0009_FFFF_FFFE, .sleep { g := gN, imm := 0xFFFFFFFE }),
   (64, 0x2C20_008E_4219_0000, .brx { g := gN, a := .v 8, b := .s 4, n := 0x21 }),
   (64, 0x2C30_0080_0009_0000, .jmp { g := gN, r := .v 8 }),
   (64, 0x2C50_0080_0009_0000, .callr { g := gN, r := .v 8 }),
   (64, 0x2C60_0080_0009_0001, .ret { g := gN, r := .v 8, bit := true }),
   (64, 0x2C80_0E50_0009_0000, .wsync { g := gN, r := .s 5, bit := false }),
   (64, 0x2C90_0E50_0009_003F, .bar { g := gN, a := .s 5, lv := .core, cnt := true, id := 31 }),
   (64, 0x2CA0_0000_0009_4007, .bara { g := gN, a := .v 0, lv := .quad, cnt := false, id := 7 }),
   (64, 0x2CB0_0000_0009_8003, .barw { g := gN, a := .v 0, lv := .tier, cnt := false, id := 3 }),
   (64, 0x2CC0_0000_0009_0001, .yield { g := gN, rot := true })]

theorem test_decode_control : words_control.all decodes = true := by decide +kernel

/-- Words of the system instructions, from the encoding tables. -/
def words_system : List (Nat × Nat × Instr) :=
  [(64, 0x300E_5E80_0009_0000, .launch { g := gN, d := .s 5, a := .s 8 }),
   (64, 0x3010_0000_0009_0000, .depdone gN),
   (64, 0x3020_0000_0009_0000, .ydone gN),
   (64, 0x3030_0000_0009_0000, .yret gN),
   (64, 0x3400_0009_DEAD_BEEF, .trap { g := gN, imm := 0xDEADBEEF }),
   (64, 0x3410_0009_DEAD_BEEF, .brk { g := gN, imm := 0xDEADBEEF }),
   (64, 0x342E_4E70_0009_0000, .ctlrd { g := gN, d := .s 4, a := .s 7 }),
   (64, 0x3430_5E7E_8009_0001, .ctlwr { g := gN, pw := true, pd := 5, a := .s 7, b := .s 8 }),
   (64, 0x344E_4E8E_7009_0000, .audit { g := gN, d := .s 4, a := .s 8, b := .s 7 }),
   (64, 0x345E_5E70_0009_0000, .scrub { g := gN, d := .s 5, a := .s 7 })]

theorem test_decode_system : words_system.all decodes = true := by decide +kernel

/-- Words of the pair instructions, from the encoding tables. -/
def words_pair : List (Nat × Nat × Instr) :=
  [(64, 0x4082_0100_6005_0900, .pairIadd { inH1 := false, d := .v 4, a := .v 2, x := 0x0, mate := some { op := .mov, d := .v 5, a := .v 9, x := 0 } }),
   (64, 0x4000_0000_0204_0200, .pairIsub { inH1 := true, d := .v 4, a := .v 2, x := 0x0, mate := none }),
   (64, 0x4182_0100_6005_0900, .pairImul { inH1 := false, d := .v 4, a := .v 2, x := 0x0, mate := some { op := .mov, d := .v 5, a := .v 9, x := 0 } }),
   (64, 0x4000_0000_0404_0200, .pairIminS { inH1 := true, d := .v 4, a := .v 2, x := 0x0, mate := none }),
   (64, 0x4282_0100_6005_0900, .pairImaxS { inH1 := false, d := .v 4, a := .v 2, x := 0x0, mate := some { op := .mov, d := .v 5, a := .v 9, x := 0 } }),
   (64, 0x4000_0000_0604_0200, .pairIminU { inH1 := true, d := .v 4, a := .v 2, x := 0x0, mate := none }),
   (64, 0x4382_0100_6005_0900, .pairImaxU { inH1 := false, d := .v 4, a := .v 2, x := 0x0, mate := some { op := .mov, d := .v 5, a := .v 9, x := 0 } }),
   (64, 0x4000_0000_0804_0200, .pairAnd { inH1 := true, d := .v 4, a := .v 2, x := 0x0, mate := none }),
   (64, 0x4482_0100_6005_0900, .pairOr { inH1 := false, d := .v 4, a := .v 2, x := 0x0, mate := some { op := .mov, d := .v 5, a := .v 9, x := 0 } }),
   (64, 0x4000_0000_0A04_0200, .pairXor { inH1 := true, d := .v 4, a := .v 2, x := 0x0, mate := none }),
   (64, 0x4582_0100_6005_0900, .pairShl { inH1 := false, d := .v 4, a := .v 2, x := 0x0, mate := some { op := .mov, d := .v 5, a := .v 9, x := 0 } }),
   (64, 0x4000_0000_0C04_0200, .pairShrU { inH1 := true, d := .v 4, a := .v 2, x := 0x0, mate := none }),
   (64, 0x4682_0100_6005_0900, .pairShrS { inH1 := false, d := .v 4, a := .v 2, x := 0x0, mate := some { op := .mov, d := .v 5, a := .v 9, x := 0 } }),
   (64, 0x4000_0000_2004_02FD, .pairIaddi { inH1 := true, d := .v 4, a := .v 2, x := 0xFD, mate := none }),
   (64, 0x5082_017E_E005_0900, .pairAndi { inH1 := false, d := .v 4, a := .v 2, x := 0xFD, mate := some { op := .mov, d := .v 5, a := .v 9, x := 0 } }),
   (64, 0x4000_0000_2204_02FD, .pairOri { inH1 := true, d := .v 4, a := .v 2, x := 0xFD, mate := none }),
   (64, 0x5182_017E_E005_0900, .pairXori { inH1 := false, d := .v 4, a := .v 2, x := 0xFD, mate := some { op := .mov, d := .v 5, a := .v 9, x := 0 } }),
   (64, 0x4000_0000_2404_02FD, .pairShli { inH1 := true, d := .v 4, a := .v 2, x := 0xFD, mate := none }),
   (64, 0x5282_017E_E005_0900, .pairShriU { inH1 := false, d := .v 4, a := .v 2, x := 0xFD, mate := some { op := .mov, d := .v 5, a := .v 9, x := 0 } }),
   (64, 0x4000_0000_2604_02FD, .pairShriS { inH1 := true, d := .v 4, a := .v 2, x := 0xFD, mate := none }),
   (64, 0x5382_007E_E005_0900, .pairMovi8 { inH1 := false, d := .v 4, a := .v 0, x := 0xFD, mate := some { op := .mov, d := .v 5, a := .v 9, x := 0 } }),
   (64, 0x4000_0000_4004_0200, .pairFaddF32 { inH1 := true, d := .v 4, a := .v 2, x := 0x0, mate := none }),
   (64, 0x6082_0100_6005_0900, .pairFsubF32 { inH1 := false, d := .v 4, a := .v 2, x := 0x0, mate := some { op := .mov, d := .v 5, a := .v 9, x := 0 } }),
   (64, 0x4000_0000_4204_0200, .pairFmulF32 { inH1 := true, d := .v 4, a := .v 2, x := 0x0, mate := none }),
   (64, 0x6182_0100_6005_0900, .pairFminF32 { inH1 := false, d := .v 4, a := .v 2, x := 0x0, mate := some { op := .mov, d := .v 5, a := .v 9, x := 0 } }),
   (64, 0x4000_0000_4404_0200, .pairFmaxF32 { inH1 := true, d := .v 4, a := .v 2, x := 0x0, mate := none }),
   (64, 0x4000_0000_4804_0200, .pairFaddF16x2 { inH1 := true, d := .v 4, a := .v 2, x := 0x0, mate := none }),
   (64, 0x6482_0100_6005_0900, .pairFmulF16x2 { inH1 := false, d := .v 4, a := .v 2, x := 0x0, mate := some { op := .mov, d := .v 5, a := .v 9, x := 0 } }),
   (64, 0x4000_0000_4A04_0200, .pairFaddBf16x2 { inH1 := true, d := .v 4, a := .v 2, x := 0x0, mate := none }),
   (64, 0x6582_0100_6005_0900, .pairFmulBf16x2 { inH1 := false, d := .v 4, a := .v 2, x := 0x0, mate := some { op := .mov, d := .v 5, a := .v 9, x := 0 } }),
   (64, 0x4000_0000_6004_0200, .pairMov { inH1 := true, d := .v 4, a := .v 2, x := 0x0, mate := none }),
   (64, 0x7082_0100_6005_0900, .pairCvtF32I32 { inH1 := false, d := .v 4, a := .v 2, x := 0x0, mate := some { op := .mov, d := .v 5, a := .v 9, x := 0 } }),
   (64, 0x4000_0000_6204_0200, .pairCvtI32F32 { inH1 := true, d := .v 4, a := .v 2, x := 0x0, mate := none }),
   (64, 0x7182_0100_6005_0900, .pairCvtF32F16 { inH1 := false, d := .v 4, a := .v 2, x := 0x0, mate := some { op := .mov, d := .v 5, a := .v 9, x := 0 } }),
   (64, 0x4000_0000_6404_0200, .pairCvtF32Bf16 { inH1 := true, d := .v 4, a := .v 2, x := 0x0, mate := none })]

theorem test_decode_pair : words_pair.all decodes = true := by decide +kernel

/-- Words of the near-bank instructions, from the encoding tables. -/
def words_near_bank : List (Nat × Nat × Instr) :=
  [(32, 0x0000_0000, .nnop),
   (32, 0x0600_0000, .nopen 2),
   (32, 0x0800_0000, .nclose),
   (32, 0x0E80_0000, .nrd 5),
   (32, 0x1050_0000, .nwr 5),
   (32, 0x14A6_0000, .nadd 1 2 3),
   (32, 0x18A6_0000, .nsub 1 2 3),
   (32, 0x1CA6_0000, .nmul 1 2 3),
   (32, 0x20A6_0000, .nfma 1 2 3),
   (32, 0x2CA6_0000, .nmax 1 2 3),
   (32, 0x30A6_0000, .nmin 1 2 3),
   (32, 0x24A1_6000, .naxpy 1 2 11),
   (32, 0x28A1_6000, .nscale 1 2 11),
   (32, 0x34A0_0000, .nrsq 1 2),
   (32, 0x3820_0000, .nchk 2),
   (32, 0x3CA0_0000, .nmovb 1 2),
   (32, 0x4240_ABCD, .nset 9 0xABCD),
   (32, 0x4640_ABCD, .nseth 9 0xABCD),
   (32, 0x4A40_ABCD, .naddi 9 0xABCD),
   (32, 0x6240_ABCD, .nlds 9 0xABCD),
   (32, 0x4E40_00AB, .nloop 9 0xAB),
   (32, 0x5000_00AB, .nbra 0xAB),
   (32, 0x5640_00AB, .nbrz 9 0xAB),
   (32, 0x5800_0000, .npoint),
   (32, 0x5C00_0000, .ndone),
   (32, 0x6700_0000, .nopens 3)]

theorem test_decode_near_bank : words_near_bank.all decodes = true := by decide +kernel
/-- The manual's own example words (R59, R62, R67, R69, R79, R124 to R127, R138, R153, R159, R165, R206, R219, R222, R233, R266, R371,
R373 and the worked programs). -/
def words_manual : List (Nat × Nat × Instr) :=
  [(64, 0x0010_5030_9001_1000, .iadd { g := ⟨1, false⟩, d := .v 5, a := .v 3, b := .v 9, c := .v 0, m := mods .i32 0 }),
   (64, 0x020E_400A_0000_0040, .movi { g := ⟨2, true⟩, d := .s 4, a := .v 0, imm := 0x40 }),
   (64, 0x5002_047E_C209_0800, .pairIaddi { inH1 := false, d := .v 4, a := .v 8, x := 0xFD, mate := some { op := .fmulF32, d := .v 9, a := .v 8, x := 0 } }),
   (64, 0x2C00_0000_0007_0000, .nop gT),
   (64, 0x0250_2067_2FFF_FFFB, .isetpi { g := gT, pd := 2, a := .v 6, cond := 2, signed := true, imm := 0x7FFFFFB }),
   (64, 0x0830_8020_3047_4440, .ffma { g := gT, d := .v 8, a := .v 2, b := .v 3, c := .v 4, m := { mods .f32 0 with rm := .rtz, nb := true } }),
   (128, 0xC011_2F1F_FFFF_FFFC_8910_A010_2030_0705, .expr { g := gT, d := .v 10, a := .v 1, b := .v 2, c := .v 3, e := .v 0, ty := .f32, rm := .rne, nt := 5, toks := [0, 1, 2, 11, 24, 31, 31, 31, 31, 31, 31, 31] }),
   (64, 0x2800_0000_0007_0003, .gang { g := gT, mask := 3 }),
   (128, 0xD200_1001_0000_0000_A812_1E4E_5000_0781, .mma { g := gT, dt := 2, h := 1, ar := .s 4, br := .s 5, sa := .v 0, sb := .v 0, ovw := true, asrc := false, ks := 1, fa := .bf16, fb := .bf16, asat := false, pa := 2, pb := 2 }),
   (64, 0x2850_802E_6007_4000, .accrd { g := gT, d := .v 8, tile := 2, b := .s 6, f64 := false, rm := .rne, sat := false }),
   (64, 0x1800_6040_0007_4010, .ld { g := gT, data := .v 6, addr := .v 4, off := 0x10, sz := 2, sx := false, hint := 0, col := false }),
   (64, 0x1810_0E20_8007_6040, .st { g := gT, data := .v 8, addr := .s 2, off := 0x40, sz := 3, sx := false, hint := 0, col := false }),
   (64, 0x1840_9040_A087_0004, .atom { g := gT, d := .v 9, a := .v 4, b := .v 10, off := 8, hint := 0, col := false, op := .add, ty := .f32 }),
   (64, 0x2000_0000_0007_0000, .chunk gT),
   (128, 0xC03B_0000_0000_0000_A402_0E4E_6E8E_A740, .copy { g := gT, h := 2, xf := 0, sa := .s 4, da := .s 6, gr := .s 8, pr := .s 10, ssp := false, dsp := true, col := false, ra := .v 0, aw := .s 12, hint := 0 }),
   (64, 0x00D0_2E00_0007_0001, .lea { g := gT, d := .v 2, a := .s 0, b := .v 0, c := .v 0, m := mods .u32 1 }),
   (64, 0x00B0_402E_8007_2000, .iadd64 { g := gT, d := .v 4, a := .v 2, b := .s 8, c := .v 0, m := mods .u64 0 }),
   (64, 0x00E0_100E_4077_0002, .isetp { g := gT, pd := 1, a := .v 0, b := .s 4, pc := ⟨7, false⟩, m := mods .u32 2 }),
   (64, 0x1810_0080_A009_2000, .st { g := ⟨1, true⟩, data := .v 10, addr := .v 8, off := 0, sz := 1, sx := false, hint := 0, col := false }),
   (64, 0x18AF_0E00_0007_0000, .pgenum { g := gT, d := .s 16, a := .s 0 }),
   (64, 0x18D0_0E00_0007_0000, .regsweep { g := gT, r := .s 0 }),
   (128, 0xC000_0000_0000_0000_826E_8007_0001_0000, .movw { g := gT, d := .s 8, imm := 65536 }),
   (64, 0x2C90_0000_0007_C000, .bar { g := gT, a := .v 0, lv := .pkg, cnt := false, id := 0 }),
   (64, 0x0270_0000_0007_0000, .sread { g := gT, d := .v 0, sel := 0 }),
   (64, 0x2C10_0002_FFFF_FFFD, .bra { g := ⟨2, false⟩, imm := 0xFFFFFFFD }),
   (64, 0x1820_1E00_0007_4000, .lds { g := gT, data := .v 1, addr := .s 0, off := 0, sz := 2, sx := false, hint := 0, col := false }),
   (64, 0x1830_0E0E_1007_4000, .sts { g := gT, data := .s 1, addr := .s 0, off := 0, sz := 2, sx := false, hint := 0, col := false }),
   (64, 0x2C70_0000_0007_0000, .exit gT),
   (64, 0x24A0_0EAE_C007_0000, .nbload { g := gT, d := .s 10, a := .s 12 }),
   (64, 0x2490_3E40_0007_0000, .nbrun { g := gT, h := 3, r := .s 4 }),
   (32, 0x6040_0000, .nlds 1 0), (32, 0x0500_0000, .nopen 1), (32, 0x0C80_0000, .nrd 1), (32, 0x2410_2000, .naxpy 0 1 1),
   (32, 0x6400_0000, .nopens 0), (32, 0x1000_0000, .nwr 0), (32, 0x5800_0000, .npoint), (32, 0x4C00_0001, .nloop 0 1),
   (32, 0x5C00_0000, .ndone)]

theorem test_decode_manual : words_manual.all decodes = true := by decide +kernel

/-- Words that the manual calls illegal (R42, R49, R59, R71, R74, R76, R79). -/
theorem test_decode_refuses : [(64, 0x0000_0000_0000_0000), (64, 0x0010_5030_9001_E000), (64, 0x0900_0000_0007_0000),
    (64, 0x8010_5030_9001_1000), (64, 0xC011_2FFF_FFFF_FFFC), (64, 0x3800_0000_0007_0000), (64, 0x4000_0000_0000_0000),
    (64, 0x4702_0400_0000_0000), (64, 0x0260_0007_0000_0000), (64, 0x8910_A010_2030_0705), (64, 0x2C00_0000_000F_0000),
    (64, 0x2C00_0000_0007_0001), (64, 0x2C00_1000_0007_0000), (32, 0x6800_0000), (32, 0x1400_0001), (32, 0x0800_0001)].all
      (fun p => decodeTableWord p.1 p.2 == none) = true := by decide +kernel

/-! ### Ill-formed instructions (R21 to R62 and the tables of each class) -/

/-- No guard `?!p7`, no uniform result of per-lane operands, no odd pair, no type, modifier or condition that the table lacks, no
nonzero unused field. -/
theorem test_ill_formed_integer : [
    Instr.iadd { lane 4 8 12 0 .u32 0 with g := ⟨7, true⟩ }, .iadd (lane 4 8 12 0 .f32 0), .iadd (lane 4 8 12 1 .u32 0),
    .iadd { lane 4 8 12 0 .u32 0 with d := .s 4 }, .iadd (lane 4 8 12 0 .u32 1),
    .iadd { lane 4 8 12 0 .u32 0 with m := { mods .u32 0 with aa := true } },
    .iadd { lane 4 8 12 0 .i32 0 with m := { mods .i32 0 with rm := .rtz } },
    .iadd { lane 4 8 12 0 .i32 0 with m := { mods .i32 0 with apx := true } },
    .imul { lane 4 8 12 0 .i32 0 with m := { mods .i32 0 with sat := true } }, .imulh (lane 4 8 12 0 .u64 0), .imad (lane 5 8 12 16 .u32 1),
    .imad (lane 4 8 12 17 .u32 1), .imad (lane 4 8 12 16 .u32 2), .idiv (lane 4 9 12 0 .u64 0), .irem (lane 4 8 12 0 .u8x4 0),
    .imin (lane 4 8 13 0 .i64 0), .iabs (lane 4 8 0 0 .u32 0), .iabs (lane 4 8 12 0 .i32 0), .iadd64 (lane 4 8 12 0 .u32 0),
    .lea (lane 4 8 12 0 .u32 8), .lea (lane 5 8 12 0 .u32 0),
    .isetp { g := gN, pd := 7, a := .v 8, b := .v 12, pc := ⟨3, false⟩, m := mods .u32 0 },
    .isetp { g := gN, pd := 1, a := .v 8, b := .v 12, pc := ⟨3, false⟩, m := mods .u32 6 },
    .isetp64 { g := gN, pd := 1, a := .v 8, b := .v 13, pc := ⟨3, false⟩, m := mods .u64 0 },
    .and (lane 4 8 12 0 .i32 0), .tlog { g := gN, d := .s 4, a := .s 8, b := .v 12, c := .s 16, tt := 0 }, .shl (lane 4 8 12 0 .u8x4 0),
    .shw (lane 4 8 12 16 .u32 2), .popc (lane 4 9 0 0 .u64 0), .clz (lane 4 8 12 0 .u32 0), .brev (lane 4 8 0 0 .i32 0), .bfe (lane 4 8 12 0 .u64 0),
    .bfi (lane 4 8 12 16 .i32 0), .bpick (lane 4 8 12 16 .u32 1), .sel { g := gN, d := .s 4, a := .s 8, b := .s 12, pc := ⟨3, false⟩, m := mods .u32 0 },
    .sel { g := gN, d := .v 4, a := .v 8, b := .v 12, pc := ⟨3, false⟩, m := mods .i32 0 }, .mov (lane 4 8 1 0 .u32 0),
    .plog { g := gN, pd := 7, pa := ⟨0, false⟩, pb := ⟨0, false⟩, pc := ⟨0, false⟩, tt := 0 }, .movi { g := gN, d := .v 4, a := .v 8, imm := 0 },
    .iaddi { g := gN, d := .s 4, a := .v 8, imm := 0 }, .isetpi { g := gN, pd := 1, a := .v 8, cond := 6, signed := false, imm := 0 },
    .movw { g := gN, d := .s 5, imm := 0 }, .sread { g := gN, d := .v 4, sel := 0x14 }, .sread { g := gN, d := .v 5, sel := 0x0D },
    .sread { g := gN, d := .s 4, sel := 0 }].all (fun i => !i.wellFormed) = true := by decide +kernel

theorem test_ill_formed_floating : [
    Instr.fadd (lane 4 8 12 0 .i32 0), .fadd { lane 4 8 12 0 .f32 0 with m := { mods .f32 0 with apx := true } }, .ffma (lane 4 8 12 17 .f64 0),
    .fmin { lane 4 8 12 0 .f32 0 with m := { mods .f32 0 with sat := true } }, .fclass (lane 4 8 0 0 .f8e4x4 0), .fdiv (lane 4 8 12 0 .f8e5x4 0),
    .fsqrt (lane 4 8 12 0 .f32 0), .fsin { lane 4 8 0 0 .f32 0 with m := { mods .f32 0 with nb := true } },
    .fsetp { g := gN, pd := 1, a := .v 8, b := .v 12, pc := ⟨3, false⟩, m := mods .f32 14 },
    .fsetp { g := gN, pd := 1, a := .v 8, b := .v 12, pc := ⟨3, false⟩, m := mods .f16x2 0 }, .flagclr { g := gN, r := .v 4 },
    .expr { g := gN, d := .v 10, a := .v 1, b := .v 2, c := .v 0, e := .v 0, ty := .f32, rm := .rne, nt := 2, toks := [0, 1, 31, 31, 31, 31, 31, 31, 31, 31, 31, 31] },
    .expr { g := gN, d := .v 10, a := .v 1, b := .v 2, c := .v 0, e := .v 0, ty := .f32, rm := .rne, nt := 1, toks := [0, 31, 31, 31, 31, 31, 31, 31, 31, 31, 31, 31] },
    .expr { g := gN, d := .v 10, a := .v 1, b := .v 0, c := .v 0, e := .v 0, ty := .f32, rm := .rne, nt := 1, toks := [0, 0, 31, 31, 31, 31, 31, 31, 31, 31, 31, 31] },
    .expr { g := gN, d := .v 10, a := .v 1, b := .v 0, c := .v 0, e := .v 0, ty := .i32, rm := .rne, nt := 0, toks := [0, 31, 31, 31, 31, 31, 31, 31, 31, 31, 31, 31] },
    .expr { g := gN, d := .s 10, a := .v 1, b := .v 0, c := .v 0, e := .v 0, ty := .f32, rm := .rne, nt := 1, toks := [0, 31, 31, 31, 31, 31, 31, 31, 31, 31, 31, 31] },
    .expr { g := gN, d := .v 10, a := .v 1, b := .v 0, c := .v 0, e := .v 0, ty := .f32, rm := .rne, nt := 1, toks := [26, 31, 31, 31, 31, 31, 31, 31, 31, 31, 31, 31] },
    .expr { g := gN, d := .v 10, a := .v 1, b := .v 0, c := .v 0, e := .v 0, ty := .f32, rm := .rne, nt := 1, toks := [0] }].all (fun i => !i.wellFormed)
      = true := by decide +kernel

theorem test_ill_formed_arrange : [
    Instr.cvt { g := gN, d := .v 4, a := .v 8, k := 2, dst := .f16x2, src := .f32, rm := .rne, sat := false },
    .cvt { g := gN, d := .v 4, a := .v 9, k := 0, dst := .f32, src := .f64, rm := .rne, sat := false }, .frnd (lane 4 8 0 0 .i32 0), .pack (lane 4 8 12 0 .u8x4 0),
    .pack (lane 4 8 12 0 .u16x2 1), .unpk (lane 4 8 0 0 .i16x2 2), .rgtr (lane 4 8 0 0 .u32 0), .rgtr { lane 4 0 0 0 .u32 0 with d := .s 4 },
    .rgtr (lane 4 0 0 0 .u64 0), .xlane (lane 4 8 12 0 .u32 4), .xlane { lane 4 8 12 0 .u32 0 with d := .s 4, a := .s 8, b := .s 12 },
    .poll { g := gN, d := .v 7, pa := ⟨1, false⟩, mode := 2 }, .poll { g := gN, d := .v 4, pa := ⟨1, false⟩, mode := 5 }, .wred (lane 4 8 0 0 .u32 6),
    .wred (lane 4 8 0 0 .f32 3), .wscan { lane 4 8 0 0 .u32 0 with m := { mods .u32 0 with rm := .rtz } }, .eqm (lane 4 8 0 0 .i32 0),
    .rdlane (lane 4 8 12 0 .u32 0)].all (fun i => !i.wellFormed) = true := by decide +kernel

def memA (d : Reg) (a : Reg) (sz : Fin 8) : MemArgs := { g := gN, data := d, addr := a, off := 0, sz := sz, sx := false, hint := 0, col := false }
def atomA (d a b : Reg) (op : Aop) (ty : Aty) : AtomArgs := { g := gN, d := d, a := a, b := b, off := 0, hint := 0, col := false, op := op, ty := ty }
def copyA : CopyArgs := { g := gN, h := 2, xf := 0, sa := .s 4, da := .s 6, gr := .s 8, pr := .s 10, ssp := false, dsp := true, col := false, ra := .v 0, aw := .s 12, hint := 0 }
def mmaA : MmaArgs := { g := gN, dt := 2, h := 1, ar := .s 4, br := .s 5, sa := .v 0, sb := .v 0, ovw := true, asrc := false, ks := 1, fa := .bf16, fb := .bf16, asat := false, pa := 2, pb := 2 }

theorem test_ill_formed_memory : [
    Instr.ld (memA (.v 8) (.s 4) 5), .ld { memA (.v 8) (.s 4) 2 with sx := true }, .ld (memA (.v 9) (.s 4) 3), .ld (memA (.v 8) (.s 5) 2),
    .ld (memA (.s 8) (.v 4) 2), .ld (memA (.s 8) (.s 4) 4), .st { memA (.v 8) (.s 4) 0 with sx := true }, .lds { memA (.v 8) (.s 5) 2 with hint := 1 },
    .sts { memA (.v 8) (.s 5) 2 with col := true }, .prefetch (memA (.v 8) (.s 4) 0), .prefetch (memA (.v 0) (.s 4) 2),
    .lnflush { memA (.v 0) (.s 4) 0 with hint := 1 }, .atom (atomA (.v 4) (.s 4) (.v 12) .and .f32), .atom (atomA (.v 5) (.s 4) (.v 12) .add .u64),
    .atom (atomA (.s 4) (.s 4) (.v 12) .add .u32), .atoms { atomA (.v 4) (.s 5) (.v 12) .add .u32 with hint := 1 },
    .red (atomA (.v 4) (.s 4) (.v 12) .add .u32), .red (atomA (.v 0) (.s 4) (.v 12) .exch .u32),
    .cas { g := gN, d := .v 4, a := .v 8, b := .v 12, c := .v 16, sz := 4, hint := 0 }, .cas { g := gN, d := .v 5, a := .v 8, b := .v 12, c := .v 16, sz := 3, hint := 0 },
    .enq { g := gN, pd := 7, a := .v 8, data := .v 12, sz := 4 }, .enq { g := gN, pd := 5, a := .v 8, data := .v 12, sz := 1 },
    .deq { g := gN, pd := 5, a := .v 8, data := .s 12, sz := 2 }, .pgenum { g := gN, d := .v 5, a := .v 8 }, .pgstat { g := gN, pd := 5, a := .v 8, b := .v 1 },
    .pgreset { g := gN, r := .v 9 }, .regsweep { g := gN, r := .v 8 }].all (fun i => !i.wellFormed) = true := by decide +kernel

theorem test_ill_formed_async : [
    Instr.copy { copyA with xf := 7 }, .copy { copyA with sa := .s 5 }, .copy { copyA with ssp := true, sa := .v 4 }, .copy { copyA with gr := .v 8 },
    .copy { copyA with pr := .s 11 }, .copy { copyA with ra := .v 8 }, .copy { copyA with aw := .v 12 }, .copy { copyA with col := true, ssp := true },
    .copy { copyA with xf := 1, dsp := false }, .copy { copyA with xf := 6 }, .hwait { g := gN, h := 1, pw := true, pd := ⟨7, false⟩ },
    .hwait { g := gN, h := 1, pw := false, pd := ⟨1, false⟩ }, .htest { g := gN, pd := 7, h := 1 }, .hcancel { g := gN, h := 1, r := .v 1 },
    .hadopt { g := gN, h := 1, r := .v 1 }, .awinit { g := gN, d := .v 4, a := .s 5 }, .nbrun { g := gN, h := 1, r := .s 5 },
    .nbload { g := gN, d := .s 4, a := .v 5 }, .stepopen { g := gN, pd := 1, a := .s 4, b := .s 6 }, .stepend { g := gN, pd := 1, a := .s 4, b := .v 6 },
    .coll { g := gN, h := 1, r := .v 4 }, .gang { g := gN, mask := 0 }, .gang { g := gN, mask := 0x7F }, .mma { mmaA with br := .v 5 },
    .mma { mmaA with fb := .oq4 }, .mma { mmaA with fa := .fp16 }, .mma { mmaA with sa := .s 6 }, .mma { mmaA with asat := true },
    .mma { mmaA with asrc := true, ar := .v 16, pa := 0 }, .mma { mmaA with asrc := true, ar := .v 0, pa := 0, ks := 2 }, .accz { g := gN, mask := 0 },
    .accld { g := gN, h := 1, a := .s 4, tile := 0, fmt := .f32, rm := .rtz, sat := false, pitch := 0 },
    .accst { g := gN, h := 1, a := .s 4, tile := 0, fmt := .acc96, rm := .rne, sat := true, pitch := 0 },
    .accrd { g := gN, d := .v 5, tile := 0, b := .s 6, f64 := true, rm := .rne, sat := false },
    .accrd { g := gN, d := .v 4, tile := 0, b := .v 6, f64 := false, rm := .rne, sat := false }].all (fun i => !i.wellFormed) = true := by decide +kernel

theorem test_ill_formed_control : [
    Instr.brx { g := gN, a := .v 8, b := .s 5, n := 1 }, .brx { g := gN, a := .v 8, b := .s 4, n := 0 }, .jmp { g := gN, r := .v 9 },
    .ret { g := gN, r := .v 8, bit := false }, .ret { g := gN, r := .v 9, bit := true }, .wsync { g := gN, r := .s 5, bit := true },
    .wsync { g := gN, r := .v 5, bit := false }, .bar { g := gN, a := .s 5, lv := .quad, cnt := true, id := 0 },
    .bar { g := gN, a := .s 5, lv := .core, cnt := false, id := 0 }, .bara { g := gN, a := .v 0, lv := .quad, cnt := false, id := 8 },
    .barw { g := gN, a := .v 0, lv := .pkg, cnt := false, id := 2 }, .nop ⟨7, true⟩, .launch { g := gN, d := .v 5, a := .s 8 },
    .ctlrd { g := gN, d := .s 5, a := .s 7 }, .ctlwr { g := gN, pw := false, pd := 1, a := .s 7, b := .s 8 },
    .ctlwr { g := gN, pw := true, pd := 7, a := .s 7, b := .s 8 }, .audit { g := gN, d := .s 4, a := .s 9, b := .s 7 }, .scrub { g := gN, d := .v 5, a := .s 7 },
    .pairIadd { inH1 := false, d := .s 4, a := .v 8, x := 0, mate := none }, .pairIadd { inH1 := false, d := .v 4, a := .v 8, x := 1, mate := none },
    .pairMovi8 { inH1 := false, d := .v 4, a := .v 8, x := 1, mate := none },
    .pairIadd { inH1 := false, d := .v 4, a := .v 9, x := 0, mate := some { op := .mov, d := .v 8, a := .v 1, x := 0 } },
    .pairIadd { inH1 := false, d := .v 4, a := .v 9, x := 0, mate := some { op := .mov, d := .v 5, a := .v 4, x := 0 } },
    .pairIadd { inH1 := false, d := .v 4, a := .v 9, x := 0, mate := some { op := .iadd, d := .v 6, a := .v 11, x := 0 } },
    .pairFaddF32 { inH1 := false, d := .v 4, a := .v 5, x := 0, mate := some { op := .fmulF32, d := .v 5, a := .v 4, x := 0 } },
    .pairIadd { inH1 := true, d := .v 4, a := .v 8, x := 0, mate := some { op := .mov, d := .v 5, a := .v 9, x := 0 } }].all
      (fun i => !i.wellFormed) = true := by decide +kernel

/-! ### Single steps -/

def W0 : WarpId := ⟨0, 0, 0⟩

/-- One warp about to issue the word, its registers changed first. -/
def start (nbits w : Nat) (f : Arch → Arch) : State := (State.reset.withFetchWord nbits w).mapWarp W0 fun x => { x with arch := f x.arch }

/-- Register values: the same in every lane. -/
def v (r x : Nat) (a : Arch) : Arch := { a with v := a.v.set r (List.replicate 32 (BitVec.ofNat 32 x)) }
/-- Lane 0 alone. -/
def v0 (r x : Nat) (a : Arch) : Arch := { a with v := updAt (fun l => updAt (fun _ => BitVec.ofNat 32 x) l 0) a.v r }
def sr (r x : Nat) (a : Arch) : Arch := { a with s := a.s.set r (BitVec.ofNat 32 x) }

/-- What a step leaves of the warp. -/
def then_ {α : Type} (s : State) (get : Warp → α) : Option α := match step s with | .next t => (t.warp? W0).map get | _ => none

/-- Register r in lane l after a step, and flags.fp. -/
def vAt (r l : Nat) (x : Warp) : Nat := ((x.arch.v.getD r []).getD l 0).toNat
def sAt (r : Nat) (x : Warp) : Nat := (x.arch.s.getD r 0).toNat
def flagsOf (x : Warp) : Nat := x.arch.flags.toNat
def pcOf (x : Warp) : Nat := x.arch.pc.headD 0

/-- R128: the manual's FFMA.F32.RTZ of 3.0, -0.1 and 0.0 gives 0xBE99_9999 and raises NX. -/
theorem test_ffma : then_ (start 64 0x0830_8020_3047_4440 (v 2 0x4040_0000 ∘ v 3 0x3DCC_CCCD)) (fun x => (vAt 8 0 x, flagsOf x)) = some (0xBE99_9999, 16) := by
  decide +kernel

/-- R140: the manual's EXPR in its two lanes. -/
theorem test_expr : then_ (start 128 0xC011_2F1F_FFFF_FFFC_8910_A010_2030_0705
    (v0 1 0x4000_0000 ∘ v0 2 0xC040_0000 ∘ v0 3 0x3FC0_0000 ∘ v 1 0x3F00_0000 ∘ v 2 0x4040_0000 ∘ v 3 0x3E80_0000))
    (fun x => (vAt 10 0 x, vAt 10 1 x, flagsOf x, pcOf x)) = some (0, 0x3FE0_0000, 0, 65552) := by decide +kernel

/-- R120: IADD.U8x4.SAT of 0xF0 and 0x20 gives 0xFF in that byte. -/
theorem test_iadd_sat : then_ (start 64 0x0010_1020_3007_C200 (v 2 0xF0 ∘ v 3 0x20)) (vAt 1 31) = some 0xFF := by decide +kernel

/-- R121: a division by zero gives all ones and leaves the dividend. -/
theorem test_idiv_zero : then_ (start 64 0x0060_1020_3007_1000 (v 2 7)) (vAt 1 0) = some 0xFFFF_FFFF := by decide +kernel
theorem test_irem_zero : then_ (start 64 0x0070_1020_3007_1000 (v 2 7)) (vAt 1 0) = some 7 := by decide +kernel
theorem test_idiv_truncates : then_ (start 64 0x0060_1020_3007_1000 (v 2 0xFFFF_FFF9 ∘ v 3 2)) (vAt 1 0) = some 0xFFFF_FFFD := by decide +kernel

/-- R124: ISETP.EQ.U32 p1, v2, v3, !p1 clears p1 where it was true. -/
theorem test_isetp_and : then_ (start 64 0x00E0_1020_3097_0000 fun a => { a with p := a.p.set 1 0xFFFF_0000#32 }) (fun x => (x.arch.p.getD 1 0)) = some 0x0000_FFFF#32 := by
  decide +kernel

/-- R58, R59: the manual's pair word: IADDI of -3 beside FMUL. -/
theorem test_pair : then_ (start 64 0x5002_047E_C209_0800 (v 8 0x4000_0000 ∘ v 9 0x4040_0000)) (fun x => (vAt 4 5 x, vAt 9 5 x)) = some (0x3FFF_FFFD, 0x40C0_0000) := by
  decide +kernel

/-- R46: an offset of -1 branches to the branch itself. -/
theorem test_bra_self : then_ (start 64 0x2C10_0007_FFFF_FFFF id) pcOf = some 65536 := by decide +kernel

/-- R48: a guarded-off lane keeps its register. -/
theorem test_guard : then_ (start 64 0x0200_1002_0000_0005 fun a => { a with p := a.p.set 2 1#32 }) (fun x => (vAt 1 0 x, vAt 1 1 x)) = some (5, 0) := by decide +kernel

/-- R35: an s destination is written once; R126: MOVW fills a pair. -/
theorem test_movw : then_ (start 128 0xC000_0000_0123_4567_826E_4007_89AB_CDEF id) (fun x => (sAt 4 x, sAt 5 x, pcOf x)) = some (0x89AB_CDEF, 0x0123_4567, 65552) := by
  decide +kernel

/-- R206, R208: a load reads little-endian bytes, here of its own word. -/
theorem test_ld : then_ (start 64 0x1800_8EA0_0007_4004 (sr 10 65536)) (vAt 8 3) = some 0x1800_8EA0 := by decide +kernel

/-- R203: a misaligned load takes its fault in the lowest lane. -/
theorem test_ld_misaligned : (match step (start 64 0x1800_8EA0_0007_4002 (sr 10 65536)) with
    | .next t => (t.launch? 0).bind fun l => l.fault.map fun f => (f.code, f.lane, f.pc, f.addr) | _ => none) = some (.misaligned, 0, 65536, 65538) := by decide +kernel

/-- R204, R208: lanes store in ascending order, so the highest lane's bytes stay in the chunk. -/
theorem test_sts : then_ (start 64 0x1830_0E05_0007_4000 fun a => { a with v := a.v.set 0x50 ((List.range 32).map (BitVec.ofNat 32)) })
    (fun x => getKey { space := .spad 0 0, addr := 0 } x.chunk.writes) = some (some 31) := by decide +kernel

/-- R222: ATOMS.ADD.U32 of 1 in every lane: each lane sees the sum of those before it. -/
theorem test_atoms : then_ (start 64 0x1850_9E00_A007_0000 (v 10 1)) (fun x => (vAt 9 0 x, vAt 9 31 x)) = some (0, 31) := by decide +kernel

/-- R255: EXIT ends its chunk. -/
theorem test_exit : then_ (start 64 0x2C70_0000_0007_0000 id) (fun x => (x.chunk.ended, x.chunk.exiting)) = some (true, 0xFFFF_FFFF#32) := by decide +kernel

/-- R256, R262: CALL pushes the next word, and goes on at its target. -/
theorem test_call : then_ (start 64 0x2C40_0007_0000_0010 id) (fun x => (pcOf x, x.arch.rstack.map (·.addr))) = some (65536 + 8 + 128, [65544]) := by decide +kernel

/-- R347: TRAP gives its code to the record. -/
theorem test_trap : (match step (start 64 0x3400_0007_0000_BEEF id) with
    | .next t => (t.launch? 0).bind fun l => l.fault.map fun f => (f.code, f.ucode, f.pc) | _ => none) = some (.userTrap, 0xBEEF#32, 65536) := by decide +kernel

/-- R71: a word of zeros is illegal. -/
theorem test_illegal : (match step (start 64 0 id) with
    | .next t => (t.launch? 0).bind fun l => l.fault.map (·.code) | _ => none) = some .illegalInstr := by decide +kernel

/-- R70, R336: CTLRD outside the firmware context raises PROTECTION. -/
theorem test_ctlrd_user : (match step (start 64 0x342E_4E70_0007_0000 id) with
    | .next t => (t.launch? 0).bind fun l => l.fault.map (·.code) | _ => none) = some .protection := by decide +kernel

/-- R153: GANG sets the warp's mask. -/
theorem test_gang : then_ (start 64 0x2800_0000_0007_0001 fun a => { a with gang := 0 }) (fun x => x.arch.gang) = some 1#32 := by decide +kernel

/-- R39: lane.id. -/
theorem test_sread : then_ (start 64 0x0270_0000_0007_0000 id) (fun x => (vAt 0 0 x, vAt 0 31 x)) = some (0, 31) := by decide +kernel

/-- R142: XLANE by index reads the other lane's old value, in place. -/
theorem test_xlane : then_ (start 64 0x1400_2020_3007_0000 fun a => { (v 3 5 a) with v := (v 3 5 a).v.set 2 ((List.range 32).map (BitVec.ofNat 32)) })
    (fun x => (vAt 2 0 x, vAt 2 9 x)) = some (5, 5) := by decide +kernel

/-- R134: CVT.I32.F32 of 1.5 to nearest even is 2. -/
theorem test_cvt : then_ (start 64 0x1000_1020_0007_1004 (v 2 0x3FC0_0000)) (fun x => (vAt 1 0 x, flagsOf x)) = some (2, 16) := by decide +kernel

/-- R369: NSET and NLOOP at a stall. -/
theorem test_nset : (match step (State.reset.withFetchWord 32 0x4240_1234) with
    | .next t => (t.run? 0).bind fun r => (r.stall? 0).map fun x => (x.n.getD 9 0, x.upc) | _ => none) = some (0x1234#32, 1) := by decide +kernel

theorem test_nloop : (match step (State.reset.withFetchWord 32 0x4E40_00AB) with
    | .next t => (t.run? 0).bind fun r => (r.stall? 0).map fun x => (x.n.getD 9 0, x.upc) | _ => none) = some (0xFFFF_FFFF#32, 0xAB) := by decide +kernel

/-- R391, R399: before DEVREADY a configuration request has retry status. -/
theorem test_config_request : (match exec (.configRequest 0 (.config 0)) { State.reset with lwidth := 3 } with | .next t => t.answer | _ => .none) = .retry := by decide +kernel

/-- R328: SHA-384 of the empty string, by FIPS 180-4. -/
theorem test_sha384 : (sha384 []).take 4 = [0x38, 0xB0, 0x60, 0xA7] := by decide +kernel

/-! ### Witnesses: for each obligation with hypotheses, a state and operands that meet them

`Possible k cond` is what a statement `Does ins k cond post` asks of its state; the statements on results ask besides that the
issue fits its chunk, which the first issue of a chunk does. -/

def Possible (k : Kind) (cond : Iss → Prop) : Prop :=
  ∃ s b, State.issueOf s k = some b ∧ b.runs k = true ∧ b.first ∧ cond b

theorem some_of {α : Type} {o : Option α} {p : α → Bool} (h : o.any p = true) : ∃ r, o = some r ∧ p r = true := by
  simpa [Option.any_eq_true] using h

/-- A decided part of a check, and its rest. -/
theorem dec_and {p : Prop} [Decidable p] {b : Bool} (h : (decide p && b) = true) : p ∧ b = true :=
  ⟨of_decide_eq_true (Bool.and_eq_true_iff.mp h).1, (Bool.and_eq_true_iff.mp h).2⟩

def okAnd {ε α : Type} (e : Except ε α) (p : α → Bool) : Bool := match e with | .ok r => p r | .error _ => false

theorem ok_of {ε α : Type} {e : Except ε α} {p : α → Bool} (h : okAnd e p = true) : ∃ r, e = .ok r ∧ p r = true := by
  unfold okAnd at h
  split at h
  · exact ⟨_, rfl, h⟩
  · exact absurd h Bool.false_ne_true

/-- The chunk's sums leave room for `n` bytes of undo log and `m` entries of each set and lines. -/
def roomB (b : Iss) (n m : Nat) : Bool :=
  let c := b.w.chunk
  if b.repro then
    decide (c.undo + n ≤ Config.undoBudget ∧ c.specLines.length + m ≤ Config.lineBudget ∧ c.readEntries b.s + m ≤ Config.setBudget)
  else
    let o := b.s.coreChunks b.core b.wid
    decide (c.undo + n + (o.map Chunk.undo).sum ≤ Config.undoBuffer
      ∧ c.specLines.length + m + (o.map fun x => x.specLines.length).sum ≤ b.s.l1Lines b.core
      ∧ c.readEntries b.s + m ≤ Config.setBudget ∧ c.writeEntries b.s + m ≤ Config.setBudget)

theorem room_ofB {b : Iss} {n m : Nat} (h : roomB b n m = true) : b.room n m := by
  apply Iss.room_of <;> intro hr <;> simpa [roomB, hr] using h

def firstB (b : Iss) : Bool := (b.repro && !b.w.chunk.begun) || roomB b 4096 256

theorem firstB_spec {b : Iss} (h : firstB b = true) : b.first := by
  simp only [firstB, Bool.or_eq_true, Bool.and_eq_true, Bool.not_eq_true'] at h
  exact h.imp id room_ofB

theorem possible {s : State} {k : Kind} {cond : Iss → Prop} (c : Iss → Bool)
    (h : ((s.issueOf k).any fun b => b.runs k && firstB b && c b) = true) (hc : ∀ b, c b = true → cond b) : Possible k cond := by
  obtain ⟨b, hb, h⟩ := some_of h
  simp only [Bool.and_eq_true] at h
  exact ⟨s, b, hb, h.1.1, firstB_spec h.1.2, hc b h.2⟩

/-- The same for a decidable condition. -/
theorem possible_if (s : State) {k : Kind} (cond : Iss → Prop) [DecidablePred cond]
    (h : ((s.issueOf k).any fun b => b.runs k && firstB b && decide (cond b)) = true) :
    Possible k cond := possible (s := s) (fun b => decide (cond b)) h fun _ h => of_decide_eq_true h

theorem lane_lt {m : LaneMask} {l : Nat} (h : laneOn m l = true) : l < 32 := by
  unfold laneOn at h
  exact Nat.lt_of_not_le fun hl => by simp [BitVec.getLsbD_of_ge m l hl] at h

/-- A translation of a page, readable and writable. -/
def entryW (page pa : Nat) : TlbEntry := { stageEntry with page := page, entry := BitVec.ofNat 64 (pa * 65536 + 3) }

/-- A region of four pages at page 16, the second one backed. -/
def reg0 : Region :=
  { ctx := 0, base := 0x100000, pages := 4, es := 0, trans := false, vers := false, ext := false, fwin := none, default := 0x11
    fpa := 0, voff := 0, backed := [(1, 40)], cur := false, open_ := false, fail := false, written := [] }

/-- A warp that issues at its word in the lanes given, with its registers as `f` makes them, a data page at 0x20000 and a region
at 0x100000. -/
def base (lanes : LaneMask) (f : Arch → Arch) : State :=
  let s := (State.reset.stage.mapPart 0 fun p => { p with regions := [(0, reg0)] }).mapWarp W0 fun x => { x with arch := f x.arch }
  { s with tlb := [stageEntry, entryW 2 2, entryW 16 0, entryW 17 0], issuer := some { wid := W0, pc := 65536, lanes := lanes } }

def base32 : State := base 0xFFFFFFFF#32 id
/-- Lane 0 alone. -/
def base1 (f : Arch → Arch) : State := base 1#32 f

theorem possible_all {ks : List Kind}
    (h : (ks.all fun k => (base32.issueOf k).any fun b => b.runs k && firstB b && true) = true) :
    ∀ k ∈ ks, Possible k fun _ => True := by
  intro k hk
  exact possible (s := base32) (fun _ => true) (List.all_eq_true.mp h k hk) fun _ _ => trivial

def la : LaneArgs := lane 4 8 12 16 .u32 0

theorem witness_IntegerArithmeticResults :
    ∀ k ∈ [laneKind la 1 1 1 0, laneKind la 2 2 2 0, laneKind la 1 1 1 1, laneKind la 2 2 2 2, laneKind la 2 1 1 2, laneKind la 1 1 0 0,
      laneKind la 2 2 1 0, laneKind { la with d := .s 4 } 2 2 1 0], Possible k fun _ => True := possible_all (by decide +kernel)

theorem witness_LogicAndShiftResults :
    ∀ k ∈ [laneKind la 1 1 1 0, laneKind la 2 2 2 0, laneKind la 2 2 1 0, laneKind la 1 1 1 1, laneKind la 1 1 0 0, laneKind la 1 2 0 0,
      laneKind la 2 2 0 0, { g := gN, srcs := [(.v 1, 1), (.v 2, 1), (.v 3, 1)], dsts := [(.v 4, 1)], once := false },
      { g := gN, srcs := [(.v 2, 2), (.v 4, 2)], dsts := [(.v 6, 2)], preds := [⟨1, false⟩], once := false },
      { g := gN, srcs := [(.v 1, 1)], dsts := [(.v 2, 1)], once := false }, { g := gN, size := 16, dsts := [(.s 4, 2)], once := true }],
      Possible k fun _ => True := possible_all (by decide +kernel)

theorem witness_PredicateResults :
    ∀ k ∈ [{ g := gN, srcs := [(.v 2, 1), (.v 4, 1)], preds := [⟨1, true⟩] }, { g := gN, srcs := [(.v 2, 2), (.v 4, 2)], preds := [⟨1, true⟩] },
      { g := gN, srcs := [(.v 2, 1)] }, { g := gN, preds := [⟨1, false⟩, ⟨2, false⟩, ⟨3, true⟩] }], Possible k fun _ => True :=
  possible_all (by decide +kernel)

theorem witness_FloatArithmeticResults :
    ∀ k ∈ [laneKind la 1 1 1 0, laneKind la 2 2 2 0, laneKind la 1 1 1 1, laneKind la 2 2 2 2, laneKind la 1 1 0 0, laneKind la 2 2 0 0],
      Possible k fun _ => True := possible_all (by decide +kernel)

theorem witness_ClassFlagAndSpecialReads :
    tysFloat4.contains Ty.f32 = true ∧
    ∀ k ∈ [laneKind la 1 1 0 0, laneKind la 1 2 0 0, { g := gN, reads := [.flags], dsts := [(.v 1, 1)], once := false },
      { g := gN, srcs := [(.s 4, 1)], once := true }, { g := gN, reads := [], dsts := [(.v 4, specialRegs 0)], once := false },
      { g := gN, reads := [.flags], dsts := [(.s 4, specialRegs 0x11)], once := true }], Possible k fun _ => True :=
  ⟨by decide +kernel, possible_all (by decide +kernel)⟩

/-- An expression of these tokens. -/
def tokA (ty : ExprTy) (ts : List (Fin 32)) : ExprArgs :=
  { g := gN, d := .v 4, a := .v 1, b := .v 2, c := .v 3, e := .v 0, ty := ty, rm := .rne, nt := ⟨ts.length % 16, Nat.mod_lt _ (by decide)⟩
    toks := ts ++ List.replicate (12 - ts.length) 31 }

/-- Expressions of each length that the table has; and operands of F32 that are no number, positive, and neither. -/
theorem witness_ExprResult :
    (∀ k ∈ [{ g := gN, size := 16, srcs := [(.v 1, 1), (.v 2, 1), (.v 3, 0), (.v 0, 0)], dsts := [(.v 4, 1)], once := false }],
      Possible k fun _ => True) ∧
    (∀ ty ∈ [ExprTy.i32, .f32, .f16x2, .bf16x2], ∀ ts ∈ [[(3 : Fin 32)], [0, 25], [0, 6, 8], [0, 1, 7, 9], [0, 1, 2, 23]],
      (tokA ty ts).ty = ty ∧ (tokA ty ts).run = ts.map Fin.val) ∧
    ∀ x, x = 0x7F800001 ∨ x = 0x7F7FFFFF ∨ x = 0x80000000 →
      x < 2 ^ 32 ∧ (0x7F800000 < x % 2 ^ 31 ↔ x = 0x7F800001) ∧ (¬0x7F800000 < x % 2 ^ 31 ∧ 0 < x ∧ x < 2 ^ 31 ↔ x = 0x7F7FFFFF) := by
  refine ⟨possible_all (by decide +kernel), by decide +kernel, fun x h => ?_⟩
  rcases h with rfl | rfl | rfl <;> decide

theorem witness_ConversionResults :
    ∀ k ∈ [{ g := gN, srcs := [(.v 2, 1)], dsts := [(.v 4, 1)], once := false }, { g := gN, srcs := [(.v 2, 2), (.v 4, 1)], dsts := [(.v 4, 1)], once := false },
      laneKind la 1 1 1 0, laneKind la 1 1 0 0, laneKind la 2 2 0 0, { g := gN, srcs := [(.v 2, 1), (.v 4, 1)], dsts := [(.v 4, 1)], once := false },
      { g := gN, dsts := [(.v 8, 8)] }], Possible k fun _ => True := possible_all (by decide +kernel)

theorem witness_CrossLaneResults :
    ∀ k ∈ [{ g := gN, srcs := [(.v 2, 1), (.v 4, 1)], dsts := [(.v 6, 1)], forbidden := true },
      { g := gN, srcs := [(.v 2, 2), (.v 4, 1)], dsts := [(.v 6, 2)], forbidden := true }, { g := gN, preds := [⟨1, false⟩], forbidden := true },
      { g := gN, preds := [⟨1, false⟩], dsts := [(.v 6, 1)], forbidden := true }, { g := gN, srcs := [(.v 2, 1)], dsts := [(.v 6, 1)], forbidden := true },
      { g := gN, srcs := [(.v 2, 2)], dsts := [(.v 6, 2)], forbidden := true }, { g := gN, srcs := [(.v 2, 2)], dsts := [(.v 6, 1)], forbidden := true }],
      Possible k fun _ => True := possible_all (by decide +kernel)

/-- No register of the witnesses is poisoned. -/
theorem witness_unpoisoned : ∀ (b : Iss), b.w.arch.poison = [] → ∀ r w l, b.regPoisoned r w l = false := by
  intro b h r w l; simp [Iss.regPoisoned, h]

theorem witness_PairWordResults :
    let p : PairArgs := { inH1 := false, d := .v 4, a := .v 5, x := 0, mate := some { op := .fmulF32, d := .v 7, a := .v 8, x := 0 } }
    ∀ k ∈ [pairKind (p.h0 .iadd) (p.h1 .iadd)], Possible k fun _ => True := possible_all (by decide +kernel)

def readB (j : Iss) (xs : List Loc) : Bool :=
  xs.all fun x => !j.s.hostOwns x && ((j.w.chunk.owns x || !j.s.isPoisoned x) && !j.s.refuses x)

theorem readB_spec {j : Iss} {xs : List Loc} (h : readB j xs = true) : j.readable xs := by
  intro x hx
  have := List.all_eq_true.mp h x hx
  simpa only [Bool.and_eq_true, Bool.not_eq_true', Bool.or_eq_true] using this


/-- The memory instructions' operands: the address in s10, data in v8. -/
def mA (data : Reg) : MemArgs := memA data (.s 10) 2

def findLoc (a : MemArgs) (spad : Bool) (acc : Access) (b i : Iss) (l : Nat) : Eff (Iss × List Loc) :=
  if spad then i.scratch l (ea32 (b.val a.addr l 1) a.off.toInt) (2 ^ a.sz.val)
  else i.device l (ea64 (b.val a.addr l 2) a.off.toInt) (2 ^ a.sz.val) a.col acc

/-- A load from scratchpad, and from the data page, with the hint BYPASS and without. -/
theorem witness_LoadReadsBytes : ∀ spad past : Bool, ∃ (a : MemArgs) (s : State) (b j : Iss) (l : Nat) (xs : List Loc),
    let k := MemArgs.kind a (if spad then 1 else 2) false
    s.issueOf k = some b ∧ b.runs k = true ∧ b.oneAccess (MemArgs.once a) l ∧ findLoc a spad .read b b.advance l = .ok (j, xs) ∧
    j.readable xs ∧ (a.hint.val == 3) = past ∧
    ((j.loaded xs (a.hint.val == 3)).writeLane a.data (szRegs a.sz.val) l 0).fits b k = true := by
  intro spad past
  let a := { mA (.v 8) with hint := if past then 3 else 0 }
  let k := MemArgs.kind a (if spad then 1 else 2) false
  let s := base1 (if spad then id else sr 10 0x20000)
  have key : ((s.issueOf k).any fun b => decide (b.runs k = true ∧ b.accessLanes (MemArgs.once a) = [0]) &&
      okAnd (findLoc a spad .read b b.advance 0) fun r => readB r.1 r.2 && decide ((a.hint.val == 3) = past ∧
        ((r.1.loaded r.2 (a.hint.val == 3)).writeLane a.data (szRegs a.sz.val) 0 0).fits b k = true)) = true := by
    cases spad <;> cases past <;> decide +kernel
  obtain ⟨b, hb, h⟩ := some_of key
  obtain ⟨⟨runs, once⟩, found⟩ := dec_and h
  obtain ⟨⟨j, xs⟩, hj, read⟩ := ok_of found
  rw [Bool.and_eq_true] at read
  exact ⟨a, s, b, j, 0, xs, hb, runs, once, hj, readB_spec read.1, of_decide_eq_true read.2⟩

theorem witness_LoadFrame : ∀ spad : Bool, ∃ (a : MemArgs) (s : State) (b i : Iss),
    let k := MemArgs.kind a (if spad then 1 else 2) false
    s.issueOf k = some b ∧ b.runs k = true ∧
    b.advance.eachLane (fun j l => (findLoc a spad .read b j l).bind fun r =>
      (r.1.load l (if spad then ea32 (b.val a.addr l 1) a.off.toInt else ea64 (b.val a.addr l 2) a.off.toInt) r.2 (a.hint.val == 3)).bind fun q =>
        .ok (q.1.writeLane a.data (szRegs a.sz.val) l (if a.sx then wrapInt 32 (signed (8 * 2 ^ a.sz.val) q.2) else q.2)))
      (b.accessLanes (MemArgs.once a)) = .ok i ∧ i.fits b k = true := by
  intro spad
  let a := { mA (.v 8) with addr := .v 10, hint := if spad then 0 else 3 }
  let k := MemArgs.kind a (if spad then 1 else 2) false
  let s := base 7#32 (if spad then id else v 10 0x20000)
  have key : ((s.issueOf k).any fun b => b.runs k && okAnd (b.advance.eachLane (fun j l => (findLoc a spad .read b j l).bind fun r =>
      (r.1.load l (if spad then ea32 (b.val a.addr l 1) a.off.toInt else ea64 (b.val a.addr l 2) a.off.toInt) r.2 (a.hint.val == 3)).bind fun q =>
        .ok (q.1.writeLane a.data (szRegs a.sz.val) l (if a.sx then wrapInt 32 (signed (8 * 2 ^ a.sz.val) q.2) else q.2)))
      (b.accessLanes (MemArgs.once a))) fun i => i.fits b k) = true := by
    cases spad <;> decide +kernel
  obtain ⟨b, hb, h⟩ := some_of key
  simp only [Bool.and_eq_true] at h
  obtain ⟨i, hi, h4⟩ := ok_of h.2
  exact ⟨a, s, b, i, hb, h.1, hi, h4⟩

theorem witness_StoreWritesBytes : ∀ spad : Bool, ∃ (a : MemArgs) (s : State) (b j : Iss) (l : Nat) (xs : List Loc),
    let k := MemArgs.kind a (if spad then 1 else 2) true
    s.memOk = true ∧ s.issueOf k = some b ∧ b.runs k = true ∧ b.oneAccess (MemArgs.once a) l ∧
    findLoc a spad .write b b.advance l = .ok (j, xs) ∧ xs.Nodup ∧
    ((j.store l xs (leBytes (2 ^ a.sz.val) (b.val a.data l (szRegs a.sz.val)))).hint a.hint xs).fits b k = true ∧ ∀ y ∈ xs, y.space.irrevocable = false := by
  intro spad
  let a := mA (.v 8)
  let k := MemArgs.kind a (if spad then 1 else 2) true
  let s := base1 (if spad then id else sr 10 0x20000)
  have key : (s.memOk && (s.issueOf k).any fun b => decide (b.runs k = true ∧ b.accessLanes (MemArgs.once a) = [0]) &&
      okAnd (findLoc a spad .write b b.advance 0) fun r => decide (r.2.Nodup ∧
        ((r.1.store 0 r.2 (leBytes (2 ^ a.sz.val) (b.val a.data 0 (szRegs a.sz.val)))).hint a.hint r.2).fits b k = true ∧
        ∀ y ∈ r.2, y.space.irrevocable = false)) = true := by
    cases spad <;> decide +kernel
  rw [Bool.and_eq_true] at key
  obtain ⟨b, hb, h⟩ := some_of key.2
  obtain ⟨⟨runs, once⟩, found⟩ := dec_and h
  obtain ⟨⟨j, xs⟩, hj, written⟩ := ok_of found
  exact ⟨a, s, b, j, 0, xs, key.1, hb, runs, once, hj, of_decide_eq_true written⟩

/-- Host memory at page 3. -/
def baseHost : State :=
  let s := base1 (sr 10 0x30000)
  { s with lwidth := 3, tlb := { entryW 3 3 with entry := BitVec.ofNat 64 (3 * 65536 + 11) } :: s.tlb }

theorem witness_StoreWritesBytes_host : ∃ (a : MemArgs) (s : State) (b j : Iss) (l : Nat) (xs : List Loc),
    let k := MemArgs.kind a 2 true
    s.memOk = true ∧ s.issueOf k = some b ∧ b.runs k = true ∧ b.oneAccess (MemArgs.once a) l ∧
    findLoc a false .write b b.advance l = .ok (j, xs) ∧ xs.Nodup ∧
    ((j.store l xs (leBytes (2 ^ a.sz.val) (b.val a.data l (szRegs a.sz.val)))).hint a.hint xs).fits b k = true ∧
    ∀ y ∈ xs, y.space.irrevocable = true ∧ s.refuses y = false := by
  let a := mA (.v 8)
  let k := MemArgs.kind a 2 true
  obtain ⟨b, hb, h⟩ := some_of (o := baseHost.issueOf k) (p := fun b => decide (b.runs k = true ∧ b.accessLanes (MemArgs.once a) = [0]) &&
      okAnd (findLoc a false .write b b.advance 0) fun r => decide (r.2.Nodup ∧
        ((r.1.store 0 r.2 (leBytes (2 ^ a.sz.val) (b.val a.data 0 (szRegs a.sz.val)))).hint a.hint r.2).fits b k = true ∧
        ∀ y ∈ r.2, y.space.irrevocable = true ∧ baseHost.refuses y = false)) (by decide +kernel)
  have here := dec_and h
  have ⟨⟨j, xs⟩, hj, written⟩ := ok_of here.2
  exact ⟨a, baseHost, b, j, 0, xs, by decide +kernel, hb, here.1.1, here.1.2, hj, of_decide_eq_true written⟩

theorem witness_StoreFrame : ∀ spad : Bool, ∃ (a : MemArgs) (s : State) (b i : Iss) (xs : List Loc),
    let k := MemArgs.kind a (if spad then 1 else 2) true
    s.memOk = true ∧ s.issueOf k = some b ∧ b.runs k = true ∧
    b.advance.storeLanes (findLoc a spad .write b) a.hint (fun l => leBytes (2 ^ a.sz.val) (b.val a.data l (szRegs a.sz.val)))
      (b.accessLanes (MemArgs.once a)) = .ok (i, xs) ∧ i.fits b k = true := by
  intro spad
  let a := { mA (.v 8) with addr := .v 10 }
  let k := MemArgs.kind a (if spad then 1 else 2) true
  let s := base 7#32 (if spad then id else v 10 0x20000)
  have key : (s.memOk && (s.issueOf k).any fun b => b.runs k && okAnd (b.advance.storeLanes (findLoc a spad .write b) a.hint
      (fun l => leBytes (2 ^ a.sz.val) (b.val a.data l (szRegs a.sz.val))) (b.accessLanes (MemArgs.once a))) fun r =>
        r.1.fits b k) = true := by
    cases spad <;> decide +kernel
  simp only [Bool.and_eq_true] at key
  obtain ⟨b, hb, h⟩ := some_of key.2
  simp only [Bool.and_eq_true] at h
  obtain ⟨⟨i, xs⟩, hi, h4⟩ := ok_of h.2
  exact ⟨a, s, b, i, xs, key.1, hb, h.1, hi, h4⟩

def aA : AtomArgs := atomA (.v 8) (.s 10) (.v 12) .add .u32

theorem witness_AtomicReadModifyWrite : ∀ spad past : Bool, ∃ (a : AtomArgs) (s : State) (b j : Iss) (l : Nat) (xs : List Loc),
    let w := a.ty.regs
    let once := a.a.isS && a.b.isS && a.d.isS
    let k : Kind := { g := a.g, srcs := [(a.a, if spad then 1 else 2), (a.b, w)], dsts := [(a.d, w)], once := once }
    s.issueOf k = some b ∧ b.runs k = true ∧ b.oneAccess once l ∧
    (if spad then b.advance.scratch l (ea32 (b.val a.a l 1) a.off.toInt) (4 * w)
      else b.advance.device l (ea64 (b.val a.a l 2) a.off.toInt) (4 * w) a.col .write true) = .ok (j, xs) ∧ xs.Nodup ∧ j.readable xs ∧
    (a.hint.val == 3) = past ∧
    (((((j.loaded xs (a.hint.val == 3)).store l xs (leBytes (4 * w) 1)).hint a.hint xs).writeLane a.d w l 0).raise 0).fits b k = true := by
  intro spad past
  let a := { aA with hint := if past then 3 else 0 }
  let k : Kind := { g := aA.g, srcs := [(aA.a, if spad then 1 else 2), (aA.b, 1)], dsts := [(aA.d, 1)], once := false }
  let s := base1 (if spad then id else sr 10 0x20000)
  have key : ((s.issueOf k).any fun b => decide (b.runs k = true ∧ b.accessLanes false = [0]) &&
      okAnd (if spad then b.advance.scratch 0 (ea32 (b.val aA.a 0 1) aA.off.toInt) 4
        else b.advance.device 0 (ea64 (b.val aA.a 0 2) aA.off.toInt) 4 aA.col .write true) fun r => decide r.2.Nodup && (readB r.1 r.2 &&
        decide ((a.hint.val == 3) = past ∧
          (((((r.1.loaded r.2 (a.hint.val == 3)).store 0 r.2 (leBytes 4 1)).hint a.hint r.2).writeLane aA.d 1 0 0).raise 0).fits b k = true))) = true := by
    cases spad <;> cases past <;> decide +kernel
  obtain ⟨b, hb, h⟩ := some_of key
  obtain ⟨⟨runs, once⟩, found⟩ := dec_and h
  obtain ⟨⟨j, xs⟩, hj, h⟩ := ok_of found
  obtain ⟨apart, h⟩ := dec_and h
  rw [Bool.and_eq_true] at h
  exact ⟨a, s, b, j, 0, xs, hb, runs, once, hj, apart, readB_spec h.1, of_decide_eq_true h.2⟩

def cA : CasArgs := { g := gN, d := .v 8, a := .v 10, b := .v 12, c := .v 14, sz := 2, hint := 3 }

/-- CAS where the old value equals b, and where it does not. -/
theorem witness_AtomicReadModifyWrite_cas : ∀ eq : Bool, ∃ (s : State) (b j : Iss) (l : Nat) (xs : List Loc),
    let k : Kind := { g := cA.g, srcs := [(cA.a, 2), (cA.b, 1), (cA.c, 1)], dsts := [(cA.d, 1)], once := false }
    let old := leNat (xs.map fun x => s.view b.w.chunk x)
    s.issueOf k = some b ∧ b.runs k = true ∧ b.oneAccess false l ∧
    b.advance.device l (b.val cA.a l 2) 4 false .write true = .ok (j, xs) ∧ j.readable xs ∧
    (((if old = b.val cA.b l 1 then ((j.loaded xs (cA.hint.val == 3)).store l xs (leBytes 4 (b.val cA.c l 1))).hint cA.hint xs
        else j.loaded xs (cA.hint.val == 3)).writeLane cA.d 1 l old).fits b k = true) ∧
    decide (old = b.val cA.b l 1) = eq := by
  intro eq
  let k : Kind := { g := cA.g, srcs := [(cA.a, 2), (cA.b, 1), (cA.c, 1)], dsts := [(cA.d, 1)], once := false }
  let s := base1 (v 12 (if eq then 0 else 1) ∘ v 10 0x20000)
  have key : ((s.issueOf k).any fun b => decide (b.runs k = true ∧ b.accessLanes false = [0]) &&
      okAnd (b.advance.device 0 (b.val cA.a 0 2) 4 false .write true) fun r => readB r.1 r.2 && decide (
        let old := leNat (r.2.map fun x => s.view b.w.chunk x)
        ((if old = b.val cA.b 0 1 then ((r.1.loaded r.2 (cA.hint.val == 3)).store 0 r.2 (leBytes 4 (b.val cA.c 0 1))).hint cA.hint r.2
            else r.1.loaded r.2 (cA.hint.val == 3)).writeLane cA.d 1 0 old).fits b k = true
          ∧ decide (old = b.val cA.b 0 1) = eq)) = true := by
    cases eq <;> decide +kernel
  obtain ⟨b, hb, h⟩ := some_of key
  have here := dec_and h
  have ⟨⟨j, xs⟩, hj, h⟩ := ok_of here.2
  rw [Bool.and_eq_true] at h
  exact ⟨s, b, j, 0, xs, hb, here.1.1, here.1.2, hj, readB_spec h.1, of_decide_eq_true h.2⟩

theorem witness_AtomicOperations : (Aty.bf16x2 = .bf16x2 ∨ Aty.bf16x2 = .f16x2) ∧ 0xFFFFFFFF < 2 ^ 32 ∧
    Aty.u32 ≠ .bf16x2 ∧ Aty.u32 ≠ .f16x2 ∧ 0xFFFFFFFF < 2 ^ (32 * Aty.u32.regs) := by decide

theorem witness_RedQueues : ∃ (a : AtomArgs) (s : State) (b i : Iss) (ops : List RedOp),
    let k : Kind := { g := a.g, srcs := [(a.a, 2), (a.b, 1)], once := false }
    let ea (l : Nat) : Nat := ea64 (b.val a.a l 2) a.off.toInt
    let op (l : Nat) (xs : List Loc) : RedOp :=
      { locs := xs, va := ea l, op := a.op, ty := a.ty, value := BitVec.ofNat 64 (b.val a.b l 1), lane := l, pc := b.pc }
    s.issueOf k = some b ∧ b.runs k = true ∧
    b.advance.redLanes (fun j l => j.device l (ea l) 4 a.col .write true) op (b.accessLanes false) = .ok (i, ops) ∧ i.fits b k = true := by
  let a := { aA with d := .v 0, a := .v 10 }
  let k : Kind := { g := a.g, srcs := [(a.a, 2), (a.b, 1)], once := false }
  let s := base 5#32 (v 10 0x20000)
  let ea (b : Iss) (l : Nat) : Nat := ea64 (b.val a.a l 2) a.off.toInt
  let op (b : Iss) (l : Nat) (xs : List Loc) : RedOp :=
    { locs := xs, va := ea b l, op := a.op, ty := a.ty, value := BitVec.ofNat 64 (b.val a.b l 1), lane := l, pc := b.pc }
  have key : ((s.issueOf k).any fun b => b.runs k &&
      okAnd (b.advance.redLanes (fun j l => j.device l (ea b l) 4 a.col .write true) (op b) (b.accessLanes false)) fun r => r.1.fits b k) = true := by
    decide +kernel
  obtain ⟨b, hb, h⟩ := some_of key
  rw [Bool.and_eq_true] at h
  obtain ⟨⟨i, ops⟩, hi, h4⟩ := ok_of h.2
  exact ⟨a, s, b, i, ops, hb, h.1, hi, h4⟩

/-- The base machine with words in its data page. -/
def withMem (s : State) (a n x : Nat) : State := { s with mem := memPutBytes s.mem a (leBytes n x) }

def rA : RingArgs := { g := gN, pd := 2, a := .v 10, data := .v 12, sz := 2 }

/-- A ring of four entries of four bytes at 0x20040 with its head and tail. -/
def ringAt (head tail : Nat) : State :=
  withMem (base1 (v 10 0x20000)) 0x20000 24 (0x20040 + 4 * 2 ^ 64 + 4 * 2 ^ 96 + head * 2 ^ 128 + tail * 2 ^ 160)

/-- A full ring and an empty one: the third and fourth conditions; zeros are no ring. -/
theorem witness_RingInstructions_none : ∀ deq noRing : Bool, ∃ (s : State) (b j : Iss) (l : Nat) (xs : List Loc),
    let k : Kind :=
      if deq then { g := rA.g, srcs := [(rA.a, 2)], dsts := [(rA.data, 1)], once := false, oncePred := some rA.pd.val }
      else { g := rA.g, srcs := [(rA.a, 2), (rA.data, 1)], once := false, oncePred := some rA.pd.val }
    let r := ringSeen s b.w.chunk xs
    s.issueOf k = some b ∧ b.runs k = true ∧ b.oneAccess false l ∧
    b.advance.device l (b.val rA.a l 2) 32 false .read true = .ok (j, xs) ∧ j.readable (xs.take 24) ∧
    (if noRing then r.esz ≠ 4 else if deq then r.tail = r.head else r.cap ≤ (r.tail + 2 ^ 32 - r.head) % 2 ^ 32) ∧
    ((j.loaded (xs.take 24)).ringPred false rA.pd.val l false).fits b k = true := by
  intro deq noRing
  let k : Kind :=
    if deq then { g := rA.g, srcs := [(rA.a, 2)], dsts := [(rA.data, 1)], once := false, oncePred := some rA.pd.val }
    else { g := rA.g, srcs := [(rA.a, 2), (rA.data, 1)], once := false, oncePred := some rA.pd.val }
  let s := if noRing then base1 (v 10 0x20000) else if deq then ringAt 7 7 else ringAt (2 ^ 32 - 2) 2
  have key : ((s.issueOf k).any fun b => decide (b.runs k = true ∧ b.accessLanes false = [0]) &&
      okAnd (b.advance.device 0 (b.val rA.a 0 2) 32 false .read true) fun q => readB q.1 (q.2.take 24) && decide (
        (let r := ringSeen s b.w.chunk q.2
         if noRing then r.esz ≠ 4 else if deq then r.tail = r.head else r.cap ≤ (r.tail + 2 ^ 32 - r.head) % 2 ^ 32) ∧
        ((q.1.loaded (q.2.take 24)).ringPred false rA.pd.val 0 false).fits b k = true)) = true := by
    cases deq <;> cases noRing <;> decide +kernel
  obtain ⟨b, hb, h⟩ := some_of key
  have here := dec_and h
  have ⟨⟨j, xs⟩, hj, h⟩ := ok_of here.2
  rw [Bool.and_eq_true] at h
  exact ⟨s, b, j, 0, xs, hb, here.1.1, here.1.2, hj, readB_spec h.1, of_decide_eq_true h.2⟩

theorem witness_RingInstructions_enq : ∃ (s : State) (b j j' j'' : Iss) (l : Nat) (xs ys zs : List Loc),
    let k : Kind := { g := rA.g, srcs := [(rA.a, 2), (rA.data, 1)], once := false, oncePred := some rA.pd.val }
    let r := ringSeen s b.w.chunk xs
    s.issueOf k = some b ∧ b.runs k = true ∧ b.oneAccess false l ∧
    b.advance.device l (b.val rA.a l 2) 32 false .read true = .ok (j, xs) ∧ j.readable (xs.take 24) ∧
    b.w.arch.p.length = 7 ∧ r.ok 4 = true ∧ (r.tail + 2 ^ 32 - r.head) % 2 ^ 32 < r.cap ∧
    (j.loaded (xs.take 24)).device l ((r.base + r.tail % r.cap * r.esz) % 2 ^ 64) 4 false .write true = .ok (j', ys) ∧
    (j'.store l ys (leBytes 4 (b.val rA.data l 1))).device l (b.val rA.a l 2 + 20) 4 false .write true = .ok (j'', zs) ∧
    ((j''.store l zs (leBytes 4 ((r.tail + 1) % 2 ^ 32))).ringPred false rA.pd.val l true).fits b k = true := by
  let k : Kind := { g := rA.g, srcs := [(rA.a, 2), (rA.data, 1)], once := false, oncePred := some rA.pd.val }
  let s := ringAt (2 ^ 32 - 2) 1
  have key : ((s.issueOf k).any fun b => decide (b.runs k = true ∧ b.accessLanes false = [0] ∧ b.w.arch.p.length = 7) &&
      okAnd (b.advance.device 0 (b.val rA.a 0 2) 32 false .read true) fun q =>
        let r := ringSeen s b.w.chunk q.2
        decide (readB q.1 (q.2.take 24) = true ∧ r.ok 4 = true ∧ (r.tail + 2 ^ 32 - r.head) % 2 ^ 32 < r.cap) &&
        okAnd ((q.1.loaded (q.2.take 24)).device 0 ((r.base + r.tail % r.cap * r.esz) % 2 ^ 64) 4 false .write true) fun q' =>
          okAnd ((q'.1.store 0 q'.2 (leBytes 4 (b.val rA.data 0 1))).device 0 (b.val rA.a 0 2 + 20) 4 false .write true) fun q'' =>
            ((q''.1.store 0 q''.2 (leBytes 4 ((r.tail + 1) % 2 ^ 32))).ringPred false rA.pd.val 0 true).fits b k) = true := by
    decide +kernel
  obtain ⟨b, hb, h⟩ := some_of key
  obtain ⟨⟨runs, once, preds⟩, h⟩ := dec_and h
  have ⟨⟨j, xs⟩, hj, h⟩ := ok_of h
  have ring := dec_and h
  have ⟨⟨j', ys⟩, hj', h⟩ := ok_of ring.2
  have ⟨⟨j'', zs⟩, hj'', fits⟩ := ok_of h
  exact ⟨s, b, j, j', j'', 0, xs, ys, zs, hb, runs, once, hj, readB_spec ring.1.1, preds, ring.1.2.1, ring.1.2.2, hj', hj'', fits⟩

theorem witness_RingInstructions_deq : ∃ (s : State) (b j j' j'' : Iss) (l : Nat) (xs ys zs : List Loc),
    let k : Kind := { g := rA.g, srcs := [(rA.a, 2)], dsts := [(rA.data, 1)], once := false, oncePred := some rA.pd.val }
    let r := ringSeen s b.w.chunk xs
    s.issueOf k = some b ∧ b.runs k = true ∧ b.oneAccess false l ∧
    b.advance.device l (b.val rA.a l 2) 32 false .read true = .ok (j, xs) ∧ j.readable (xs.take 24) ∧
    b.w.arch.p.length = 7 ∧ r.ok 4 = true ∧ r.tail ≠ r.head ∧
    (j.loaded (xs.take 24)).device l ((r.base + r.head % r.cap * r.esz) % 2 ^ 64) 4 false .read true = .ok (j', ys) ∧ j'.readable ys ∧
    ((j'.loaded ys).writeLane rA.data 1 l (leNat (ys.map fun y => s.view b.w.chunk y))).device l (b.val rA.a l 2 + 16) 4 false .write true
      = .ok (j'', zs) ∧
    ((j''.store l zs (leBytes 4 ((r.head + 1) % 2 ^ 32))).ringPred false rA.pd.val l true).fits b k = true := by
  let k : Kind := { g := rA.g, srcs := [(rA.a, 2)], dsts := [(rA.data, 1)], once := false, oncePred := some rA.pd.val }
  let s := ringAt (2 ^ 32 - 1) 0
  have key : ((s.issueOf k).any fun b => decide (b.runs k = true ∧ b.accessLanes false = [0] ∧ b.w.arch.p.length = 7) &&
      okAnd (b.advance.device 0 (b.val rA.a 0 2) 32 false .read true) fun q =>
        let r := ringSeen s b.w.chunk q.2
        decide (readB q.1 (q.2.take 24) = true ∧ r.ok 4 = true ∧ r.tail ≠ r.head) &&
        okAnd ((q.1.loaded (q.2.take 24)).device 0 ((r.base + r.head % r.cap * r.esz) % 2 ^ 64) 4 false .read true) fun q' =>
          readB q'.1 q'.2 &&
          okAnd (((q'.1.loaded q'.2).writeLane rA.data 1 0 (leNat (q'.2.map fun y => s.view b.w.chunk y))).device 0 (b.val rA.a 0 2 + 16)
            4 false .write true) fun q'' =>
            ((q''.1.store 0 q''.2 (leBytes 4 ((r.head + 1) % 2 ^ 32))).ringPred false rA.pd.val 0 true).fits b k) = true := by
    decide +kernel
  obtain ⟨b, hb, h⟩ := some_of key
  have here := dec_and h
  have ⟨⟨j, xs⟩, hj, h⟩ := ok_of here.2
  have ring := dec_and h
  have ⟨⟨j', ys⟩, hj', h⟩ := ok_of ring.2
  rw [Bool.and_eq_true] at h
  have ⟨⟨j'', zs⟩, hj'', fits⟩ := ok_of h.2
  exact ⟨s, b, j, j', j'', 0, xs, ys, zs, hb, here.1.1, here.1.2.1, hj, readB_spec ring.1.1, here.1.2.2, ring.1.2.1, ring.1.2.2, hj',
    readB_spec h.1, hj'', fits⟩

/-- PGENUM, PGSTAT and REGSWEEP at a page of the region, and PREFETCH. -/
theorem witness_PageInstructions : ∀ page : Bool,
    let va := 0x100000 + if page then 0x10000 else 0x20000
    Possible { g := gN, srcs := [(.v 10, 2)], dsts := [(.v 12, 2)], once := false } (fun b => b.oneAccess false 0 ∧
      canonical (b.val (.v 10) 0 2) = true ∧ b.val (.v 10) 0 2 = va ∧ b.s.regionAt b.ctx.part (b.val (.v 10) 0 2 % 2 ^ 57) = some (0, reg0)) ∧
    Possible { g := gN, srcs := [(.v 10, 2)] } (fun b => b.activeLanes = [0] ∧ canonical (b.val (.v 10) 0 2) = true ∧
      b.val (.v 10) 0 2 = va ∧ b.s.regionAt b.ctx.part (b.val (.v 10) 0 2 % 2 ^ 57) = some (0, reg0)) ∧
    Possible { g := gN, srcs := [(.v 10, 2)], endsAfter := true, forbidden := true, once := true } (fun b =>
      canonical (b.val (.v 10) b.lane 2) = true ∧ b.s.regionAt b.ctx.part (b.val (.v 10) b.lane 2 % 2 ^ 57) = some (0, reg0)) ∧
    Possible { g := gN, others := [(.s 10, 2)] } (fun _ => True) := by
  intro page
  let s := base1 (v 10 (0x100000 + if page then 0x10000 else 0x20000))
  refine ⟨possible (s := s) (fun b => decide (b.accessLanes false = [0] ∧ canonical (b.val (.v 10) 0 2) = true ∧
      b.val (.v 10) 0 2 = 0x100000 + (if page then 0x10000 else 0x20000) ∧ b.s.regionAt b.ctx.part (b.val (.v 10) 0 2 % 2 ^ 57) = some (0, reg0)))
      (by cases page <;> decide +kernel) (fun _ h => by simp only [decide_eq_true_eq] at h; exact h),
    possible_if s _ (by cases page <;> decide +kernel), possible_if s _ (by cases page <;> decide +kernel),
    possible_if s _ (by cases page <;> decide +kernel)⟩

theorem witness_PageInstructions_reset : ∃ (s : State) (b : Iss) (z : Xlate),
    let k : Kind := { g := gN, srcs := [(.v 10, 2)], once := false }
    let va := b.val (.v 10) 0 2
    s.issueOf k = some b ∧ b.runs k = true ∧ b.first ∧ b.oneAccess false 0 ∧ canonical va = true ∧
    s.regionAt b.ctx.part (va % 2 ^ 57) = some (0, reg0) ∧ reg0.fwin = none ∧ s.walkOwned b.ctx b.core va = false ∧
    s.xlate b.ctx b.core va .write = .ok z := by
  let k : Kind := { g := gN, srcs := [(.v 10, 2)], once := false }
  let s := base1 (v 10 0x110000)
  have key : ((s.issueOf k).any fun b => decide (b.runs k = true ∧ firstB b = true ∧ b.accessLanes false = [0] ∧ canonical (b.val (.v 10) 0 2) = true ∧
      s.regionAt b.ctx.part (b.val (.v 10) 0 2 % 2 ^ 57) = some (0, reg0) ∧ s.walkOwned b.ctx b.core (b.val (.v 10) 0 2) = false) &&
      okAnd (s.xlate b.ctx b.core (b.val (.v 10) 0 2) .write) fun _ => true) = true := by decide +kernel
  obtain ⟨b, hb, h⟩ := some_of key
  rw [Bool.and_eq_true] at h
  obtain ⟨runs, first, once, canon, region, own⟩ := of_decide_eq_true h.1
  obtain ⟨z, hz, -⟩ := ok_of h.2
  exact ⟨s, b, z, hb, runs, firstB_spec first, once, canon, region, rfl, own, hz⟩

theorem witness_PageInstructions_flush : ∃ (a : MemArgs) (s : State) (b : Iss) (z : Xlate),
    let k : Kind := { g := a.g, srcs := [(a.addr, 2)] }
    s.issueOf k = some b ∧ b.runs k = true ∧ b.first ∧ b.activeLanes = [0] ∧
    s.walkOwned b.ctx b.core (ea64 (b.val a.addr 0 2) a.off.toInt) = false ∧
    s.xlate b.ctx b.core (ea64 (b.val a.addr 0 2) a.off.toInt) .read = .ok z ∧ (b.w.chunk.owns z.loc = true ∨ s.isPoisoned z.loc = false) := by
  let a := mA (.v 0)
  let k : Kind := { g := a.g, srcs := [(a.addr, 2)] }
  let s := base1 (sr 10 0x20000)
  have key : ((s.issueOf k).any fun b => b.runs k && firstB b && decide (b.activeLanes = [0] ∧
        s.walkOwned b.ctx b.core (ea64 (b.val a.addr 0 2) a.off.toInt) = false) &&
      okAnd (s.xlate b.ctx b.core (ea64 (b.val a.addr 0 2) a.off.toInt) .read) fun z =>
        decide (b.w.chunk.owns z.loc = true ∨ s.isPoisoned z.loc = false)) = true := by decide +kernel
  obtain ⟨b, hb, h⟩ := some_of key
  simp only [Bool.and_eq_true, decide_eq_true_eq] at h
  obtain ⟨⟨⟨h1, h2⟩, h3⟩, h4⟩ := h
  obtain ⟨z, hz, h5⟩ := ok_of h4
  exact ⟨a, s, b, z, hb, h1, firstB_spec h2, h3.1, h3.2, hz, of_decide_eq_true h5⟩

theorem all_lanes {m : LaneMask} {p : Nat → Prop} (h : ∀ l, l < 32 → laneOn m l = true → p l) : ∀ l, laneOn m l = true → p l :=
  fun l hl => h l (lane_lt hl) hl

def eachB (m : LaneMask) (p : Nat → Bool) : Bool := (List.range 32).all fun l => !laneOn m l || p l

theorem eachB_spec {m : LaneMask} {p : Nat → Bool} (h : eachB m p = true) : ∀ l, laneOn m l = true → p l = true := by
  intro l hl
  have := List.all_eq_true.mp h l (List.mem_range.mpr (lane_lt hl))
  simpa [hl] using this

def yrec0 : YieldRec :=
  { pc := List.replicate 32 65600, st := List.replicate 32 .ready, waits := [], rstack := [], fairF := 0, fairC := 0, fairNext := none }

theorem witness_NopChunkYieldYret :
    Possible { g := gN } (fun _ => True) ∧ Possible { g := gN, endsAfter := true } (fun _ => True) ∧
    Possible { g := gN, rot := true } (fun b => b.w.arch.ready &&& ~~~b.lanes ≠ 0 ∧ b.w.arch.fairNext = none ∧ b.moved.fairPick = some 65544) ∧
    Possible { g := gN } (fun b => b.w.arch.yrec = none) ∧
    Possible { g := gN } (fun b => b.w.arch.yrec = some yrec0 ∧ b.w.arch.pc.length = 32 ∧ b.w.arch.st.length = 32 ∧
      yrec0.pc.length = 32 ∧ yrec0.st.length = 32) :=
  ⟨possible_if base32 _ (by decide +kernel), possible_if base32 _ (by decide +kernel), possible_if (base1 id) _ (by decide +kernel),
    possible_if base32 _ (by decide +kernel),
    possible_if (base1 fun a => { a with yrec := some yrec0 }) _ (by decide +kernel)⟩

/-- A transaction that lane 0 has entered, at some depth; and one that lane 3 has entered too. -/
def txAt (d : Nat) : Tx :=
  { fallback := 65600, lanes := [{ lane := 0, entered := true, depth := d, trace := [], shared := true, done := false, stopped := false }]
    initial := 1#32, first := 0, lead := [], sEnd := [], clocks := [] }

def txTwo : Tx :=
  { txAt 1 with lanes := (txAt 1).lanes ++ [{ lane := 3, entered := true, depth := 1, trace := [], shared := true, done := false, stopped := false }] }

def baseTx (t : Tx) : State := base1 fun a => { a with tx := some t }

/-- Lane 0 alone is left of the warp. -/
def baseTx1 (d : Nat) : State := base1 fun a => { a with tx := some (txAt d), st := .ready :: List.replicate 31 .exited }

/-- The chunk as it stands, and as the lanes' log leaves it, with the path before it, is within the budget. -/
def pathRoomB (b : Iss) : Bool :=
  [b.w.chunk.touched, (b.log [.lanes]).w.chunk.touched].all fun c => match b.w.arch.tx with
    | none => !b.s.overBudget b.repro b.core b.wid c
    | some t => eachB b.lanes fun l => !b.s.overBudget b.repro b.core b.wid ((t.pathCost l).add c)

theorem pathRoom_ofB {b : Iss} (h : pathRoomB b = true) : b.pathRoom := by
  intro c hc
  have h := List.all_eq_true.mp h c (by simpa using hc)
  cases ht : b.w.arch.tx with
  | none => simpa [ht] using h
  | some t =>
    simp only [ht] at h ⊢
    intro l hl
    simpa using eachB_spec h l hl

theorem witness_Transactions : Possible { g := gN, endsBefore := true } fun b => b.pathRoom :=
  possible (s := base32) pathRoomB (by decide +kernel) fun _ => pathRoom_ofB

theorem witness_Transactions_open : ∀ d, d = 1 ∨ d = 6 → ∀ ends : Bool, ∃ b,
    State.issueOf (baseTx (txAt d)) { g := gN, endsBefore := ends } = some b ∧ b.w.arch.tx = some (txAt d) ∧ b.active ≠ 0 ∧
    b.poisonLane { g := gN, endsBefore := ends } = none ∧ b.pathRoom ∧ (∀ z ∈ b.w.arch.waits, z.lanes &&& b.active = 0) ∧
    (∀ l, laneOn b.active l = true → (txAt d).done l = false ∧ ((txAt d).entered l = true → (txAt d).depth l < 7)) ∧
    (∀ l, laneOn b.active l = true → (txAt d).depth l ≠ 0) ∧
    1 < (txAt d).cap ∧ ∀ e ∈ (txAt d).lanes, e.trace.length + 1 < (txAt d).cap := by
  intro d hd ends
  have key : ((State.issueOf (baseTx (txAt d)) { g := gN, endsBefore := ends }).any fun b => decide (b.w.arch.tx = some (txAt d) ∧ b.active ≠ 0 ∧
      b.poisonLane { g := gN, endsBefore := ends } = none ∧ pathRoomB b = true ∧ b.w.arch.waits = [] ∧ b.active = 1#32)) = true := by
    rcases hd with rfl | rfl <;> cases ends <;> decide +kernel
  obtain ⟨b, hb, h⟩ := some_of key
  obtain ⟨tx, some_, clean, room, waits, lanes⟩ := of_decide_eq_true h
  have cap : 1 < (txAt d).cap ∧ ∀ e ∈ (txAt d).lanes, e.trace.length + 1 < (txAt d).cap := by rcases hd with rfl | rfl <;> decide
  refine ⟨b, hb, tx, some_, clean, pathRoom_ofB room, by simp [waits], all_lanes ?_, all_lanes ?_, cap⟩ <;> rw [lanes] <;> rcases hd with rfl | rfl <;> decide

theorem witness_Transactions_stops : ∃ b, State.issueOf (baseTx txTwo) { g := gN } = some b ∧ b.w.arch.tx = some txTwo ∧ b.active ≠ 0 ∧
    b.poisonLane { g := gN } = none ∧ (∀ l, laneOn b.active l = true → txTwo.depth l ≠ 0) ∧
    ∃ m, m < 32 ∧ txTwo.runs m = true ∧ laneOn b.lanes m = false := by
  have key : ((State.issueOf (baseTx txTwo) { g := gN }).any fun b => decide (b.w.arch.tx = some txTwo ∧ b.active = 1#32 ∧
      b.poisonLane { g := gN } = none ∧ b.lanes = 1#32)) = true := by decide +kernel
  obtain ⟨b, hb, h⟩ := some_of key
  simp only [decide_eq_true_eq] at h
  obtain ⟨h1, h2, h3, h4⟩ := h
  refine ⟨b, hb, h1, by rw [h2]; decide, h3, all_lanes ?_, 3, by decide, by decide, by rw [h4]; decide⟩
  rw [h2]
  decide

/-- TXABORT by the only lane at depth 1, and TXBEGIN by it at depth 7. -/
theorem witness_Transactions_alone : ∀ deep : Bool, ∃ b, let d := if deep then 7 else 1
    State.issueOf (baseTx1 d) { g := gN, endsBefore := deep } = some b ∧ b.w.arch.tx = some (txAt d) ∧ b.active ≠ 0 ∧
    b.poisonLane { g := gN, endsBefore := deep } = none ∧ b.lanes = laneBit 0 ∧ b.w.arch.ready = b.lanes ∧
    0 < b.w.chunk.start.pc.length ∧ 0 < b.w.chunk.start.st.length := by
  intro deep
  have key : ((State.issueOf (baseTx1 (if deep then 7 else 1)) { g := gN, endsBefore := deep }).any fun b => decide
      (b.w.arch.tx = some (txAt (if deep then 7 else 1)) ∧ b.active ≠ 0 ∧ b.poisonLane { g := gN, endsBefore := deep } = none ∧
        b.lanes = laneBit 0 ∧ b.w.arch.ready = b.lanes ∧ 0 < b.w.chunk.start.pc.length ∧ 0 < b.w.chunk.start.st.length)) = true := by
    cases deep <;> decide +kernel
  obtain ⟨b, hb, h⟩ := some_of key
  exact ⟨b, hb, of_decide_eq_true h⟩

theorem witness_Transactions_fate : ∃ x, (baseTx (txAt 1)).warp? W0 = some x ∧ x.arch.tx = some (txAt 1) ∧ (txAt 1).entered 0 = true ∧
    0 < x.chunk.start.pc.length ∧ 0 < x.chunk.start.st.length := by
  have key : (((baseTx (txAt 1)).warp? W0).any fun x => decide (x.arch.tx = some (txAt 1) ∧ (txAt 1).entered 0 = true ∧
      0 < x.chunk.start.pc.length ∧ 0 < x.chunk.start.st.length)) = true := by decide +kernel
  obtain ⟨x, hx, h⟩ := some_of key
  exact ⟨x, hx, of_decide_eq_true h⟩

theorem witness_Branches :
    Possible { g := gN, branch := true } (fun _ => True) ∧
    Possible { g := gN, srcs := [(.v 10, 2)], branch := true } (fun b => ∀ l, laneOn b.active l = true → b.val (.v 10) l 2 % 8 = 0) ∧
    Possible { g := gN } (fun b => (pushRet ((b.pc + 8) % 2 ^ 64) b.active b.w.arch.rstack).map (·.1) = some [{ addr := 65544, mask := 1#32 }]) ∧
    Possible { g := gN, srcs := [(.v 10, 2)], branch := true } (fun b =>
      (pushRet ((b.pc + 8) % 2 ^ 64) b.active b.w.arch.rstack).map (·.1) = some [{ addr := 65544, mask := 0xFFFFFFFF#32 }] ∧
        ∀ l, laneOn b.active l = true → b.val (.v 10) l 2 % 8 = 0) := by
  refine ⟨possible_if base32 _ (by decide +kernel),
    possible (s := base32) (fun b => eachB b.active fun l => b.val (.v 10) l 2 % 8 == 0) (by decide +kernel)
      (fun b h l hl => eq_of_beq (eachB_spec h l hl)), possible_if (base1 id) _ (by decide +kernel),
    possible (s := base32) (fun b => decide ((pushRet ((b.pc + 8) % 2 ^ 64) b.active b.w.arch.rstack).map (·.1)
        = some [{ addr := 65544, mask := 0xFFFFFFFF#32 }]) && eachB b.active fun l => b.val (.v 10) l 2 % 8 == 0)
      (by decide +kernel) fun b h => ?_⟩
  rw [Bool.and_eq_true] at h
  exact ⟨of_decide_eq_true h.1, fun l hl => eq_of_beq (eachB_spec h.2 l hl)⟩

/-- BRX at the last entry of its table. -/
theorem witness_Branches_brx : ∃ (a : BrxArgs) (s : State) (b j : Iss) (xs : List Loc),
    let k : Kind := { g := a.g, srcs := [(a.a, 1), (a.b, 2)], branch := true }
    s.issueOf k = some b ∧ b.runs k = true ∧ b.first ∧ b.oneAccess a.a.isS 0 ∧ (b.reg a.a 0).toNat < a.n.toNat ∧
    (∀ m, laneOn b.active m = true → (b.reg a.a m).toNat < a.n.toNat) ∧
    b.advance.device 0 (ea64 (b.val a.b 0 2) (4 * (b.reg a.a 0).toNat : Nat)) 4 false .read = .ok (j, xs) ∧ j.readable xs := by
  let a : BrxArgs := { g := gN, a := .s 4, b := .s 10, n := 3 }
  let k : Kind := { g := a.g, srcs := [(a.a, 1), (a.b, 2)], branch := true }
  let s := base 0xFFFFFFFF#32 (sr 4 2 ∘ sr 10 0x20000)
  have key : ((s.issueOf k).any fun b => decide (b.runs k = true ∧ firstB b = true ∧ b.accessLanes a.a.isS = [0] ∧
      (b.reg a.a 0).toNat < a.n.toNat) && eachB b.active (fun m => decide ((b.reg a.a m).toNat < a.n.toNat)) &&
      okAnd (b.advance.device 0 (ea64 (b.val a.b 0 2) (4 * (b.reg a.a 0).toNat : Nat)) 4 false .read) fun r => readB r.1 r.2) = true := by
    decide +kernel
  obtain ⟨b, hb, h⟩ := some_of key
  rw [Bool.and_eq_true, Bool.and_eq_true] at h
  obtain ⟨⟨h1, each⟩, reads⟩ := h
  obtain ⟨runs, first, once, index⟩ := of_decide_eq_true h1
  obtain ⟨⟨j, xs⟩, hj, h7⟩ := ok_of reads
  exact ⟨a, s, b, j, xs, hb, runs, firstB_spec first, once, index, fun m hm => of_decide_eq_true (eachB_spec each m hm), hj, readB_spec h7⟩

/-- BRX of an index in v registers, with another entry for a third of the lanes, and of one in an s register. -/
theorem witness_Branches_fold : ∀ once : Bool, ∃ (s : State) (b i : Iss) (ws : List (Nat × List Loc)),
    let a : BrxArgs := { g := gN, a := if once then .s 4 else .v 4, b := .s 10, n := 3 }
    let k : Kind := { g := a.g, srcs := [(a.a, 1), (a.b, 2)], branch := true }
    s.issueOf k = some b ∧ b.runs k = true ∧ b.first ∧ (∀ m, laneOn b.active m = true → (b.reg a.a m).toNat < a.n.toNat) ∧
    b.advance.tableWords a (b.accessLanes a.a.isS) = .ok (i, ws) ∧ ws.length = if once then 1 else 3 := by
  intro once
  let a : BrxArgs := { g := gN, a := if once then .s 4 else .v 4, b := .s 10, n := 3 }
  let k : Kind := { g := a.g, srcs := [(a.a, 1), (a.b, 2)], branch := true }
  let s := base 7#32 (v0 4 2 ∘ v 4 1 ∘ sr 4 2 ∘ sr 10 0x20000)
  obtain ⟨b, hb, h⟩ := some_of (o := s.issueOf k) (p := fun b => decide (b.runs k = true ∧ firstB b = true) &&
    (eachB b.active (fun m => decide ((b.reg a.a m).toNat < a.n.toNat)) &&
      okAnd (b.advance.tableWords a (b.accessLanes a.a.isS)) fun r => decide (r.2.length = if once then 1 else 3)))
    (by cases once <;> decide +kernel)
  obtain ⟨here, h⟩ := dec_and h
  rw [Bool.and_eq_true] at h
  have ⟨⟨i, ws⟩, hi, len⟩ := ok_of h.2
  exact ⟨s, b, i, ws, hb, here.1, firstB_spec here.2, fun m hm => of_decide_eq_true (eachB_spec h.1 m hm), hi, of_decide_eq_true len⟩

def ret0 (r : Nat) (m : LaneMask) : RetEntry := { addr := r, mask := m }

theorem witness_Returns : (ret0 8 1#32).addr = 8 ∧ (ret0 8 1#32).mask &&& 2#32 = 0 ∧ ((ret0 8 1#32).addr ≠ 16 ∨ (ret0 8 1#32).mask &&& 1#32 ≠ 0) ∧
    (ret0 8 1#32 :: List.replicate 30 (ret0 8 1#32)).length < 32 ∧ (ret0 8 1#32 :: List.replicate 31 (ret0 8 1#32)).length = 32 := by decide

theorem witness_Returns_ret : ∀ bit : Bool, Possible { g := gN, srcs := if bit then [(.v 10, 2)] else [] }
    fun b => ∀ l, laneOn b.active l = true → (∃ e ∈ b.w.arch.rstack, laneOn e.mask l = true) ∧ (bit = true → b.val (.v 10) l 2 % 8 = 0) := by
  intro bit
  exact possible (s := base 0xFFFFFFFF#32 fun a => { a with rstack := [ret0 65600 0xFFFF0000#32, ret0 65608 0x0000FFFF#32] })
    (fun b => eachB b.active fun l => decide (∃ e ∈ b.w.arch.rstack, laneOn e.mask l = true) && b.val (.v 10) l 2 % 8 == 0)
    (by cases bit <;> decide +kernel) fun b h l hl => by
      have := eachB_spec h l hl
      rw [Bool.and_eq_true] at this
      exact ⟨of_decide_eq_true this.1, fun _ => eq_of_beq this.2⟩

/-- WSYNC outside its mask; and inside, where lanes of the mask are yet to come and where none are. -/
theorem witness_ExitAndWsync :
    Possible { g := gN, endsAfter := true, forbidden := true } (fun _ => True) ∧
    Possible { g := gN, srcs := [(.s 4, 1)] } (fun b => 0#32 = b.reg (.s 4) 0 ∧ b.active &&& 0#32 = 0) ∧
    ∀ last : Bool, Possible { g := gN, srcs := [] } fun b => b.w.arch.waits = [] ∧ b.w.arch.pc.length = 32 ∧ b.w.arch.st.length = 32 ∧
      b.active &&& ~~~(0 : LaneMask) ≠ 0 ∧ (∀ l, laneOn b.active l = true → b.w.arch.stOf l = .ready) ∧
      decide (~~~(0 : LaneMask) &&& b.w.arch.live &&& ~~~b.active = 0) = last := by
  refine ⟨possible_if base32 _ (by decide +kernel), possible_if base32 _ (by decide +kernel), fun last =>
    possible (s := if last then base32 else base1 id) (fun b => decide (b.w.arch.waits = [] ∧ b.w.arch.pc.length = 32 ∧ b.w.arch.st.length = 32 ∧
      b.active &&& ~~~(0 : LaneMask) ≠ 0 ∧ decide (~~~(0 : LaneMask) &&& b.w.arch.live &&& ~~~b.active = 0) = last) &&
      eachB b.active fun l => b.w.arch.stOf l == .ready) (by cases last <;> decide +kernel) fun b h => ?_⟩
  obtain ⟨⟨h1, h2, h3, h4, h6⟩, h5⟩ := dec_and h
  exact ⟨h1, h2, h3, h4, fun l hl => eq_of_beq (eachB_spec h5 l hl), by simpa using h6⟩

theorem witness_WaitingInstructions : ∀ k ∈ [{ g := gN, endsBefore := true, forbidden := true }], Possible k fun _ => True :=
  possible_all (by decide +kernel)

def recOf (n : Nat) (st : HState) (ts : List Word) : HRec :=
  { num := n, state := st, external := false, flags := 0, tokens := ts, named := ts }

def waitOf (k : WaitKind) : Wait := { lanes := 1#32, active := 1#32, pc := 65536, next := 65544, kind := k }

/-- Lane 0 waits so at the start of its chunk, at beat 5; handle register 2 names operation 5, which has ended in a state, and
region 0 is versioned with its step open. -/
def baseWait (st : HState) (k : WaitKind) : State :=
  let s := base1 fun a => { a with st := updAt (fun _ => .waiting) a.st 0, waits := [waitOf k], h := a.h.set 2 (some { num := 5 }) }
  let s := (s.mapLaunch 0 fun l => { l with recs := [recOf 5 st []] }).mapPart 0 fun p => { p with
    regions := [(0, { reg0 with vers := true, voff := 0x100000, open_ := true, backed := [] })] }
  { s.mapWarp W0 fun x => { x with chunk := { x.chunk with start := x.arch } } with beat := 5 }

def word0 : Loc := { space := .spad 0 0, addr := 0 }

/-- The wait stands, and no squash undoes it. -/
theorem waits_of {s : State} {w : Wait} (h : ((s.warp? W0).any fun x => decide (w ∈ x.arch.waits ∧ x.arch.pc.length = 32 ∧
    x.arch.st.length = 32 ∧ w ∈ x.chunk.start.waits)) = true) : s.firm W0 w ∧ ∃ x, s.waitsAt W0 w x := by
  obtain ⟨x, hx, h⟩ := some_of h
  obtain ⟨h1, h2, h3, h4⟩ := of_decide_eq_true h
  exact ⟨fun y hy => by rw [hx] at hy; cases hy; exact h4, x, hx, h1, h2, h3⟩

def waitKinds : List WaitKind :=
  [.settle [7] [5], .beat 4, .word word0 1, .sleep 5 true, .depdone [7] [5], .ydone [7] [5], .handle { num := 5 } 2 (some 3) false,
   .barWait .core 2 9, .barArrive .core 2 none 9 false, .barArrive .core 2 (some 3) 9 true, .barArrive .pkg 1 none 9 true,
   .stepend 0 0 3, .scrub ⟨0, 1, false⟩ 4]

/-- What each kind of wait asks of the machine, all at once. -/
theorem witness_WaitsEnd : ∀ st, st = .done ∨ st = .failed ∨ st = .cancelled → ∀ k ∈ waitKinds,
    let s := baseWait st k
    (s.firm W0 (waitOf k) ∧ ∃ x, s.waitsAt W0 (waitOf k) x) ∧ ∃ l r, s.launch? 0 = some l ∧ l.rec? 5 = some r ∧ r.state ≠ .pending ∧
      l.handleState { num := 5 } = st ∧ (∀ o ∈ s.ops, o.num ∉ [7]) ∧ 4 < s.beatOf l.ctx ∧ s.beatClear l.ctx 4 = true ∧
      (∀ k, k < 8 → s.isPoisoned (word0.plus k) = false) ∧ leNat (s.bytesAt word0 8) / 2 ^ 48 % 2 ^ 16 ≠ 1 ∧ 5 ≤ s.beatOf l.ctx ∧
      s.phaseOf l.ctx ≠ .yielding ∧ (s.barrier 0 0 .core 2).phase ≠ 9 ∧ 0 ∉ (s.barrier 0 0 .core 2).arrived ∧
      (s.barrier 0 0 .pkg 1).phase ≠ 9 ∧ 0 ∉ (s.barrier 0 0 .pkg 1).arrived ∧ 1 < l.pkgBars.length ∧
      ((s.group? 0 0).any fun g => decide (2 < g.bars.length)) = true ∧ l.ctx.part < s.parts.length ∧
      ((getKey 0 (s.part l.ctx.part).regions).any fun r => r.open_ && !s.stepWaits l.ctx r 0 && !s.stepWaits l.ctx r 1) = true ∧
      s.context? ⟨0, 1, false⟩ = none := by
  intro st hs k hk
  have all : (waitKinds.all fun k => ((baseWait st k).warp? W0).any fun x => decide (waitOf k ∈ x.arch.waits ∧ x.arch.pc.length = 32 ∧
      x.arch.st.length = 32 ∧ waitOf k ∈ x.chunk.start.waits)) = true := by rcases hs with rfl | rfl | rfl <;> decide +kernel
  have rest : (waitKinds.all fun k => let s := baseWait st k; (s.launch? 0).any fun l => (l.rec? 5).any fun r => decide (r.state ≠ .pending ∧
      l.handleState { num := 5 } = st ∧ (∀ o ∈ s.ops, o.num ∉ [7]) ∧ 4 < s.beatOf l.ctx ∧ s.beatClear l.ctx 4 = true ∧
      (∀ k, k < 8 → s.isPoisoned (word0.plus k) = false) ∧ leNat (s.bytesAt word0 8) / 2 ^ 48 % 2 ^ 16 ≠ 1 ∧ 5 ≤ s.beatOf l.ctx ∧
      s.phaseOf l.ctx ≠ .yielding ∧ (s.barrier 0 0 .core 2).phase ≠ 9 ∧ 0 ∉ (s.barrier 0 0 .core 2).arrived ∧
      (s.barrier 0 0 .pkg 1).phase ≠ 9 ∧ 0 ∉ (s.barrier 0 0 .pkg 1).arrived ∧ 1 < l.pkgBars.length ∧
      ((s.group? 0 0).any fun g => decide (2 < g.bars.length)) = true ∧ l.ctx.part < s.parts.length ∧
      ((getKey 0 (s.part l.ctx.part).regions).any fun r => r.open_ && !s.stepWaits l.ctx r 0 && !s.stepWaits l.ctx r 1) = true ∧
      s.context? ⟨0, 1, false⟩ = none)) = true := by rcases hs with rfl | rfl | rfl <;> decide +kernel
  obtain ⟨l, hl, h⟩ := some_of (List.all_eq_true.mp rest k hk)
  obtain ⟨r, hr, h⟩ := some_of h
  exact ⟨waits_of (List.all_eq_true.mp all k hk), l, r, hl, hr, of_decide_eq_true h⟩

/-- A YDONE while its context yields; and a BARA that meets its own bit in the next phase too. -/
theorem witness_WaitsEnd_again :
    (let s := (baseWait .done (.ydone [7] [5])).mapContext stageCtx fun c => { c with phase := .yielding }
     (s.firm W0 (waitOf (.ydone [7] [5])) ∧ ∃ x, s.waitsAt W0 (waitOf (.ydone [7] [5])) x) ∧ s.phaseOf stageCtx = .yielding) ∧
    (let w := waitOf (.barArrive .core 2 none 9 false)
     let s := (baseWait .done w.kind).mapGroup 0 0 fun g => { g with bars := updAt (fun x => { x with arrived := [0] }) g.bars 2 }
     (s.firm W0 w ∧ ∃ x, s.waitsAt W0 w x) ∧ (s.barrier 0 0 .core 2).phase ≠ 9 ∧ 0 ∈ (s.barrier 0 0 .core 2).arrived) :=
  ⟨⟨waits_of (by decide +kernel), by decide +kernel⟩, waits_of (by decide +kernel), by decide +kernel, by decide +kernel⟩

/-- The warp that BRK, WSYNC or TXEND has put into its wait. -/
theorem witness_WaitsEnd_lanes : ∀ k ∈ [WaitKind.brk, .wsync 1#32, .txend],
    ∃ x, (baseWait .done k).warp? W0 = some x ∧ x.arch.waits = [waitOf k] ∧ x.arch.pc.length = 32 ∧ x.arch.st.length = 32 ∧ x.arch.tx = none ∧
      (waitOf k).lanes ≠ 0 ∧ (waitOf k).lanes &&& ~~~1#32 = 0 ∧
      ∀ l, laneOn 1#32 l = true → laneOn (waitOf k).lanes l = true ∨ x.arch.stOf l = .exited := by
  intro k hk
  have all : ([WaitKind.brk, .wsync 1#32, .txend].all fun k => ((baseWait .done k).warp? W0).any fun x => decide (x.arch.waits = [waitOf k] ∧
      x.arch.pc.length = 32 ∧ x.arch.st.length = 32 ∧ x.arch.tx = none ∧ (waitOf k).lanes ≠ 0 ∧ (waitOf k).lanes &&& ~~~1#32 = 0)) = true := by
    decide +kernel
  obtain ⟨x, hx, h⟩ := some_of (List.all_eq_true.mp all k hk)
  obtain ⟨h1, h2, h3, h4, h5, h6⟩ := of_decide_eq_true h
  exact ⟨x, hx, h1, h2, h3, h4, h5, h6, fun _ hl => .inl hl⟩

def barK (cnt : Bool) (lv : Level) (id : Fin 32) : Kind :=
  { g := gN, srcs := if cnt then [(.s 4, 1)] else [], check := fun l _ => BarArgs.legal { g := gN, a := .s 4, lv := lv, cnt := cnt, id := id } l
    endsBefore := true, forbidden := true }

/-- A core barrier that the warp has not reached yet, and one that it has: the last that BARS allows. -/
theorem witness_BarrierInstructions : ∀ cnt arrived : Bool, Possible (barK cnt .core 31) fun b =>
    BarPlaced { g := gN, a := .s 4, lv := .core, cnt := cnt, id := 31 } b ∧
      decide (b.wid.warp ∈ (b.s.barrier b.wid.launch b.wid.group .core 31).arrived) = arrived := by
  intro cnt arrived
  exact possible (s := base32.mapGroup 0 0 fun g => { g with bars := updAt (fun x => { x with arrived := if arrived then [0] else [] }) g.bars 31 })
    (fun b => decide (31 < b.g.bars.length ∧ decide (b.wid.warp ∈ (b.s.barrier b.wid.launch b.wid.group .core 31).arrived) = arrived))
    (by cases cnt <;> cases arrived <;> decide +kernel) fun b h => by
      simp only [decide_eq_true_eq] at h
      exact h

/-- A package barrier, of a launch over the package. -/
theorem witness_BarrierInstructions_package : ∀ cnt arrived : Bool, Possible (barK cnt .pkg 1) fun b =>
    BarPlaced { g := gN, a := .s 4, lv := .pkg, cnt := cnt, id := 1 } b ∧
      decide (b.wid.group * 32 + b.wid.warp ∈ (b.s.barrier b.wid.launch b.wid.group .pkg 1).arrived) = arrived := by
  intro cnt arrived
  exact possible (s := base32.mapLaunch 0 fun l => { l with
      fields := { l.fields with span := 3 }, pkgBars := updAt (fun x => { x with arrived := if arrived then [0] else [] }) l.pkgBars 1 })
    (fun b => decide (1 < b.l.pkgBars.length ∧
      decide (b.wid.group * 32 + b.wid.warp ∈ (b.s.barrier b.wid.launch b.wid.group .pkg 1).arrived) = arrived))
    (by cases cnt <;> cases arrived <;> decide +kernel) fun b h => by
      simp only [decide_eq_true_eq] at h
      exact h

theorem witness_BarrierInstructions_phase : Barrier.fresh.least = none := rfl

/-! #### Class S and the firmware's instructions -/

/-- A queue whose header lies in the data page: LOGCAP, TAIL and HEAD. -/
def baseQueue (cap tail head : Nat) : State :=
  let s := withMem (base 0xFFFFFFFF#32 (v 10 0x20000)) 0x20008 24 (cap + tail * 2 ^ 64 + head * 2 ^ 128)
  { s with queues := [{ key := ⟨0, 3⟩, ctx := stageCtx, header := 0x20000, page := 2, slot := none, target := 0, asked := 0, blocked := false }] }

/-- LAUNCH on a full queue, and on one with its last place free. -/
theorem witness_LaunchInstruction : ∀ full : Bool, ∃ (s : State) (b j1 j2 j3 j4 : Iss) (cap tail head : Nat) (q : Queue) (xs : List Loc),
    let k : Kind := { g := gN, srcs := [(.v 10, 2)], dsts := [(.s 4, 1)], once := true }
    let h := b.val (.v 10) 0 2
    s.issueOf k = some b ∧ b.runs k = true ∧ b.first ∧ b.advance.loadWord (h + 8) = .ok (j1, cap) ∧
    j1.loadWord (h + 16) = .ok (j2, tail) ∧ j2.loadWord (h + 24) = .ok (j3, head) ∧
    (j3.s.queues.find? fun q => q.ctx == b.ctx && q.header == h) = some q ∧
    decide (2 ^ (cap % 256) ≤ (tail + 2 ^ 64 - head) % 2 ^ 64) = full ∧ j3.headerWord (h + 16) .write = .ok (j4, xs) := by
  intro full
  let k : Kind := { g := gN, srcs := [(.v 10, 2)], dsts := [(.s 4, 1)], once := true }
  let s := baseQueue 2 (if full then 7 else 6) 3
  have key : ((s.issueOf k).any fun b => let h := b.val (.v 10) 0 2
      b.runs k && firstB b && okAnd (b.advance.loadWord (h + 8)) fun r1 => okAnd (r1.1.loadWord (h + 16)) fun r2 =>
        okAnd (r2.1.loadWord (h + 24)) fun r3 => ((r3.1.s.queues.find? fun q => q.ctx == b.ctx && q.header == h).any fun _ =>
          decide (2 ^ (r1.2 % 256) ≤ (r2.2 + 2 ^ 64 - r3.2) % 2 ^ 64) == full) && okAnd (r3.1.headerWord (h + 16) .write) fun _ => true) = true := by
    cases full <;> decide +kernel
  obtain ⟨b, hb, h⟩ := some_of key
  simp only [Bool.and_eq_true] at h
  obtain ⟨⟨j1, cap⟩, e1, h'⟩ := ok_of h.2
  obtain ⟨⟨j2, tail⟩, e2, h'⟩ := ok_of h'
  obtain ⟨⟨j3, head⟩, e3, h'⟩ := ok_of h'
  simp only [Bool.and_eq_true] at h'
  obtain ⟨q, hq, e4⟩ := some_of h'.1
  obtain ⟨⟨j4, xs⟩, e5, -⟩ := ok_of h'.2
  exact ⟨s, b, j1, j2, j3, j4, cap, tail, head, q, xs, hb, h.1.1, firstB_spec h.1.2, e1, e2, e3, hq, eq_of_beq e4, e5⟩

def noFault (b : Iss) : Prop := b.l.fault = none ∧ b.l.saveInvalid = false ∧ b.w.fault = none

theorem witness_TrapsAndIllegals :
    Possible { g := gN } (fun b => noFault b) ∧ Possible { g := gN, endsAfter := true } (fun b => b.l.debug = false ∧ noFault b) ∧
    Possible { g := { p := 7, neg := false } } (fun b => b.l.fault = none ∧ b.l.saveInvalid = false ∧ b.repro = false) ∧
    Possible { g := gN, endsAfter := true } (fun b => b.l.debug = true) ∧
    ∀ ctlrd : Bool, ∃ b, base32.issueOf (sysKind gN [(.s 4, 1)] [(.s 6, if ctlrd then 2 else 1)]) = some b ∧
      regWithin b.l.fields.regs (.s 6) (if ctlrd then 2 else 1) = true ∧ regWithin b.l.fields.regs (.s 4) 1 = true ∧
      b.ctx.fw = false ∧ b.repro = false ∧ b.l.fault = none ∧ b.l.saveInvalid = false := by
  refine ⟨possible (s := base32) (fun b => decide (b.l.fault = none ∧ b.l.saveInvalid = false ∧ b.w.fault = none)) (by decide +kernel)
      (fun b h => by simp only [decide_eq_true_eq] at h; exact h),
    possible (s := base32) (fun b => decide (b.l.debug = false ∧ b.l.fault = none ∧ b.l.saveInvalid = false ∧ b.w.fault = none)) (by decide +kernel)
      (fun b h => by simp only [decide_eq_true_eq] at h; exact h),
    possible_if base32 _ (by decide +kernel), possible_if (base32.mapLaunch 0 fun l => { l with debug := true }) _ (by decide +kernel), ?_⟩
  intro ctlrd
  have key : ((base32.issueOf (sysKind gN [(.s 4, 1)] [(.s 6, if ctlrd then 2 else 1)])).any fun b => decide (
      regWithin b.l.fields.regs (.s 6) (if ctlrd then 2 else 1) = true ∧ regWithin b.l.fields.regs (.s 4) 1 = true ∧
      b.ctx.fw = false ∧ b.repro = false ∧ b.l.fault = none ∧ b.l.saveInvalid = false)) = true := by cases ctlrd <;> decide +kernel
  obtain ⟨b, hb, h⟩ := some_of key
  exact ⟨b, hb, of_decide_eq_true h⟩

/-- The launch is the firmware's. -/
def baseFw (f : Arch → Arch) : State :=
  let s := (base 0xFFFFFFFF#32 f).mapLaunch 0 fun l => { l with ctx := firmwareCtx }
  { s with tlb := s.tlb.map fun t => { t with ctx := firmwareCtx } }

theorem witness_FirmwareInstructions :
    Possible { g := gN, srcs := [(.s 4, 1)], dsts := [(.s 6, 2)], firmware := true, endsBefore := true, forbidden := true }
      (fun b => (b.reg (.s 4) 0).toNat = 0x1FFFFF8 ∧ (b.reg (.s 4) 0).toNat % 8 = 0 ∧ (b.reg (.s 4) 0).toNat < 0x2000000) ∧
    ∃ b, (baseFw (sr 4 0x10418)).issueOf { g := gN, srcs := [(.s 4, 1), (.s 6, 2)], firmware := true, endsBefore := true, forbidden := true } = some b ∧
      b.runs { g := gN, srcs := [(.s 4, 1), (.s 6, 2)], firmware := true, endsBefore := true, forbidden := true } = true ∧
      (b.reg (.s 4) 0).toNat % 8 = 0 ∧ (b.reg (.s 4) 0).toNat < 0x2000000 ∧
      (((baseFw (sr 4 0x10418)).unissued.controlWrite (some b.wid) (b.reg (.s 4) 0).toNat (b.val (.s 6) 0 2)).1.warp? b.wid).isSome = true ∧
      (baseFw (sr 4 0x10418)).unissued.writeHeld (b.reg (.s 4) 0).toNat (b.val (.s 6) 0 2) = false := by
  refine ⟨possible_if (baseFw (sr 4 0x1FFFFF8)) _ (by decide +kernel), ?_⟩
  obtain ⟨b, hb, h⟩ := some_of (o := (baseFw (sr 4 0x10418)).issueOf
      { g := gN, srcs := [(.s 4, 1), (.s 6, 2)], firmware := true, endsBefore := true, forbidden := true })
    (p := fun b => decide (b.runs { g := gN, srcs := [(.s 4, 1), (.s 6, 2)], firmware := true, endsBefore := true, forbidden := true } = true ∧
      (b.reg (.s 4) 0).toNat % 8 = 0 ∧ (b.reg (.s 4) 0).toNat < 0x2000000 ∧
      (((baseFw (sr 4 0x10418)).unissued.controlWrite (some b.wid) (b.reg (.s 4) 0).toNat (b.val (.s 6) 0 2)).1.warp? b.wid).isSome = true ∧
      (baseFw (sr 4 0x10418)).unissued.writeHeld (b.reg (.s 4) 0).toNat (b.val (.s 6) 0 2) = false))
    (by decide +kernel)
  exact ⟨b, hb, of_decide_eq_true h⟩

theorem witness_FirmwareInstructions_audit : ∃ (s : State) (b j : Iss) (xs : List Loc),
    let k : Kind := { g := gN, srcs := [(.s 10, 2), (.s 4, 1)], dsts := [(.s 6, 2)], firmware := true, endsBefore := true, forbidden := true }
    s.issueOf k = some b ∧ b.runs k = true ∧ 0x8000 ≤ (b.reg (.s 4) 0).toNat % 2 ^ 16 ∧ s.rollFree ≠ 0 ∧
    Iss.device { b.advance with irrev := true } b.lane (b.val (.s 10) 0 2) 128 false .read = .ok (j, xs) ∧ j.readable xs := by
  let k : Kind := { g := gN, srcs := [(.s 10, 2), (.s 4, 1)], dsts := [(.s 6, 2)], firmware := true, endsBefore := true, forbidden := true }
  let s := baseFw (sr 4 0x18000 ∘ sr 10 0x20000)
  have key : (s.rollFree != 0 && (s.issueOf k).any fun b => b.runs k && decide (0x8000 ≤ (b.reg (.s 4) 0).toNat % 2 ^ 16) &&
      okAnd (Iss.device { b.advance with irrev := true } b.lane (b.val (.s 10) 0 2) 128 false .read) fun r => readB r.1 r.2) = true := by
    decide +kernel
  simp only [Bool.and_eq_true, bne_iff_ne] at key
  obtain ⟨b, hb, h⟩ := some_of key.2
  simp only [Bool.and_eq_true, decide_eq_true_eq] at h
  obtain ⟨⟨j, xs⟩, hj, h5⟩ := ok_of h.2
  exact ⟨s, b, j, xs, hb, h.1.1, h.1.2, key.1, hj, readB_spec h5⟩

def kScrub : Kind := { g := gN, srcs := [(.s 4, 1)], dsts := [(.s 6, 1)], firmware := true, endsBefore := true, forbidden := true }

/-- The ownership table stands in the last page of the memory. -/
def withRot (s : State) : State := { s with rotAt := some 0x40000000 }

/-- SCRUB of a context that has pages. -/
theorem witness_FirmwareInstructions_scrub : ∃ (s : State) (b : Iss),
    let id := (b.reg (.s 4) 0).toNat % 2 ^ 11
    s.issueOf kScrub = some b ∧ b.runs kScrub = true ∧ id < 1024 ∧ s.context? (ctxOfId id) = some stageContext ∧ stageContext.scrubbing = false ∧
    s.hasLaunch (ctxOfId id) = false ∧ s.rollFree ≠ 0 ∧ s.memOk = true ∧ s.ctxPages (ctxOfId id) ≠ [] := by
  let s := (withRot (baseFw id)).setRot 9 { RotEntry.reset with scrb := false, cls := 1 }
  obtain ⟨b, hb, h⟩ := some_of (o := s.issueOf kScrub) (p := fun b => let id := (b.reg (.s 4) 0).toNat % 2 ^ 11
      decide (b.runs kScrub = true ∧ id < 1024 ∧ s.context? (ctxOfId id) = some stageContext ∧ stageContext.scrubbing = false ∧
        s.hasLaunch (ctxOfId id) = false ∧ s.rollFree ≠ 0 ∧ s.memOk = true ∧ s.ctxPages (ctxOfId id) ≠ [])) (by decide +kernel)
  exact ⟨s, b, hb, of_decide_eq_true h⟩

/-- SCRUB that cannot begin: of no context, and of one that has a launch. -/
theorem witness_FirmwareInstructions_why : ∀ n, n = 1 ∨ n = 2 → Possible kScrub fun b =>
    let id := (b.reg (.s 4) 0).toNat % 2 ^ 11
    (match if id < 1024 then b.s.context? (ctxOfId id) else none with
      | none => 2
      | some c => if c.scrubbing then 0 else if b.s.hasLaunch (ctxOfId id) then 1 else if b.s.rollFree = 0 then 3 else 0) = n := by
  intro n hn
  rcases hn with rfl | rfl
  · exact possible_if { baseFw id with launches := (baseFw id).launches ++ [stageLaunch 1] } _ (by decide +kernel)
  · exact possible_if (baseFw (sr 4 1024)) _ (by decide +kernel)

/-! #### Classes A and T -/

/-- Two rows of sixteen bytes from the data page to scratchpad. -/
def cpA : CopyArgs := { copyA with pr := .v 0, aw := .v 0 }

theorem witness_CopyIssues :
    let srcs := [(cpA.sa, if cpA.ssp then 1 else 2), (cpA.da, if cpA.dsp then 1 else 2), (cpA.gr, 2)]
      ++ ([cpA.pr, cpA.ra].filter Reg.isS).map (fun r => (r, 2)) ++ ([cpA.aw].filter Reg.isS).map (fun r => (r, 1))
    Possible { g := cpA.g, size := 16, srcs := srcs, forbidden := true } fun b => let c := CopyArgs.command cpA b
      b.s.hasCopyEngine b.ctx b.core = true ∧ c.aligned = true ∧ c.badColumn b.s b.ctx.part = false ∧ c.sizesOk = true ∧
        c.within b.l.portion = true ∧ c.pageCount ≤ 4096 :=
  possible_if ((base 0xFFFFFFFF#32 (sr 4 0x20000 ∘ sr 8 16 ∘ sr 9 2)).mapPart 0 fun p => { p with ceng := 1 }) _ (by decide +kernel)

def baseHandle (st : HState) : State :=
  (base 0xFFFFFFFF#32 fun a => { a with h := a.h.set 2 (some { num := 5 }) }).mapLaunch 0 fun l => { l with recs := [recOf 5 st []] }

/-- The context is reproducible. -/
def inTurns (s : State) : State := s.mapContext stageCtx fun c => { c with repro := true }

/-- A handle of an operation that has ended, and of one that is pending, in both modes. -/
theorem witness_HandleWaits : ∀ st ∈ [HState.done, .failed, .cancelled, .pending], ∀ rep : Bool,
    Possible { g := gN, reads := [.h 2], forbidden := true } fun b => b.w.arch.h.getD 2 none = some { num := 5 } ∧
      Item.h 2 ∉ b.w.chunk.logged ∧ b.l.handleState { num := 5 } = st ∧ b.repro = rep ∧ 5 ∉ b.w.arch.merged := by
  intro st hs rep
  refine possible_if (if rep then inTurns (baseHandle st) else baseHandle st) _ ?_
  revert st
  cases rep <;> decide +kernel

theorem witness_HandleTokens :
    Possible { g := gN, reads := [.h 2], once := true } (fun b => b.w.arch.h.getD 2 none = some { num := 5 }) ∧
    Possible { g := gN, reads := [.h 2], dsts := [(.s 4, 1)], once := true, onceReg := some (.s 4) } (fun b =>
      b.w.arch.h.getD 2 none = some { num := 5 } ∧
        (b.l.recs.flatMap fun r => r.named).length + (b.s.madeTokens b.l).length + b.w.chunk.queued.length < 2 ^ 32) :=
  ⟨possible_if (baseHandle .pending) _ (by decide +kernel), possible_if (baseHandle .pending) _ (by decide +kernel)⟩

/-- HADOPT of a token that is outstanding. -/
theorem witness_HandleTokens_adopt : Possible { g := gN, srcs := [(.s 4, 1)], once := true } fun b => b.tokenRec (b.reg (.s 4) 0) = some 5 :=
  possible_if ((base1 (sr 4 77)).mapLaunch 0 fun l => { l with recs := [recOf 3 .pending [76], recOf 5 .pending [77]] }) _ (by decide +kernel)

theorem witness_ArrivalWords : ∃ (s : State) (b j : Iss) (xs : List Loc),
    let k : Kind := { g := gN, srcs := [(.s 5, 1), (.s 6, 1)], once := true }
    s.issueOf k = some b ∧ b.runs k = true ∧ b.first ∧ (b.reg (.s 6) 0).toNat / 2 ^ 23 % 2 ^ 8 = 0 ∧
    b.advance.scratch b.lane (b.reg (.s 5) 0).toNat 8 = .ok (j, xs) ∧ j.readable xs := by
  let k : Kind := { g := gN, srcs := [(.s 5, 1), (.s 6, 1)], once := true }
  let s := base 0xFFFFFFFF#32 (sr 5 1016 ∘ sr 6 0x807FFFFF)
  obtain ⟨b, hb, h⟩ := some_of (o := s.issueOf k) (p := fun b => b.runs k && firstB b && decide ((b.reg (.s 6) 0).toNat / 2 ^ 23 % 2 ^ 8 = 0) &&
    okAnd (b.advance.scratch b.lane (b.reg (.s 5) 0).toNat 8) fun r => readB r.1 r.2) (by decide +kernel)
  simp only [Bool.and_eq_true, decide_eq_true_eq] at h
  obtain ⟨⟨j, xs⟩, hj, h5⟩ := ok_of h.2
  exact ⟨s, b, j, xs, hb, h.1.1.1, firstB_spec h.1.1.2, h.1.2, hj, readB_spec h5⟩

theorem witness_ArrivalWords_await : Possible { g := gN, srcs := [(.s 5, 1), (.s 6, 1)], endsBefore := true, forbidden := true } fun b =>
    (b.reg (.s 5) 0).toNat % 8 = 0 ∧ (b.reg (.s 5) 0).toNat + 8 ≤ b.l.portion ∧
      ∀ n, n < 8 → b.s.isPoisoned { space := .spad b.wid.launch b.wid.group, addr := (b.reg (.s 5) 0).toNat + n } = false :=
  possible_if (base 0xFFFFFFFF#32 (sr 5 1016)) _ (by decide +kernel)

/-- One NDONE, loaded at the store's last word. -/
theorem witness_NearBankIssues : ∃ (s : State) (b j : Iss) (ws : List Nat) (st : List (Word × Bool)),
    let k : Kind := { g := gN, srcs := [(.s 10, 2), (.s 4, 1)], forbidden := true }
    let x := (b.reg (.s 4) 0).toNat
    s.issueOf k = some b ∧ b.runs k = true ∧ b.first ∧ b.val (.s 10) 0 2 % 4 = 0 ∧ x / 2 ^ 17 = 0 ∧ 0 < x / 2 ^ 8 % 2 ^ 9 ∧
    x % 2 ^ 8 + x / 2 ^ 8 % 2 ^ 9 ≤ 256 ∧ b.advance.blockWords (b.val (.s 10) 0 2) (x / 2 ^ 8 % 2 ^ 9) = .ok (j, ws) ∧
    nbCheck (x % 2 ^ 8) ws = some st := by
  let k : Kind := { g := gN, srcs := [(.s 10, 2), (.s 4, 1)], forbidden := true }
  let s := withMem (base 0xFFFFFFFF#32 (sr 10 0x20000 ∘ sr 4 0x1FF)) 0x20000 4 0x5C000000
  obtain ⟨b, hb, h⟩ := some_of (o := s.issueOf k) (p := fun b => let x := (b.reg (.s 4) 0).toNat
      decide (firstB b = true ∧ b.runs k = true ∧ b.val (.s 10) 0 2 % 4 = 0 ∧ x / 2 ^ 17 = 0 ∧ 0 < x / 2 ^ 8 % 2 ^ 9 ∧
        x % 2 ^ 8 + x / 2 ^ 8 % 2 ^ 9 ≤ 256) && okAnd (b.advance.blockWords (b.val (.s 10) 0 2) (x / 2 ^ 8 % 2 ^ 9)) fun r =>
        (nbCheck (x % 2 ^ 8) r.2).any fun _ => true) (by decide +kernel)
  obtain ⟨⟨h2, h1, h3, h4, h5, h6⟩, h7⟩ := dec_and h
  obtain ⟨⟨j, ws⟩, hj, h8⟩ := ok_of h7
  obtain ⟨st, hst, -⟩ := some_of h8
  exact ⟨s, b, j, ws, st, hb, h1, firstB_spec h2, h3, h4, h5, h6, hj, hst⟩

theorem witness_NearBankIssues_run : ∃ (s : State) (b j : Iss) (d : Nat),
    let k : Kind := { g := gN, srcs := [(.s 10, 2)], forbidden := true }
    let r := runDesc (b.val (.s 10) 0 2) d
    s.issueOf k = some b ∧ b.runs k = true ∧ b.first ∧ b.advance.block (b.val (.s 10) 0 2) 128 = .ok (j, d) ∧
    (∀ x ∈ r.bases, x % 2048 = 0) ∧ r.ok d = true ∧ s.canStart b.ctx.part r.entry = true := by
  let k : Kind := { g := gN, srcs := [(.s 10, 2)], forbidden := true }
  let s := { (withMem (base 0xFFFFFFFF#32 (sr 10 0x20000)) 0x20000 16 (2 ^ 32 + 0x30800 * 2 ^ 64)).mapPart 0 (fun p => { p with stalls := 1 }) with
    nbStore := List.replicate 8 [(0x5C000000#32, true)] }
  obtain ⟨b, hb, h⟩ := some_of (o := s.issueOf k) (p := fun b => b.runs k && firstB b && okAnd (b.advance.block (b.val (.s 10) 0 2) 128) fun q =>
      let r := runDesc (b.val (.s 10) 0 2) q.2
      decide ((∀ x ∈ r.bases, x % 2048 = 0) ∧ r.ok q.2 = true ∧ s.canStart b.ctx.part r.entry = true)) (by decide +kernel)
  simp only [Bool.and_eq_true] at h
  obtain ⟨⟨j, d⟩, hj, h8⟩ := ok_of h.2
  exact ⟨s, b, j, d, hb, h.1.1, firstB_spec h.1.2, hj, of_decide_eq_true h8⟩

theorem witness_NearBankIssues_coll : ∃ (s : State) (b j : Iss) (d : Nat),
    let k : Kind := { g := gN, srcs := [(.s 10, 2)], forbidden := true }
    let c := collDesc d
    s.issueOf k = some b ∧ b.runs k = true ∧ b.first ∧ b.advance.block (b.val (.s 10) 0 2) 64 = .ok (j, d) ∧
    c.src % 4 = 0 ∧ c.dst % 4 = 0 ∧ c.result % 8 = 0 ∧ c.ok d s.pkg = true := by
  let k : Kind := { g := gN, srcs := [(.s 10, 2)], forbidden := true }
  let s := withMem (base 0xFFFFFFFF#32 (sr 10 0x20000)) 0x20000 40 (2 ^ 32 + 0x20400 * 2 ^ 64 + 0x20800 * 2 ^ 128 + 0x20C00 * 2 ^ 192 + 2 ^ 256)
  obtain ⟨b, hb, h⟩ := some_of (o := s.issueOf k) (p := fun b => b.runs k && firstB b && okAnd (b.advance.block (b.val (.s 10) 0 2) 64) fun q =>
      let c := collDesc q.2
      decide (c.src % 4 = 0 ∧ c.dst % 4 = 0 ∧ c.result % 8 = 0 ∧ c.ok q.2 s.pkg = true)) (by decide +kernel)
  simp only [Bool.and_eq_true] at h
  obtain ⟨⟨j, d⟩, hj, h8⟩ := ok_of h.2
  exact ⟨s, b, j, d, hb, h.1.1, firstB_spec h.1.2, hj, of_decide_eq_true h8⟩

def versR (o f : Bool) : Region := { reg0 with vers := true, voff := 0x100000, open_ := o, fail := f, backed := [] }
def baseStep (o f : Bool) (flag : Nat) : State :=
  (base 0xFFFFFFFF#32 (sr 10 0x110000 ∘ sr 4 flag)).mapPart 0 fun p => { p with regions := [(0, versR o f)] }

/-- A versioned region, open and closed; STEPEND with and without its flag, and after a failure. -/
theorem witness_StepTransactions : ∀ o f g : Bool, ∃ b,
    let k : Kind := { g := gN, srcs := [(.s 10, 2), (.s 4, 1)], endsBefore := true, forbidden := true }
    let s := baseStep o f (if g then 1 else 0)
    s.issueOf k = some b ∧ b.runs k = true ∧ s.issueOf { k with srcs := [(.s 10, 2)] } = some b ∧
    b.runs { k with srcs := [(.s 10, 2)] } = true ∧ s.versRegion b.ctx (b.val (.s 10) 0 2) = some (0, versR o f) ∧
    getKey 0 (s.part b.ctx.part).regions = some (versR o f) ∧ b.ctx.part < s.parts.length ∧ b.s.stepWaits b.ctx (versR o f) (b.reg (.s 4) 0) = false ∧
    decide (b.reg (.s 4) 0 = 0) = !g := by
  intro o f g
  let k : Kind := { g := gN, srcs := [(.s 10, 2), (.s 4, 1)], endsBefore := true, forbidden := true }
  let s := baseStep o f (if g then 1 else 0)
  have key : ((s.issueOf k).any fun b => decide (b.runs k = true ∧
    b.runs { k with srcs := [(.s 10, 2)] } = true ∧ s.versRegion b.ctx (b.val (.s 10) 0 2) = some (0, versR o f) ∧
    getKey 0 (s.part b.ctx.part).regions = some (versR o f) ∧ b.ctx.part < s.parts.length ∧ b.s.stepWaits b.ctx (versR o f) (b.reg (.s 4) 0) = false ∧
    decide (b.reg (.s 4) 0 = 0) = !g)) = true := by cases o <;> cases f <;> cases g <;> decide +kernel
  obtain ⟨b, hb, h⟩ := some_of key
  obtain ⟨h1, h2, h3⟩ := of_decide_eq_true h
  exact ⟨b, hb, h1, hb, h2, h3⟩

theorem witness_TileInstructions :
    (∀ k ∈ [{ g := gN, check := fun l w => decide (1 < 2 ^ l.fields.warps) && (1#32).getLsbD w.warp },
      { g := gN, check := fun l _ => decide (0x8001 < 2 ^ l.fields.tiles), forbidden := true }], Possible k fun _ => True) ∧
    (let a : MmaArgs := mmaA
     let vals (b : Iss) : List Word := [if a.asrc then 0 else b.sval a.ar, b.sval a.br, b.sval a.sa, b.sval a.sb]
     Possible { g := a.g, size := 16, srcs := ([a.ar, a.br, a.sa, a.sb].filter Reg.isS).map fun r => (r, 1), reads := [.gang], forbidden := true
                check := fun l _ => decide (a.dt.val < l.fields.tiles) && (!a.asrc || decide (a.ar.num < l.fields.tiles)) }
      fun b => ∀ o ∈ mmaOperands a (vals b), o.base % 16 = 0 ∧ (∀ y, o.scale = some y → y % 2 = 0) ∧ ∀ r ∈ o.ranges, r.1 + r.2 ≤ b.l.portion) ∧
    (let a : AccArgs := { g := gN, h := 1, a := .s 4, tile := 15, fmt := .f32, rm := .rne, sat := false, pitch := 0 }
     Possible { g := a.g, srcs := [(a.a, 1)], check := fun l _ => decide (a.tile.val < l.fields.tiles), forbidden := true } fun b =>
      (b.reg a.a 0).toNat % 16 = 0 ∧ (AccArgs.range a (b.reg a.a 0).toNat).1 + (AccArgs.range a (b.reg a.a 0).toNat).2 ≤ b.l.portion) ∧
    ∀ w, w = 1 ∨ w = 2 → Possible { g := gN, dsts := [(.v 8, 8 * w), (.s 6, 1)], check := fun l _ => decide (15 < l.fields.tiles) }
      fun b => b.g.tiles[15]? = some Tile.fresh ∧ Tile.fresh.poison = false ∧
        (b.repro = false ∨ b.s.tileOps b.wid.launch b.wid.group 15 = []) := by
  refine ⟨possible_all (by decide +kernel),
    possible (s := base32) (fun b => decide (∀ o ∈ mmaOperands mmaA [b.sval mmaA.ar, b.sval mmaA.br, b.sval mmaA.sa, b.sval mmaA.sb],
      o.base % 16 = 0 ∧ (∀ y ∈ o.scale, y % 2 = 0) ∧ ∀ r ∈ o.ranges, r.1 + r.2 ≤ b.l.portion)) (by decide +kernel) fun b h => of_decide_eq_true h,
    possible_if base32 _ (by decide +kernel), fun w hw => possible_if base32 _ ?_⟩
  rcases hw with rfl | rfl <;> decide +kernel

/-- An operation of a launch at its tile. -/
def opOf (n : Nat) (k : OpKind) : Op :=
  { num := n, launch := 0, group := 0, warp := 0, kind := k, recs := [(0, n)], pc := 65536, lane := 0, publishRound := none, beat := 0, seq := 0
    sources := [], dests := [], data := [], pins := [], shadow := none, setTags := [], credit := 0, failed := false, finished := false, poolSince := none }

/-- ACCRD in reproducible mode, beside a released ACCZ on its tile. -/
theorem witness_TileInstructions_wait : ∃ b : Iss,
    let z : TileOp := { kind := .accz { g := gT, mask := 1 } 0, vals := [], mask := 0, step := 0, snap := [], tags := [], replays := 0, flags := 0 }
    let s : State := { inTurns base32 with ops := [opOf 3 (.tile z)] }
    let k : Kind := { g := gN, dsts := [(.v 8, 8), (.s 6, 1)], check := fun l _ => decide (0 < l.fields.tiles) }
    s.issueOf k = some b ∧ b.runs k = true ∧ b.repro = true ∧ b.s.tileOps b.wid.launch b.wid.group 0 ≠ [] := by
  let z : TileOp := { kind := .accz { g := gT, mask := 1 } 0, vals := [], mask := 0, step := 0, snap := [], tags := [], replays := 0, flags := 0 }
  let k : Kind := { g := gN, dsts := [(.v 8, 8), (.s 6, 1)], check := fun l _ => decide (0 < l.fields.tiles) }
  obtain ⟨b, hb, h⟩ := some_of (o := State.issueOf { inTurns base32 with ops := [opOf 3 (.tile z)] } k) (p := fun b => decide (b.runs k = true ∧ b.repro = true ∧
    b.s.tileOps b.wid.launch b.wid.group 0 ≠ [])) (by decide +kernel)
  exact ⟨b, hb, of_decide_eq_true h⟩

/-! #### The near-bank tier -/

/-- A run of one stall over two rows of one stream, at the first of them. -/
def rowLoc (k : Nat) : Loc := { space := .dev, addr := 0x20000 + 2048 * k }
def nearRun (f : Run → Run) (g : StallRun → StallRun) : State :=
  let s := { base1 id with issuer := none }
  let r : Run :=
    { num := 0, part := 0, ctx := stageCtx, op := some 4, launch := 0
      desc := { at_ := 0x20000, entry := 0, streams := 1, wmask := 1, rows := 2, bases := [0x20000], args := List.replicate 16 7 }
      pinned := true, locs := [[rowLoc 0, rowLoc 1]], stalls := [g { StallRun.fresh 0 [0, 1] 0 with phase := .running }], nf := false, flags := 0 }
  { s with runs := [f r], nextRun := 1, focus := some (0, 0) }

/-- A stall is in focus where `cond` holds. -/
def Focused (cond : State → Run → StallRun → Prop) : Prop := ∃ s r x, State.focused s = some (r, x) ∧ cond s r x

theorem focused_if (s : State) {cond : State → Run → StallRun → Prop} (c : State → Run → StallRun → Bool)
    (h : (s.focused.any fun p => c s p.1 p.2) = true) (hc : ∀ r x, c s r x = true → cond s r x) : Focused cond := by
  obtain ⟨⟨r, x⟩, hs, h⟩ := some_of h
  exact ⟨s, r, x, hs, hc r x h⟩

theorem witness_NearBankArithmetic : Focused (fun _ _ _ => True) ∧
    Focused fun _ r _ => (15#16).toNat < r.desc.args.length ∧ (15#16).toNat < 16 :=
  ⟨focused_if (nearRun id id) (fun _ _ _ => true) (by decide +kernel) fun _ _ _ => trivial,
    focused_if (nearRun id id) (fun _ r _ => decide ((15#16).toNat < r.desc.args.length ∧ (15#16).toNat < 16)) (by decide +kernel)
      fun _ _ h => of_decide_eq_true h⟩

def openRow (sh : Bool) (w : Option (List Word)) : OpenRow := { stream := 0, shadow := sh, written := w }
def withStep (s : State) : State := s.mapPart 0 fun p => { p with regions := [(0, { versR true false with base := 0x20000 })] }

theorem witness_NearBankRows :
    Focused (fun s r x => ∃ row, x.row = some row ∧ 0 < r.desc.streams ∧ s.blockReady r row = true) ∧
    Focused (fun s r x => ∃ row, x.row = some row ∧ 0 < r.desc.streams ∧ s.blockReady r row = true ∧ s.stepOver r 0 row = true) ∧
    (∀ sh : Bool, Focused fun s r x => ∃ o, x.open_ = some o ∧ o.shadow = sh ∧ o.written = none ∧ s.readLoc r x o = some (rowLoc 0) ∧
      ∀ k, k < 32 → s.hostOwns ((rowLoc 0).plus (64 * k)) = false ∧ s.isPoisoned ((rowLoc 0).plus (64 * k)) = false) ∧
    (Focused fun s r x => x.row = some 0 ∧ (s.rowRegion r 0 0).isSome = true ∧ (openRow true none).shadow = true) ∧
    Focused (fun _ _ x => ∃ o, x.open_ = some o ∧ o.written = some [1]) ∧
    (∀ sh : Bool, Focused fun s r x => x.open_ = some (openRow sh none) ∧ r.desc.wmask.testBit 0 = true ∧
      ((openRow sh none).shadow = true ∨ s.stepOver r 0 (x.row.getD 0) = false)) ∧
    Focused (fun _ _ x => x.open_ = some (openRow false none) ∧ (openRow false none).written = none) := by
  refine ⟨focused_if (nearRun id id) (fun s r x => x.row == some 0 && decide (0 < r.desc.streams) && s.blockReady r 0) (by decide +kernel) fun r x h => ?_,
    focused_if (withStep (nearRun id id)) (fun s r x => x.row == some 0 && decide (0 < r.desc.streams) && s.blockReady r 0 && s.stepOver r 0 0)
      (by decide +kernel) fun r x h => ?_,
    fun sh => focused_if (withStep (nearRun id fun x => { x with open_ := some (openRow sh none) })) (fun s r x => decide (x.open_ = some (openRow sh none)) &&
      decide (s.readLoc r x (openRow sh none) = some (rowLoc 0)) && (List.range 32).all fun k =>
        !s.hostOwns ((rowLoc 0).plus (64 * k)) && !s.isPoisoned ((rowLoc 0).plus (64 * k))) (by cases sh <;> decide +kernel) fun r x h => ?_,
    focused_if (withStep (nearRun id id)) (fun s r x => decide (x.row = some 0 ∧ (s.rowRegion r 0 0).isSome = true ∧ (openRow true none).shadow = true))
      (by decide +kernel) fun r x h => of_decide_eq_true h,
    focused_if (nearRun id fun x => { x with open_ := some (openRow false (some [1])) }) (fun _ _ x => decide (x.open_ = some (openRow false (some [1]))))
      (by decide +kernel) fun r x h => ?_,
    fun sh => focused_if ((if sh then withStep else id) (nearRun id fun x => { x with open_ := some (openRow sh none) })) (fun s r x =>
      decide (x.open_ = some (openRow sh none) ∧ r.desc.wmask.testBit 0 = true ∧
        ((openRow sh none).shadow = true ∨ s.stepOver r 0 (x.row.getD 0) = false))) (by cases sh <;> decide +kernel) fun r x h => of_decide_eq_true h,
    focused_if (nearRun id fun x => { x with open_ := some (openRow false none) }) (fun _ _ x => decide (x.open_ = some (openRow false none) ∧
      (openRow false none).written = none)) (by decide +kernel) fun r x h => of_decide_eq_true h⟩
  · simp only [Bool.and_eq_true, beq_iff_eq, decide_eq_true_eq] at h; exact ⟨0, h.1.1, h.1.2, h.2⟩
  · simp only [Bool.and_eq_true, beq_iff_eq, decide_eq_true_eq] at h; exact ⟨0, h.1.1.1, h.1.1.2, h.1.2, h.2⟩
  · simp only [Bool.and_eq_true, decide_eq_true_eq, List.all_eq_true, List.mem_range, Bool.not_eq_true'] at h
    exact ⟨_, h.1.1, rfl, rfl, h.1.2, h.2⟩
  · exact ⟨_, of_decide_eq_true h, rfl⟩

def placedB (p : Placed) : Bool := match p with | .done _ => true | _ => false

theorem done_of {p : Placed} (h : placedB p = true) : ∃ u, p = .done u := by
  unfold placedB at h
  split at h
  · exact ⟨_, rfl⟩
  · exact absurd h Bool.false_ne_true

/-- A written row closes. -/
theorem witness_NearBankRows_close : ∃ (s u : State) (r : Run) (x : StallRun) (o : OpenRow) (loc : Loc) (ws : List Word),
    let locs := (upTo 2048).map loc.plus
    s.focused = some (r, x) ∧ x.open_ = some o ∧ o.written = some ws ∧ s.openLoc r x o = some loc ∧
    (o.shadow = true ∨ s.stepOver r o.stream (x.row.getD 0) = false) ∧ (∀ y ∈ locs, s.hostOwns y = false) ∧ s.sourceHeld r.op locs = false ∧
    State.singleton { s with focus := none } (locs.zip (ws.flatMap fun w => leBytes 4 w.toNat)) = .done u := by
  let o := openRow false (some [1, 2])
  let s := nearRun id fun x => { x with open_ := some o }
  have key : (s.focused.any fun p => decide (p.2.open_ = some o ∧ s.openLoc p.1 p.2 o = some (rowLoc 0) ∧
      (o.shadow = true ∨ s.stepOver p.1 o.stream (p.2.row.getD 0) = false) ∧ (∀ y ∈ (upTo 2048).map (rowLoc 0).plus, s.hostOwns y = false) ∧ s.sourceHeld p.1.op ((upTo 2048).map (rowLoc 0).plus) = false) &&
      placedB (State.singleton { s with focus := none } (((upTo 2048).map (rowLoc 0).plus).zip ([1#32, 2#32].flatMap fun w => leBytes 4 w.toNat)))) = true := by
    decide +kernel
  obtain ⟨⟨r, x⟩, hs, h⟩ := some_of key
  obtain ⟨⟨h1, h2, h3, h4, h5⟩, h6⟩ := dec_and h
  obtain ⟨u, hu⟩ := done_of h6
  exact ⟨s, u, r, x, o, rowLoc 0, [1, 2], hs, h1, rfl, h2, h3, h4, h5, hu⟩

/-- NDONE of a stall that is not the last, and of the last one of a run that an NBRUN released. -/
theorem witness_NearBankRows_done : ∃ s r x, State.focused s = some (r, x) ∧ (∃ z ∈ r.stalls, z.stall ≠ x.stall ∧ z.phase ≠ .done) ∧
    ∀ y ∈ s.runs, y = r ∨ (y.num ≠ r.num ∧ y.finished = false) := by
  let s := nearRun (fun r => { r with stalls := r.stalls ++ [StallRun.fresh 1 [] 0] }) id
  obtain ⟨⟨r, x⟩, hs, h⟩ := some_of (o := s.focused) (p := fun p => decide ((∃ z ∈ p.1.stalls, z.stall ≠ p.2.stall ∧ z.phase ≠ .done) ∧
      ∀ y ∈ s.runs, y = p.1 ∨ (y.num ≠ p.1.num ∧ y.finished = false))) (by decide +kernel)
  exact ⟨s, r, x, hs, of_decide_eq_true h⟩

theorem witness_NearBankRows_last : ∃ s r x o l u, State.focused s = some (r, x) ∧ (∀ z ∈ r.stalls, z.stall ≠ x.stall → z.phase = .done) ∧
    r.pinned = true ∧ (r.op.bind s.op?) = some o ∧ s.due o = true ∧ (∀ y ∈ s.runs, y = r ∨ (y.num ≠ r.num ∧ y.finished = false)) ∧
    s.pathOwned r.ctx ((r.desc.at_ + 0x38) % 2 ^ 64) 4 = false ∧
    s.lookRange r.ctx ((r.desc.at_ + 0x38) % 2 ^ 64) 4 .write = .ok l ∧ (∀ y ∈ rangeLocs l, s.hostOwns y = false) ∧
    s.sourceHeld (some o.num) (rangeLocs l) = false ∧
    State.singleton (State.mapStall { s with focus := none } r.num x.stall fun y => { y with passed := y.rows.length, phase := .done })
      ((rangeLocs l).zip (leBytes 4 ((if r.nf then 1 else 0) + 2 * r.flags.toNat))) = .done u := by
  let s := { nearRun id id with ops := [opOf 4 .run] }
  let s := { s with tlb := s.tlb ++ s.tlb.map fun (t : TlbEntry) => { t with unit := deviceCore } }
  obtain ⟨⟨r, x⟩, hs, h⟩ := some_of (o := s.focused) (p := fun p =>
      decide ((∀ z ∈ p.1.stalls, z.stall ≠ p.2.stall → z.phase = .done) ∧ p.1.pinned = true ∧
        (p.1.op.bind s.op?) = some (opOf 4 .run) ∧ s.due (opOf 4 .run) = true ∧ (∀ y ∈ s.runs, y = p.1 ∨ (y.num ≠ p.1.num ∧ y.finished = false)) ∧
        s.pathOwned p.1.ctx ((p.1.desc.at_ + 0x38) % 2 ^ 64) 4 = false) &&
      okAnd (s.lookRange p.1.ctx ((p.1.desc.at_ + 0x38) % 2 ^ 64) 4 .write) fun l =>
        decide ((∀ y ∈ rangeLocs l, s.hostOwns y = false) ∧ s.sourceHeld (some 4) (rangeLocs l) = false) &&
        placedB (State.singleton (State.mapStall { s with focus := none } p.1.num p.2.stall fun y => { y with passed := y.rows.length, phase := .done })
          ((rangeLocs l).zip (leBytes 4 ((if p.1.nf then 1 else 0) + 2 * p.1.flags.toNat))))) (by decide +kernel)
  obtain ⟨⟨h1, h2, h3, h4, h5, h6⟩, h7⟩ := dec_and h
  obtain ⟨l, hl, h8⟩ := ok_of h7
  obtain ⟨⟨h9, h10⟩, h11⟩ := dec_and h8
  obtain ⟨u, hu⟩ := done_of h11
  exact ⟨s, r, x, _, l, u, hs, h1, h2, h3, h4, h5, h6, hl, h9, h10, hu⟩

/-! #### Other agents: chunks and time -/

/-- One launch of one group of one warp, no issue in progress. -/
def ev : State := { base1 id with issuer := none }
def lau (s : State) : Launch := (s.launch? 0).getD (stageLaunch 0)
def grp (s : State) : Group := (s.group? 0 0).getD (Group.begin (stageLaunch 0) 0 0 (0, 0, 0) 0)
def wrp (s : State) : Warp := (s.warp? W0).getD (Warp.begin {} [] 0)

theorem getD_of {α : Type} {o : Option α} {d : α} (h : o.isSome = true) : o = some (o.getD d) := by
  cases o with
  | none => simp at h
  | some x => rfl

theorem finds0 {s : State} (h : (s.launch? 0).isSome = true ∧ (s.group? 0 0).isSome = true ∧ (s.warp? W0).isSome = true) :
    s.finds W0 (lau s) (grp s) (wrp s) := ⟨getD_of h.1, getD_of h.2.1, getD_of h.2.2⟩

def dataLoc (n : Nat) : Loc := { space := .dev, addr := 0x20000 + n }
def onWarp (s : State) (f : Warp → Warp) : State := s.mapWarp W0 f
def onChunk (s : State) (f : Chunk → Chunk) : State := s.mapWarp W0 fun x => { x with chunk := f x.chunk }
def onArch (s : State) (f : Arch → Arch) : State := s.mapWarp W0 fun x => { x with arch := f x.arch }
def onLaunch (s : State) (f : Launch → Launch) : State := s.mapLaunch 0 f
def onGroup (s : State) (f : Group → Group) : State := s.mapGroup 0 0 f
def onContext (s : State) (f : Context → Context) : State := s.mapContext stageCtx f

/-- A chunk with writes, and one without. -/
theorem witness_CommitEvents : ∀ n, n = 0 ∨ n = 2 → ∃ (s u : State) (l : Launch) (g : Group) (x : Warp), s.finds W0 l g x ∧
    s.place x.chunk.resets x.chunk.writes x.chunk.bypass = some u ∧ x.chunk.writes.length = n ∧ s.reproOf l.ctx = false ∧
    x.chunk.ended = true ∧ g.resident = true ∧ l.fault = none ∧ l.saveInvalid = false ∧ x.fault = none ∧
    AgentId.core g.core ∉ s.lost ∧
    x.chunk.pregrant ≠ .waiting ∧ x.chunk.queued = [] ∧ x.chunk.halt = none ∧ s.waitsOutside W0 l.ctx x.chunk = false ∧
    s.commitWaits W0 l.ctx.part x.chunk = false ∧ s.halfOwned x.chunk = false ∧
    ((∀ p ∈ s.toAllocate x.chunk.resets x.chunk.writes, s.drawsPool p = false) ∨ s.poolBehind W0 l.ctx.part x.chunk = false) := by
  intro n hn
  let s := onChunk ev fun c => { c with ended := true, writes := (List.range n).map fun k => (dataLoc k, 5) }
  have found : (s.launch? 0).isSome = true ∧ (s.group? 0 0).isSome = true ∧ (s.warp? W0).isSome = true := by rcases hn with rfl | rfl <;> decide +kernel
  have placed : (s.place (wrp s).chunk.resets (wrp s).chunk.writes (wrp s).chunk.bypass).isSome = true := by rcases hn with rfl | rfl <;> decide +kernel
  exact ⟨s, _, _, _, _, finds0 found, getD_of (d := s) placed, by rcases hn with rfl | rfl <;> decide +kernel⟩

theorem witness_CommitEvents_place : ∃ u, ev.memOk = true ∧ ev.place [] [(dataLoc 0, 5), (dataLoc 7, 6)] = some u ∧
    (∀ p ∈ [(dataLoc 0, (5 : Byte)), (dataLoc 7, 6)], p.1.space = .dev) ∧ ([(dataLoc 0, (5 : Byte)), (dataLoc 7, 6)].map (·.1)).Nodup := by
  have h : (ev.place [] [(dataLoc 0, 5), (dataLoc 7, 6)]).isSome = true := by decide +kernel
  exact ⟨_, by decide +kernel, getD_of (d := ev) h, by decide +kernel⟩

theorem witness_CommitEvents_preGrant : ∃ (s : State) (l : Launch) (g : Group) (x : Warp), s.finds W0 l g x ∧ x.chunk.pregrant = .waiting ∧
    l.ctx.part < s.parts.length ∧ (s.part l.ctx.part).pregrant = none ∧ (s.part l.ctx.part).pregrantQueue = [] :=
  let s := onChunk ev fun c => { c with pregrant := .waiting }
  ⟨s, _, _, _, finds0 (by decide +kernel), by decide +kernel⟩

def redOp : RedOp := { locs := (upTo 4).map dataLoc, va := 0x20000, op := .add, ty := .u32, value := 1, lane := 0, pc := 65536 }

theorem witness_CommitEvents_red : ∃ (s u : State), let o := opOf 3 (.red redOp)
    s.op? 3 = some o ∧ s.redTurn o = true ∧ (∀ y ∈ redOp.locs, s.hostOwns y = false ∧ s.isPoisoned y = false) ∧
    s.sourceHeld (some o.num) redOp.locs = false ∧
    s.singleton (redOp.locs.zip (leBytes redOp.locs.length (aopApply redOp.op redOp.ty (leNat (redOp.locs.map s.byteAt)) redOp.value.toNat).1))
      = .done u := by
  let s := { ev with ops := [opOf 3 (.red redOp)] }
  obtain ⟨u, hu⟩ := done_of (p := s.singleton (redOp.locs.zip (leBytes redOp.locs.length
    (aopApply redOp.op redOp.ty (leNat (redOp.locs.map s.byteAt)) redOp.value.toNat).1))) (by decide +kernel)
  exact ⟨s, u, by decide +kernel, by decide +kernel, by decide +kernel, by decide +kernel, hu⟩

/-- A round that all warps have had their turn in, and a context without a launch. -/
theorem witness_CommitEvents_round : ∀ some_ : Bool,
    let t := onWarp (inTurns ev) fun x => { x with turnDone := true }
    let s : State := if some_ then t else { t with launches := [] }
    let x : Context := { stageContext with repro := true }
    s.context? stageCtx = some x ∧ x.repro = true ∧ x.phase = .running ∧ s.opsDue stageCtx = false ∧ s.turn? stageCtx = none ∧
      s.roundBusy stageCtx = false ∧ s.inRound stageCtx = some_ := by
  intro some_
  cases some_ <;> decide +kernel

/-- The heartbeat when its time has come, and before it. -/
theorem witness_PreemptionEvents : ∀ n, n = 0 ∨ n = 1024 → let s := { ev with devready := true, cycle := n }
    s.devready = true ∧ s.cycle ≤ (s.beat + 1) * 1024 := by
  intro n hn
  rcases hn with rfl | rfl <;> decide +kernel

/-- A sleep that is over, and one that is not. -/
theorem witness_PreemptionEvents_sleep : ∀ d, d = 5 ∨ d = 6 → let s := { onArch ev (fun a => { a with waits := [waitOf (.sleep d false)] }) with cycle := 5 }
    s.finds W0 (lau s) (grp s) (wrp s) ∧ (wrp s).arch.waits = [waitOf (.sleep d false)] ∧ (wrp s).arch.pc.length = 32 ∧ (wrp s).arch.st.length = 32 := by
  intro d hd
  rcases hd with rfl | rfl <;> exact ⟨finds0 (by decide +kernel), by decide +kernel⟩

def ctxB : CtxKey := { part := 0, ctx := 1, fw := false }
def contextB : Context := { stageContext with key := ctxB, phase := .saved }

theorem witness_PreemptionEvents_slice : let s := { ev with cycle := 1700000, contexts := [stageContext, contextB] }
    s.context? stageCtx = some stageContext ∧ stageContext.phase = .running ∧ stageContext.since + (s.part 0).slice ≤ s.cycle ∧
    contextB ∈ s.contexts ∧ contextB.key ≠ stageCtx ∧ contextB.key.part = stageCtx.part ∧ contextB.key.fw = stageCtx.fw ∧ s.hasWork contextB = true := by
  decide +kernel

/-- A launch of another context with a group that no core takes. -/
def waiting : Launch := { stageLaunch 1 with ctx := ctxB, fields := { (stageLaunch 1).fields with prio := 1 }, groups := [] }

theorem witness_PreemptionEvents_priority : let s := { ev with contexts := [stageContext, { contextB with phase := .running }], launches := ev.launches ++ [waiting] }
    s.context? stageCtx = some stageContext ∧ stageContext.phase = .running ∧ waiting ∈ s.launches ∧ waiting.ctx ≠ stageCtx ∧
    waiting.ctx.part = stageCtx.part ∧ waiting.ctx.fw = stageCtx.fw ∧ s.unplaced waiting = true ∧
    ∀ y ∈ s.launches, y.ctx = stageCtx → y.live = true → y.fields.prio < waiting.fields.prio := by
  decide +kernel

theorem witness_PreemptionEvents_handler : let s := onWarp (onContext ev fun c => { c with phase := .yielding }) fun x => { x with handlerDue := true }
    s.finds W0 (lau s) (grp s) (wrp s) ∧ s.phaseOf (lau s).ctx = .yielding ∧ (wrp s).handlerDue = true ∧ (wrp s).atBoundary = true ∧
    (wrp s).arch.pc.length = 32 ∧ (wrp s).arch.st.length = 32 :=
  ⟨finds0 (by decide +kernel), by decide +kernel⟩

/-- The deadline of a cooperative phase, and the halt of a BRK, before a group is dispatched. -/
theorem witness_PreemptionEvents_save : ∀ h : Bool, let x := { stageContext with phase := if h then CtxPhase.halting else .yielding }
    let s := { (onContext (onLaunch ev fun l => { l with groups := [] }) fun c => { c with phase := if h then CtxPhase.halting else .yielding }) with cycle := 17000 }
    s.context? stageCtx = some x ∧ s.engineBusy stageCtx = false ∧
    (s.saveContext stageCtx (if x.phase = .halting then .halted else .saved)).isSome = true ∧
    ((x.phase = .yielding ∧ (s.allYielded stageCtx = true ∨ x.since + 17000 ≤ s.cycle)) ∨ x.phase = .halting) := by
  intro h
  cases h <;> decide +kernel

theorem witness_PreemptionEvents_resume : let s := (onGroup (onContext ev fun c => { c with phase := .saved }) fun g => { g with resident := false })
    let s := { s.mapPart 0 (fun p => { p with exists_ := true, quads := 1, meng := 3, numbered := [0] }) with roles := 1 }
    let ps : List Placement := [{ launch := 0, group := 0, core := 0 }]
    s.context? stageCtx = some { stageContext with phase := .saved } ∧ s.roleChange = none ∧
    s.unnumbered stageCtx.part = false ∧ (∀ p, p ∈ s.toReturn stageCtx ↔ p ∈ ps.map fun q => (q.launch, q.group)) ∧
    (s.returned stageCtx ps).isSome = true := by
  let s0 := (onGroup (onContext ev fun c => { c with phase := .saved }) fun g => { g with resident := false })
  let s := { s0.mapPart 0 (fun p => { p with exists_ := true, quads := 1, meng := 3, numbered := [0] }) with roles := 1 }
  have h : s.toReturn stageCtx = [(0, 0)] := by decide +kernel
  refine ⟨rfl, rfl, by decide +kernel, fun p => ?_, by decide +kernel⟩
  show p ∈ s.toReturn stageCtx ↔ _
  rw [h]
  rfl

/-! #### Engines, copies and stalls -/

def eng0 : EngineId := ⟨0, 0⟩
def tileOf (k : TileKind) (step rep : Nat) : TileOp :=
  { kind := k, vals := [0, 0, 0, 0], mask := 1, step := step, snap := List.replicate 1024 0, tags := [], replays := rep, flags := 0 }
def mma0 : MmaArgs := { mmaA with dt := 0 }
def zA : AcczArgs := { g := gT, mask := 1 }

/-- An operation at the head of engine 0's queue. -/
def evTile (t : TileOp) (running reset : Bool) (cycle : Nat) : State :=
  { ev with ops := [opOf 3 (.tile t)], cycle := cycle
            engines := [{ id := eng0, queue := [3], running := running, since := 0, reset := reset, mismatched := false }] }

theorem witness_EngineEvents_start : ∀ mma : Bool, let t := tileOf (if mma then .mma mma0 else .accz zA 0) 0 0
    let s := evTile t false false 9
    s.headOp eng0 = some (opOf 3 (.tile t), t) ∧ (s.engine eng0).running = false ∧ (s.engine eng0).reset = false ∧ s.engineRuns 0 = true ∧
    (mma = false → ∀ a, t.kind ≠ .mma a) ∧ (mma = true → t.kind = .mma mma0 ∧ mma0.asrc = false ∧
      s.tile? (opOf 3 (.tile t)) mma0.dt.val = some Tile.fresh ∧ Tile.fresh.poison = false) := by
  intro mma t s
  have head : s.headOp eng0 = some (opOf 3 (.tile t), t) ∧ (s.engine eng0).running = false ∧ (s.engine eng0).reset = false ∧ s.engineRuns 0 = true := by
    cases mma <;> decide +kernel
  refine ⟨head.1, head.2.1, head.2.2.1, head.2.2.2, ?_, ?_⟩ <;> intro h <;> subst h
  · exact fun a (h : TileKind.accz zA 0 = .mma a) => (nomatch h)
  · decide +kernel

/-- An MMA at whose start another tile is its multiplicand. -/
theorem witness_EngineEvents_asrc : let a : MmaArgs := { mma0 with asrc := true, ar := .v 1 }
    let t := tileOf (.mma a) 0 0
    let o := opOf 3 (.tile t)
    let s := evTile t false false 9
    s.headOp eng0 = some (o, t) ∧ (s.engine eng0).running = false ∧ (s.engine eng0).reset = false ∧ s.engineRuns o.launch = true ∧ t.kind = .mma a ∧
    a.asrc = true ∧ s.tileBusy o a.ar.num = false ∧ s.tile? o a.dt.val = some Tile.fresh ∧ s.tile? o a.ar.num = some Tile.fresh ∧
    Tile.fresh.poison = false ∧ t.step = 0 := by decide +kernel

/-- The last K-step, with its bytes good, and one that is skipped; a mismatch at each number of replays. -/
theorem witness_EngineEvents_kstep : ∀ rep, rep = 0 ∨ rep = 3 → ∀ skip : Bool,
    let t := { tileOf (.mma mma0) (MmaArgs.steps mma0 - 1) rep with tags := if skip then (List.range 8) else [] }
    let s := evTile t true false 9
    let o := opOf 3 (.tile t)
    s.headOp eng0 = some (o, t) ∧ (s.engine eng0).running = true ∧ s.engineRuns 0 = true ∧ t.kind = .mma mma0 ∧ t.step < MmaArgs.steps mma0 ∧
    s.launch? 0 = some (lau s) ∧ s.tile? o 0 = some Tile.fresh ∧
    kstepSkipped mma0 t.vals t.tags (lau s).fields.exact t.step = skip ∧ s.spadPoison o (kstepBytes mma0 t.vals t.step) = false := by
  intro rep h skip
  rcases h with rfl | rfl <;> cases skip <;> decide +kernel

theorem witness_EngineEvents : let t := tileOf (.mma mma0) 0 0
    (((evTile t true false (2 ^ 24)).engine eng0).running = true ∧ ((evTile t true false (2 ^ 24)).engine eng0).since + 2 ^ 24 ≤ (evTile t true false (2 ^ 24)).cycle ∧
      (evTile t true false (2 ^ 24)).sound (lau (evTile t true false (2 ^ 24))) ∧ (0, 0) ∈ (evTile t true false (2 ^ 24)).tileHolders eng0) ∧
    (((evTile t false true 9).engine eng0).reset = true ∧ AgentId.engine eng0 ∉ (evTile t false true 9).lost ∧
      AgentId.core eng0.core ∉ (evTile t false true 9).lost) :=
  ⟨⟨by decide +kernel, by decide +kernel, ⟨by decide +kernel, by decide +kernel⟩, by decide +kernel⟩, by decide +kernel⟩

/-- The operation at the engine's head is the only one, and may end. -/
def atEnd (s : State) (o : Op) (t : TileOp) : Prop :=
  s.headOp eng0 = some (o, t) ∧ (s.engine eng0).running = true ∧ s.running 0 = true ∧ s.ops = [o] ∧ o.publishRound = none ∧ o.stop = none ∧
    s.onEngine o t eng0 = true

theorem witness_EngineEvents_complete : ∀ mma : Bool, let t := tileOf (if mma then .mma mma0 else .accz zA 0) (MmaArgs.steps mma0) 0
    let s := evTile t true false 9
    let o := opOf 3 (.tile t)
    atEnd s o t ∧ ((∃ a, t.kind = .mma a ∧ MmaArgs.steps a ≤ t.step) ∨ ∃ z n, t.kind = .accz z n) := by
  intro mma
  refine ⟨by unfold atEnd; cases mma <;> decide +kernel, ?_⟩
  cases mma with
  | false => exact .inr ⟨zA, 0, rfl⟩
  | true => exact .inl ⟨mma0, rfl, Nat.le_refl _⟩

/-- An ACCLD of the last tile of its engine, and an ACCST. -/
theorem witness_EngineEvents_tile : ∃ v : State, let a : AccArgs := { g := gN, h := 1, a := .s 4, tile := 14, fmt := .f32, rm := .rne, sat := false, pitch := 0 }
    let cells := (upTo 256).flatMap fun k => (upTo (AccFmt.bytes a.fmt)).map fun i => AccArgs.elemAddr a 0 k + i
    let ld := tileOf (.accld a) 0 0
    let st := tileOf (.accst a) 0 0
    atEnd (evTile ld true false 9) (opOf 3 (.tile ld)) ld ∧ (evTile ld true false 9).tile? (opOf 3 (.tile ld)) 14 = some Tile.fresh ∧
    (ld.vals.getD 0 0).toNat = 0 ∧ (evTile ld true false 9).spadPoison (opOf 3 (.tile ld)) cells = false ∧
    atEnd (evTile st true false 9) (opOf 3 (.tile st)) st ∧ (evTile st true false 9).tile? (opOf 3 (.tile st)) 14 = some Tile.fresh ∧
    Tile.fresh.poison = false ∧ (evTile st true false 9).singleton
      ((accStore a 0 Tile.fresh.acc).1.map fun p => ({ space := .spad 0 0, addr := p.1 }, p.2)) = .done v := by
  let a : AccArgs := { g := gN, h := 1, a := .s 4, tile := 14, fmt := .f32, rm := .rne, sat := false, pitch := 0 }
  have ⟨v, hv⟩ := done_of (p := (evTile (tileOf (.accst a) 0 0) true false 9).singleton
    ((accStore a 0 Tile.fresh.acc).1.map fun p => ({ space := .spad 0 0, addr := p.1 }, p.2))) (by decide +kernel)
  exact ⟨v, by unfold atEnd; decide +kernel, by decide +kernel, rfl, by decide +kernel, by unfold atEnd; decide +kernel, by decide +kernel, rfl, hv⟩

theorem witness_EngineEvents_stall : ∀ susp : Bool,
    let s := nearRun id fun x => { x with phase := if susp then .suspended else .waiting }
    ∃ r x, s.run? 0 = some r ∧ r.num = 0 ∧ r.pinned = true ∧ s.runLive r = true ∧ r.stall? 0 = some x ∧ x.stall = 0 ∧
      x.phase = (if susp then .suspended else .waiting) ∧ AgentId.stall 0 ∉ s.lost ∧ ∀ y ∈ s.runs, r.num ≤ y.num := by
  intro susp
  have key : ((State.run? (nearRun id fun x => { x with phase := if susp then .suspended else .waiting }) 0).any fun r => (r.stall? 0).any fun x =>
      decide (r.num = 0 ∧ r.pinned = true ∧ (nearRun id fun x => { x with phase := if susp then .suspended else .waiting }).runLive r = true ∧ x.stall = 0 ∧
        x.phase = (if susp then .suspended else .waiting) ∧ AgentId.stall 0 ∉ (nearRun id fun x => { x with phase := if susp then .suspended else .waiting }).lost ∧
        ∀ y ∈ (nearRun id fun x => { x with phase := if susp then .suspended else .waiting }).runs, r.num ≤ y.num)) = true := by
    cases susp <;> decide +kernel
  obtain ⟨r, hr, h⟩ := some_of key
  obtain ⟨x, hx, h⟩ := some_of h
  obtain ⟨h1, h2, h3, h4, h5, h6, h7⟩ := of_decide_eq_true h
  exact ⟨r, x, hr, h1, h2, h3, hx, h4, h5, h6, h7⟩

/-- The agents outside the cores translate the data page too. -/
def evD : State := { ev with lwidth := 3, tlb := ev.tlb ++ ev.tlb.map fun (t : TlbEntry) => { t with unit := deviceCore } }

def cp0 : CopyOp :=
  { xf := 0, src := 0x20000, dst := 0, rows := 2, rowBytes := 16, outLen := 0, srcPitch := 16, dstPitch := 16, srcSpad := false, dstSpad := true
    col := false, replica := none, aw := none }
def spad0 (n : Nat) : Loc := { space := .spad 0 0, addr := n }
def cpOp (sh : Option (List (Loc × Byte))) (f : Bool) : Op := { opOf 3 (.copy cp0) with shadow := sh, failed := f }

theorem witness_TransferEvents : ∃ (s : State) (f : Fetched), let o := cpOp none false
    s.op? 3 = some o ∧ o.shadow = none ∧ o.stop = none ∧ s.running 0 = true ∧ AgentId.copyEngine (s.coreOf 0 0) ∉ s.lost ∧ s.launch? 0 = some (lau s) ∧
    (∀ a, cp0.aw = some a → a % 8 = 0 ∧ a + 8 ≤ (lau s).portion) ∧
    s.fetchCopy ⟨0, 0, 0⟩ (lau s).ctx cp0 (fun x => o.zeros.contains x.page) = .got f ∧ (∀ p ∈ f.bytes, p.1.space.irrevocable = false) := by
  let s := { evD with ops := [cpOp none false] }
  let z (x : Loc) : Bool := (cpOp none false).zeros.contains x.page
  have key : (match s.fetchCopy ⟨0, 0, 0⟩ (lau s).ctx cp0 z with | .got f => f.bytes.all fun p => !p.1.space.irrevocable | _ => false) = true := by
    decide +kernel
  cases hf : s.fetchCopy ⟨0, 0, 0⟩ (lau s).ctx cp0 z with
  | stop c a => simp [hf] at key
  | wait => simp [hf] at key
  | got f =>
    rw [hf] at key
    refine ⟨s, f, by decide +kernel, rfl, rfl, by decide +kernel, by decide +kernel, by decide +kernel, by simp [cp0], hf, fun p hp => ?_⟩
    simpa using List.all_eq_true.mp key p hp

/-- The COPY is due, in its turn, and its engine is there. -/
def mayPublish (s : State) (o : Op) : Prop :=
  s.op? 3 = some o ∧ s.due o = true ∧ s.running 0 = true ∧ s.publishTurn o = true ∧ AgentId.copyEngine (s.coreOf 0 0) ∉ s.lost

theorem witness_TransferEvents_publish : ∃ (s u : State), let ws := [(spad0 0, (1 : Byte)), (spad0 5, 2)]
    let o := cpOp (some ws) false
    mayPublish s o ∧ o.stop = none ∧ cp0.aw = none ∧ s.behind o = false ∧ s.sourceHeld (some 3) (ws.map (·.1)) = false ∧
    (∀ p ∈ ws, s.hostOwns p.1 = false ∧ p.1.space.irrevocable = false) ∧ s.singleton ws = .done u := by
  let s := { evD with ops := [cpOp (some [(spad0 0, 1), (spad0 5, 2)]) false] }
  obtain ⟨u, hu⟩ := done_of (p := s.singleton [(spad0 0, (1 : Byte)), (spad0 5, 2)]) (by decide +kernel)
  have host : ([(spad0 0, (1 : Byte)), (spad0 5, 2)].all fun p => !s.hostOwns p.1 && !p.1.space.irrevocable) = true := by decide +kernel
  refine ⟨s, u, by unfold mayPublish; decide +kernel, rfl, rfl, by decide +kernel, by decide +kernel, fun p hp => ?_, hu⟩
  simpa using List.all_eq_true.mp host p hp

/-- A COPY into two halves of host memory. -/
theorem witness_TransferEvents_singletons : let x : Loc := { space := .host, addr := 63 }
    let y : Loc := { space := .host, addr := 64 }
    let ws : List (Loc × Byte) := [(x, 1), (y, 2)]
    let o := cpOp (some ws) false
    let s := { evD with ops := [o] }
    mayPublish s o ∧ o.num = 3 ∧ o.kind = .copy cp0 ∧ o.shadow = some ws ∧ cp0.aw = none ∧ o.failed = false ∧ o.stop = none ∧
    s.behind o = false ∧ s.sourceHeld (some 3) (ws.map (·.1)) = false ∧ (∀ p ∈ ws, s.hostOwns p.1 = false) ∧
    (ws.map (·.1)).find? (fun z => z.space.irrevocable) = some x ∧ y ∈ ws.map (·.1) ∧ y.space.irrevocable = true ∧ y.half ≠ x.half ∧
    s.unreachable (s.coreOf 0 0) x = false ∧ s.refuses x = false :=
  ⟨by unfold mayPublish; decide +kernel, rfl, rfl, rfl, rfl, rfl, rfl, by decide +kernel⟩

/-- A transform that failed; and a COPY whose engine has been declared lost. -/
theorem witness_TransferEvents_failed : (let s := { evD with ops := [cpOp (some []) true] }
     mayPublish s (cpOp (some []) true) ∧ (cpOp (some []) true).stop = none ∧ (cpOp (some []) true).failed = true) ∧
    (let s : State := { evD with ops := [cpOp (some [(spad0 0, 1)]) false], lost := [.copyEngine (evD.coreOf 0 0)] }
     s.op? 3 = some (cpOp (some [(spad0 0, 1)]) false) ∧ AgentId.copyEngine (s.coreOf 0 0) ∈ s.lost) := by
  unfold mayPublish
  decide +kernel

/-- A recall while no chunk holds the line, and of a warp with no transaction, whose chunk has written it or not. -/
theorem witness_TransferEvents_recall : ∀ wr : Bool,
    let s := onChunk ev fun c => { c with ended := true, writes := if wr then [(dataLoc 0, 5)] else [] }
    s.finds W0 (lau s) (grp s) (wrp s) ∧ (wrp s).arch.tx = none ∧ ev.recallHolders ((dataLoc 0).line, 128) = [] ∧ s.reproOf (lau s).ctx = false ∧
    touchesAny (wrp s).chunk.loose [((dataLoc 0).line, 128)] = wr := by
  intro wr
  cases wr <;> exact ⟨finds0 (by decide +kernel), by decide +kernel⟩

theorem witness_TransferEvents_fill : ev.running 0 = true ∧ ev.group? 0 0 = some (grp ev) :=
  ⟨by decide +kernel, getD_of (by decide +kernel)⟩

def coll0 (peers : DWord) : CollOp :=
  { op := 0, isInt := true, flagIn := false, count := 1, src := 0x20000, dst := 0x20100, result := 0x20200, peers := peers, tag := 0 }
def collOp (peers : DWord) : Op := { opOf 3 (.coll (coll0 peers)) with data := leBytes 4 7, sources := [(dataLoc 0, 4)] }

/-- A collective of this package alone, and one of two packages that fails. -/
theorem witness_TransferEvents_coll : ∃ (s u : State) (d r : List (Loc × Nat)), let c := coll0 1
    let o := collOp 1
    let v := (upTo c.count).map (collFold c o s.pkg)
    let bytes := v.flatMap fun p => leBytes 4 p.1
    let ws := (rangeLocs d).zip bytes ++ (rangeLocs r).zip (collResult (c.members.any (collNf c o s.pkg)) false (flAll (v.map (·.2))))
    (mayPublish s o ∧ o.stop = none ∧ s.peerLost c = false ∧ s.collStopped c = false ∧ o.data.length = 4 * c.count) ∧
    (∀ y ∈ rangeLocs o.sources, s.isPoisoned y = false) ∧ s.launch? 0 = some (lau s) ∧ s.pathOwned (lau s).ctx c.dst bytes.length = false ∧
    s.pathOwned (lau s).ctx c.result 8 = false ∧ s.lookRange (lau s).ctx c.dst bytes.length .write = .ok d ∧
    s.lookRange (lau s).ctx c.result 8 .write = .ok r ∧ (∀ p ∈ ws, s.hostOwns p.1 = false) ∧ s.behind o = false ∧
    s.sourceHeld (some 3) (ws.map (·.1)) = false ∧ s.singleton ws = .done u := by
  let s := { evD with ops := [collOp 1] }
  let c := coll0 1
  let o := collOp 1
  let v := (upTo c.count).map (collFold c o s.pkg)
  let bytes := v.flatMap fun p => leBytes 4 p.1
  obtain ⟨d, hd, h⟩ := ok_of (e := s.lookRange (lau s).ctx c.dst bytes.length .write) (p := fun d =>
    okAnd (s.lookRange (lau s).ctx c.result 8 .write) fun r =>
      let ws := (rangeLocs d).zip bytes ++ (rangeLocs r).zip (collResult (c.members.any (collNf c o s.pkg)) false (flAll (v.map (·.2))))
      decide ((∀ p ∈ ws, s.hostOwns p.1 = false) ∧ s.sourceHeld (some 3) (ws.map (·.1)) = false) && placedB (s.singleton ws)) (by decide +kernel)
  obtain ⟨r, hr, h⟩ := ok_of h
  obtain ⟨⟨h1, h2⟩, h3⟩ := dec_and h
  obtain ⟨u, hu⟩ := done_of h3
  refine ⟨s, u, d, r, ?now, ?good, ?here, ?own, ?ownR, hd, hr, h1, ?before, h2, hu⟩
  case now => unfold mayPublish; decide +kernel
  all_goals decide +kernel

theorem witness_TransferEvents_collFail : ∃ (s u : State) (d r : List (Loc × Nat)), let c := coll0 3
    let o := collOp 3
    (mayPublish s o ∧ o.stop = none ∧ 1 ∈ c.members ∧ 1 ≠ s.pkg ∧ s.launch? 0 = some (lau s) ∧
      s.pathOwned (lau s).ctx c.dst 0 = false ∧ s.pathOwned (lau s).ctx c.result 8 = false) ∧
    s.lookRange (lau s).ctx c.dst 0 .write = .ok d ∧ s.lookRange (lau s).ctx c.result 8 .write = .ok r ∧
    (∀ y ∈ rangeLocs r, s.hostOwns y = false) ∧ s.behind o = false ∧ s.sourceHeld (some 3) ((rangeLocs r).take 8) = false ∧
    s.singleton ((rangeLocs r).zip (leBytes 8 3)) = .done u := by
  let s := { evD with ops := [collOp 3] }
  obtain ⟨d, hd, -⟩ := ok_of (e := s.lookRange (lau s).ctx (coll0 3).dst 0 .write) (p := fun _ => true) (by decide +kernel)
  obtain ⟨r, hr, h⟩ := ok_of (e := s.lookRange (lau s).ctx (coll0 3).result 8 .write) (p := fun r =>
      decide ((∀ y ∈ rangeLocs r, s.hostOwns y = false) ∧ s.sourceHeld (some 3) ((rangeLocs r).take 8) = false) &&
      placedB (s.singleton ((rangeLocs r).zip (leBytes 8 3)))) (by decide +kernel)
  obtain ⟨⟨h1, h2⟩, h3⟩ := dec_and h
  obtain ⟨u, hu⟩ := done_of h3
  exact ⟨s, u, d, r, by unfold mayPublish; decide +kernel, hd, hr, h1, by decide +kernel, h2, hu⟩

/-! #### Launches, limits and errors -/

/-- A queue of four entries whose header and ring lie in the data page: LOGCAP 2, HEAD, PEND. -/
def q0 (slot : Option Nat) (target : Nat) : Queue :=
  { key := ⟨0, 0⟩, ctx := stageCtx, header := 0x20000, page := 2, slot := slot, target := target, asked := 0, blocked := false }
def evQ (slot : Option Nat) (target head pend : Nat) (record : Nat) : State :=
  let s := withMem (withMem evD 0x20000 40 (0x21000 + 2 * 2 ^ 64 + head * 2 ^ 192 + pend * 2 ^ 256)) (0x21000 + 128 * (head % 4)) 128 record
  { s with queues := [q0 slot target] }

def wroteB (w : Wrote) : Bool := match w with | .done _ => true | _ => false

theorem wrote_of {w : Wrote} (h : wroteB w = true) : ∃ u, w = .done u := by
  unfold wroteB at h
  split at h
  · exact ⟨_, rfl⟩
  · exact absurd h Bool.false_ne_true

/-- The queue after a notify, before its pending word is set. -/
def unblocked (s : State) : State := s.mapQueue ⟨0, 0⟩ fun x => { x with blocked := false }

/-- A host that reaches the device. -/
def ready (s : State) : State := { s with devready := true }

/-- A notify of one entry and of a whole ring, on a mapped queue. -/
theorem witness_LaunchEvents : ∀ n, n = 4 ∨ n = 7 → let s := ready (evQ (some 9) 3 3 0 0)
    s.devready = true ∧ s.hostThere = true ∧ s.queue? ⟨0, 0⟩ = some (q0 (some 9) 3) ∧ s.ctxOwned stageCtx 0x20000 40 = false ∧
    (unblocked s).headerWord (q0 (some 9) 3) hdrHead = some 3 ∧ (unblocked s).headerWord (q0 (some 9) 3) hdrCap = some 2 ∧
    3 < n ∧ n ≤ 3 + 2 ^ (2 % 256) ∧ (q0 (some 9) 3).slot.isSome = true := by
  intro n hn
  rcases hn with rfl | rfl <;> decide +kernel

/-- One before DEVREADY, and one over a link that carries nothing. -/
theorem witness_LaunchEvents_unheard : (evQ (some 9) 3 3 0 0).devready = false ∧ Instr.notify ⟨0, 0⟩ 0 4 ∉ (evQ (some 9) 3 3 0 0).received ∧
    (let s : State := { ready (evQ (some 9) 3 3 0 0) with lwidth := 0 }
     s.hostThere = false ∧ Instr.notify ⟨0, 0⟩ 0 4 ∉ s.received) := by decide +kernel

/-- On one that is not mapped, where the pending word is written, and where a pre-grant's holder has read it. -/
theorem witness_LaunchEvents_pend : ∀ held : Bool, let q := q0 none 3
    let s := ready (onChunk (evQ none 3 3 2 0) fun c => if held then { c with pregrant := .held, reads := [dataLoc 32, dataLoc 36] } else c)
    (s.queue? ⟨0, 0⟩ = some q ∧ s.ctxOwned q.ctx q.header 40 = false ∧ (unblocked s).headerWord q hdrHead = some 3 ∧
      (unblocked s).headerWord q hdrCap = some 2 ∧ 3 < 5 ∧ 5 ≤ 3 + 2 ^ (2 % 256) ∧ q.slot = none ∧ (unblocked s).headerWord q hdrPend = some 2 ∧
      s.devready = true ∧ s.hostThere = true) ∧
    (if held then (unblocked s).setHeader q hdrPend (2 ^ 63 + max (2 % 2 ^ 63) 5) = .waits
     else ∃ u, (unblocked s).setHeader q hdrPend (2 ^ 63 + max (2 % 2 ^ 63) 5) = .done u) := by
  intro held
  cases held with
  | false =>
    exact ⟨by decide +kernel, wrote_of (w := State.setHeader (unblocked (ready (onChunk (evQ none 3 3 2 0) fun c => c))) (q0 none 3) hdrPend
      (2 ^ 63 + max (2 % 2 ^ 63) 5)) (by decide +kernel)⟩
  | true =>
    exact ⟨by decide +kernel, (by decide +kernel : State.setHeader
      (unblocked (ready (onChunk (evQ none 3 3 2 0) fun c => { c with pregrant := .held, reads := [dataLoc 32, dataLoc 36] }))) (q0 none 3) hdrPend
      (2 ^ 63 + max (2 % 2 ^ 63) 5) = .waits)⟩

/-- A mapping with nothing pending, and one with a pending notify; and an unmapping. -/
theorem witness_LaunchEvents_map : ∀ v, v = 0 ∨ v = 2 ^ 63 + 5 → let q := q0 none 3
    let s := (evQ none 3 3 v 0).mapPart 0 fun p => { p with share := 0x0100 }
    let z : State := { s.mapQueue ⟨0, 0⟩ fun x => { x with slot := some 254 } with slots := 254 :: s.slots }
    (s.queue? ⟨0, 0⟩ = some q ∧ q.slot = none ∧ 254 < 255 ∧ 254 ∉ s.slots ∧ s.mayMap q = true ∧ s.ctxOwned q.ctx q.header 40 = false ∧
      z.headerWord q hdrPend = some v) ∧
    ∃ u, State.setHeader (z.mapQueue ⟨0, 0⟩ fun x => { x with target := v % 2 ^ 63 }) q hdrPend (v % 2 ^ 63) = .done u := by
  intro v hv q s z
  refine ⟨?_, wrote_of ?_⟩ <;> rcases hv with rfl | rfl <;> decide +kernel

theorem witness_LaunchEvents_unmap : let q := q0 (some 254) 4
    let s := evQ (some 254) 4 3 0 0
    let z : State := { s.mapQueue ⟨0, 0⟩ fun x => { x with slot := none } with slots := s.slots.filter fun y => y ≠ 254 }
    (s.queue? ⟨0, 0⟩ = some q ∧ q.slot = some 254 ∧ 254 ≠ 255 ∧ s.ctxOwned q.ctx q.header 40 = false ∧ z.headerWord q hdrPend = some 0 ∧
      z.headerWord q hdrHead = some 3 ∧ 3 < max (0 % 2 ^ 63) q.target) ∧
    ∃ u, State.setHeader (z.mapQueue ⟨0, 0⟩ fun x => { x with asked := z.steps }) q hdrPend (2 ^ 63 + max (0 % 2 ^ 63) q.target) = .done u :=
  ⟨by decide +kernel, wrote_of (by decide +kernel)⟩

/-- A record of one group of one warp: all its pointers in the data page. -/
def record0 : Nat :=
  2 * 2 ^ 22 + 65536 * 2 ^ 64 + 2 ^ 128 + 2 ^ 160 + 2 ^ 176 + 4096 * 2 ^ 192 + 2 ^ 224 + 0x22000 * 2 ^ 448 + 0x21800 * 2 ^ 512 + 0x16000 * 2 ^ 960

/-- One that the checks refuse, one whose producer has failed (or whose status entry no page holds), and one that is admitted. -/
def recordAt (n : Nat) : Nat :=
  match n with | 0 => record0 - (65536 * 2 ^ 64 - 4) | 1 | 3 => record0 + 2 ^ 10 + 2 ^ 0x240 + 2 ^ 0x250 + 2 ^ 0x260 | _ => record0

/-- Every status entry that the record's dependencies name can be read. -/
def statRead (s : State) (q : Queue) (l : Launch) : Bool :=
  l.fields.deps.all fun d => okAnd (s.readCtx q.ctx (statAddr q (l.pos - d.dist)) 1) fun _ => true

theorem statRead_of {s : State} {q : Queue} {l : Launch} (h : statRead s q l = true) :
    ¬∃ d ∈ l.fields.deps, ∃ e, s.readCtx q.ctx (statAddr q (l.pos - d.dist)) 1 = .error e := by
  intro ⟨d, hd, e, he⟩
  have := List.all_eq_true.mp h d hd
  simp [he, okAnd] at this

@[irreducible] def evAdmit (n : Nat) : State :=
  let t := withMem (evQ (some 9) 4 3 0 (recordAt n)) 0x20040 1 0x30
  { t.mapPart 0 (fun p => { p with exists_ := true, quads := 1, meng := 3, numbered := [0] }) with
    roles := 1, tlb := t.tlb ++ [{ entryW 3 3 with unit := deviceCore }] }

/-- What the queue asks of every admission. -/
theorem witness_LaunchEvents_queue : ∀ n, n < 3 → let q := q0 (some 9) 4
    let s := evAdmit n
    s.queue? q.key = some q ∧ s.context? q.ctx = some stageContext ∧ q.slot.isSome = true ∧ q.blocked = false ∧ stageContext.phase = .running ∧
    stageContext.release = none ∧ stageContext.scrubbing = false ∧ s.headerWord q hdrHead = some 3 ∧ s.headerWord q hdrCap = some 2 ∧
    s.headerWord q hdrBase = some 0x21000 ∧ s.ctxOwned q.ctx q.header 320 = false ∧ 3 < q.target ∧ 0x21000 % 128 = 0 ∧ q.key.part < s.parts.length := by
  decide +kernel

/-- The position's place is passed with its status, and its record or its bitmap is written. -/
theorem witness_LaunchEvents_admit : ∀ n, n < 3 → ∃ (bs : List Byte) (u v : State), let q := q0 (some 9) 4
    let s := evAdmit n
    let at_ := (0x21000 + 128 * (3 % 2 ^ (2 % 256))) % 2 ^ 64
    let l := Launch.fresh s stageContext q 3 (recordOf (leNat bs))
    s.readCtx stageContext.key at_ 128 = .ok bs ∧ s.recordOwned q at_ l = false ∧
    (¬∃ d ∈ l.fields.deps, ∃ e, s.readCtx q.ctx (statAddr q (l.pos - d.dist)) 1 = .error e) ∧
    (match n with
     | 0 => (∃ st, s.checkRecord stageContext l (leNat bs) = some st ∧ u.tryWrite stageCtx l.fields.compl (recordBytes st none l) = some v) ∧
         s.advanceHead q 3 3 = .done u
     | 1 => s.checkRecord stageContext l (leNat bs) = none ∧ s.producerFailed q l = true ∧ s.advanceHead q 3 3 = .done u ∧
         u.tryWrite stageCtx l.fields.compl (recordBytes 1 (some { code := .dependencyFailed }) l) = some v
     | _ => s.checkRecord stageContext l (leNat bs) = none ∧ s.producerFailed q l = false ∧ s.advanceHead q 3 1 = .done u ∧
         u.tryWrite stageCtx (l.fields.save + 4096) (List.replicate ((l.fields.groups + 7) / 8) 0) = some v) := by
  intro n hn
  have key : okAnd ((evAdmit n).readCtx stageContext.key ((0x21000 + 128 * (3 % 2 ^ (2 % 256))) % 2 ^ 64) 128) (fun bs =>
      let q := q0 (some 9) 4
      let s := evAdmit n
      let l := Launch.fresh s stageContext q 3 (recordOf (leNat bs))
      decide (s.recordOwned q ((0x21000 + 128 * (3 % 2 ^ (2 % 256))) % 2 ^ 64) l = false ∧ statRead s q l = true ∧
        (s.checkRecord stageContext l (leNat bs)).isSome = (n == 0) ∧ (n ≠ 0 → s.producerFailed q l = (n == 1))) &&
        (match s.advanceHead q 3 (if n = 2 then 1 else 3) with
         | .done u => if n = 2 then (u.tryWrite stageCtx (l.fields.save + 4096) (List.replicate ((l.fields.groups + 7) / 8) 0)).isSome
             else if n = 1 then (u.tryWrite stageCtx l.fields.compl (recordBytes 1 (some { code := .dependencyFailed }) l)).isSome
             else (s.checkRecord stageContext l (leNat bs)).any fun st => (u.tryWrite stageCtx l.fields.compl (recordBytes st none l)).isSome
         | _ => false)) = true := by
    revert n
    decide +kernel
  obtain ⟨bs, hbs, h⟩ := ok_of key
  obtain ⟨⟨own, read, st, pf⟩, wr⟩ := dec_and h
  have read := statRead_of read
  clear key h
  generalize evAdmit n = s at *
  cases ha : s.advanceHead (q0 (some 9) 4) 3 (if n = 2 then 1 else 3) with
  | failed | waits => rw [ha] at wr; cases wr
  | done u =>
    rw [ha] at wr
    obtain rfl | rfl | rfl : n = 0 ∨ n = 1 ∨ n = 2 := by omega
    · have ⟨x, hx, hw⟩ := some_of wr
      exact ⟨bs, u, _, hbs, own, read, ⟨x, hx, getD_of (d := u) hw⟩, ha⟩
    all_goals exact ⟨bs, u, _, hbs, own, read, by simpa using st, by simpa using pf, ha, getD_of (d := u) wr⟩

/-- The half that holds the queue's status entries is poisoned. -/
def evStat : State := let s := evAdmit 3
  { s with poison := [s.devLoc 0x20040] }

/-- A record with a dependency, whose status entry cannot be read. -/
theorem witness_LaunchEvents_status : ∃ bs : List Byte, let q := q0 (some 9) 4
    let s := evStat
    let at_ := (0x21000 + 128 * (3 % 2 ^ (2 % 256))) % 2 ^ 64
    let l := Launch.fresh s stageContext q 3 (recordOf (leNat bs))
    (s.queue? q.key = some q ∧ s.context? q.ctx = some stageContext ∧ s.headerWord q hdrHead = some 3 ∧ s.headerWord q hdrCap = some 2 ∧
    s.headerWord q hdrBase = some 0x21000 ∧ s.ctxOwned q.ctx q.header 320 = false ∧ q.key.part < s.parts.length) ∧
    s.readCtx stageContext.key at_ 128 = .ok bs ∧ s.recordOwned q at_ l = false ∧
    ∃ d ∈ l.fields.deps, ∃ e, s.readCtx q.ctx (statAddr q (l.pos - d.dist)) 1 = .error e := by
  obtain ⟨bs, hbs, h⟩ := ok_of (e := evStat.readCtx stageContext.key ((0x21000 + 128 * (3 % 2 ^ (2 % 256))) % 2 ^ 64) 128) (p := fun bs =>
    let l := Launch.fresh evStat stageContext (q0 (some 9) 4) 3 (recordOf (leNat bs))
    decide (evStat.recordOwned (q0 (some 9) 4) ((0x21000 + 128 * (3 % 2 ^ (2 % 256))) % 2 ^ 64) l = false) &&
      l.fields.deps.any fun d => !okAnd (evStat.readCtx stageCtx (statAddr (q0 (some 9) 4) (l.pos - d.dist)) 1) fun _ => true)
    (by decide +kernel)
  obtain ⟨own, h⟩ := dec_and h
  have ⟨d, hd, h⟩ := List.any_eq_true.mp h
  refine ⟨bs, by decide +kernel, hbs, own, d, hd, ?_⟩
  cases he : evStat.readCtx stageCtx (statAddr (q0 (some 9) 4)
      ((Launch.fresh evStat stageContext (q0 (some 9) 4) 3 (recordOf (leNat bs))).pos - d.dist)) 1 with
  | ok v => exact absurd h (by simp [Launch.fresh, okAnd] at he ⊢; rw [he])
  | error e => exact ⟨e, he⟩

/-- A ring that no page holds: the slot is passed, or, where HEAD is read-only, the queue stops. -/
theorem witness_LaunchEvents_unread : ∀ ro : Bool, let q := q0 (some 9) 4
    let t := withMem (evAdmit 2) 0x20000 8 0x10000000
    let s := if ro then { t with tlb := t.tlb.map fun (e : TlbEntry) => if e.page = 2 then { e with entry := BitVec.ofNat 64 (2 * 65536 + 1) } else e } else t
    (s.queue? q.key = some q ∧ s.context? q.ctx = some stageContext ∧ s.headerWord q hdrHead = some 3 ∧ s.headerWord q hdrCap = some 2 ∧
      s.headerWord q hdrBase = some 0x10000000 ∧ s.ctxOwned q.ctx q.header 320 = false ∧ 3 < q.target ∧ 0x10000000 % 128 = 0 ∧
      q.key.part < s.parts.length) ∧
    (∃ e, s.readCtx stageContext.key ((0x10000000 + 128 * (3 % 2 ^ (2 % 256))) % 2 ^ 64) 128 = .error e) ∧
    (if ro then s.advanceHead q 3 3 = .failed else ∃ u, s.advanceHead q 3 3 = .done u) := by
  intro ro q t s
  have err : okAnd (s.readCtx stageContext.key ((0x10000000 + 128 * (3 % 2 ^ (2 % 256))) % 2 ^ 64) 128) (fun _ => true) = false := by
    cases ro <;> decide +kernel
  refine ⟨by cases ro <;> decide +kernel, ?_, ?_⟩
  · cases h : s.readCtx stageContext.key ((0x10000000 + 128 * (3 % 2 ^ (2 % 256))) % 2 ^ 64) 128 with
    | ok bs => rw [h] at err; simp [okAnd] at err
    | error e => exact ⟨e, rfl⟩
  · have h : (if ro then decide (s.advanceHead q 3 3 = .failed) else wroteB (s.advanceHead q 3 3)) = true := by cases ro <;> decide +kernel
    cases ro with
    | true => exact (of_decide_eq_true h : s.advanceHead q 3 3 = .failed)
    | false => exact wrote_of h

theorem witness_LaunchEvents_dispatch : let l := { stageLaunch 0 with groups := [] }
    let s := { ev.mapPart 0 (fun p => { p with exists_ := true, quads := 1, meng := 3, numbered := [0] }) with roles := 1, launches := [l] }
    s.launch? 0 = some l ∧ s.nextGroup l = some 0 ∧ s.placeable l 0 0 = true ∧ s.outranked l 0 = false ∧ l.binds = [] := by decide +kernel

/-- The last group of a launch, and one of two. -/
theorem witness_LaunchEvents_complete : ∀ two : Bool,
    let s := onArch (onLaunch ev fun l => if two then { l with groups := l.groups ++ [Group.begin l 1 0 (0, 0, 0) 0], fields := { l.fields with gx := 2 } } else l)
      fun a => { a with st := List.replicate 32 .exited }
    s.launch? 0 = some (lau s) ∧ (lau s).desc = none ∧ (lau s).group? 0 = some (grp s) ∧ s.groupOver (lau s) (grp s) = true ∧
    (s.endGroup (lau s) 0).isSome = true ∧ (if two then ∃ y ∈ (lau s).groups, y.index ≠ 0 else (∀ y ∈ (lau s).groups, y.index = 0) ∧
      ∀ k, k < (lau s).fields.groups → k ≠ 0 → (lau s).bitmap.testBit k = true) := by
  intro two
  cases two <;> decide +kernel

theorem witness_LaunchEvents_fault : let s := onLaunch ev fun l => { l with fault := some { code := .poison } }
    s.launch? 0 = some (lau s) ∧ (lau s).fault.isSome = true ∧
    (State.endLaunch ((s.settleLaunch 0).discardChunks 0) (lau s) (if (lau s).fault.isSome then 1 else 2) 3).isSome = true ∧
    ∀ o ∈ s.ops, o.launch = 0 → ∀ r, o.kind ≠ .red r :=
  ⟨rfl, by decide +kernel, by decide +kernel, fun o ho =>
    absurd (show o ∈ [] from (show (onLaunch ev fun l => { l with fault := some { code := .poison } }).ops = [] by decide +kernel) ▸ ho) List.not_mem_nil⟩

theorem sound0 {s : State} (h : (s.launch? 0).isSome = true ∧ (lau s).num = 0 ∧ s.reproOf (lau s).ctx = false ∧ (lau s).fault = none ∧
    (lau s).saveInvalid = false) : s.sound (lau s) := ⟨by rw [h.2.1]; exact getD_of h.1, h.2.2.1, h.2.2.2.1, h.2.2.2.2⟩

theorem witness_LimitEvents : let s := onContext (baseWait .done (.barWait .core 2 9)) fun c => { c with watch := 2 ^ 30 }
    s.context? stageCtx = some { stageContext with watch := 2 ^ 30 } ∧ s.sound (lau s) ∧ (lau s).ctx = stageCtx ∧ s.stuckGroup (lau s) = some 0 :=
  ⟨by decide +kernel, sound0 (by decide +kernel), by decide +kernel, by decide +kernel⟩

theorem witness_LimitEvents_external :
    let s := withMem (onContext (baseWait .done (.word (dataLoc 0) 0)) fun c => { c with watch := 51000000000 }) 0x20000 8 (2 ^ 47)
    let x := { stageContext with watch := 51000000000 }
    s.context? stageCtx = some x ∧ s.oldest stageCtx = some (lau s) ∧ x.phase.resident = true ∧ (s.part 0).extWait ≠ 0 ∧
    (x.extSent + 1) * (s.part 0).extWait ≤ x.watch ∧ 0 < s.parts.length ∧
    (∃ y ∈ s.launches, y.ctx = stageCtx ∧ ∃ g ∈ y.groups, ∃ w ∈ g.warps, WaitClass.external ∈ s.warpWaits y w) ∧
    (∀ y ∈ s.launches, y.ctx = stageCtx → ∀ g ∈ y.groups, ∀ w ∈ g.warps, WaitClass.internal ∉ s.warpWaits y w) := by decide +kernel

/-- The pool is empty, and the chunk, or the COPY, writes an unbacked page of the region. -/
def needs : List (Loc × Byte) := [({ space := .region 0, addr := 0x100000 }, 5)]

theorem witness_LimitEvents_pool : let s := { onChunk ev (fun c => { c with poolSince := some 7, writes := needs }) with cycle := 8500007 }
    s.finds W0 (lau s) (grp s) (wrp s) ∧ s.sound (lau s) ∧ (wrp s).chunk.poolSince = some 7 ∧ 7 + (s.part 0).poolWait ≤ s.cycle ∧
    s.lacks (wrp s).chunk.resets (wrp s).chunk.writes = true :=
  ⟨finds0 (by decide +kernel), sound0 (by decide +kernel), by decide +kernel⟩

/-- A stall's row has waited for backing, with no page in the pool, and its run's operation is there or not. -/
theorem witness_LimitEvents_stall : ∀ has : Bool, ∃ r x, let t := nearRun id fun x => { x with poolSince := some 7 }
    let s := { t with cycle := 8500007, ops := if has then [opOf 4 .run] else [] }
    s.run? 0 = some r ∧ r.num = 0 ∧ r.stall? 0 = some x ∧ x.stall = 0 ∧ (lau s).num = r.launch ∧ s.sound (lau s) ∧ x.poolSince = some 7 ∧
    7 + (s.part r.part).poolWait ≤ s.cycle ∧ (s.part r.part).pool = [] ∧ ∀ o, r.op.bind s.op? = some o → o.launch = r.launch := by
  intro has
  let t := nearRun id fun x => { x with poolSince := some 7 }
  let s := { t with cycle := 8500007, ops := if has then [opOf 4 .run] else [] }
  have key : ((s.run? 0).any fun r => (r.stall? 0).any fun x => decide (r.num = 0 ∧ x.stall = 0 ∧ (lau s).num = r.launch ∧ x.poolSince = some 7 ∧
      7 + (s.part r.part).poolWait ≤ s.cycle ∧ (s.part r.part).pool = [] ∧ ∀ o ∈ r.op.bind s.op?, o.launch = r.launch)) = true := by
    cases has <;> decide +kernel
  have ⟨r, hr, h⟩ := some_of key
  have ⟨x, hx, h⟩ := some_of h
  obtain ⟨num, stall, launch, h⟩ := of_decide_eq_true h
  exact ⟨r, x, hr, num, hx, stall, launch, sound0 (by cases has <;> decide +kernel), h⟩

theorem witness_LimitEvents_op : let o := { cpOp (some needs) false with poolSince := some 7 }
    let s := { ev with ops := [o], cycle := 8500007 }
    s.op? 3 = some o ∧ (lau s).num = o.launch ∧ s.sound (lau s) ∧ o.poolSince = some 7 ∧ 7 + (s.part 0).poolWait ≤ s.cycle ∧
    s.lacks [] (s.opBytes o) = true :=
  ⟨rfl, by decide +kernel, sound0 (by decide +kernel), by decide +kernel⟩

/-- Page 1 of the region, backed by a pool page that holds the default in every byte: zero. -/
def zeroRegion : Region := { reg0 with default := 0 }

theorem witness_LimitEvents_release : let s := ev.mapPart 0 fun p => { p with regions := [(0, zeroRegion)] }
    let x : Loc := { space := .region 0, addr := 0x110000 }
    0x110000 / 65536 * 65536 = 0x110000 ∧ s.regionAt 0 x.addr = some (0, zeroRegion) ∧ zeroRegion.sparse = true ∧
    s.reproOf { part := 0, ctx := zeroRegion.ctx, fw := false } = false ∧ s.isBacked x = true ∧ s.releasable x = true ∧
    s.pinnedPage x = false ∧ (∀ d ∈ s.dirty, d.line.page ≠ x) ∧ s.heldBack none { words := [], wiped := [], states := [x] } = false ∧ zeroRegion.base % 65536 = 0 ∧
    zeroRegion.es ≤ 3 ∧ 0 < s.parts.length := by decide +kernel

theorem witness_LimitEvents_page : ∀ n, n < 65536 →
    State.regionAt (ev.mapPart 0 fun p => { p with regions := [(0, zeroRegion)] }) 0 (0x110000 + n) = some (0, zeroRegion) := by
  intro n hn
  have h : ((ev.mapPart 0 fun p => { p with regions := [(0, zeroRegion)] }).part 0).regions = [(0, zeroRegion)] := by decide +kernel
  unfold State.regionAt
  rw [h]
  have h1 : zeroRegion.base ≤ 0x110000 + n := Nat.le_trans (by decide) (Nat.le_add_right _ n)
  have h2 : 0x110000 + n < zeroRegion.base + zeroRegion.pages * 65536 := Nat.lt_of_lt_of_le (Nat.add_lt_add_left hn _) (by decide)
  simp [h1, h2]

theorem witness_LimitEvents_scrub : let s := (withRot State.reset).setRot 5 RotEntry.reset
    s.memOk = true ∧ s.rotAt.isSome = true ∧ 5 < Config.dramPages ∧ (s.rotOf 5).scrb = true := by decide +kernel

theorem witness_RecoveryEvents : ev.launch? 0 = some (lau ev) ∧ ev.warp? W0 = some (wrp ev) ∧ Item.v 3 ∉ (wrp ev).chunk.logged ∧
    (let s := onChunk ev fun c => { c with logged := [.v 3], soft := 6 }
     s.warp? W0 = some (wrp s) ∧ Item.v 3 ∈ (wrp s).chunk.logged ∧ (wrp s).chunk.soft < 7) ∧
    ev.group? 0 0 = some (grp ev) ∧ (grp ev).tiles[15]? = some Tile.fresh ∧
    AgentId.core 0 ∉ ev.lost ∧ (∀ e, AgentId.core 0 ≠ .engine e) ∧ ev.sound (lau ev) ∧ (∃ g ∈ (lau ev).groups, g.resident = true ∧ g.core = 0) ∧
    ev.lossHeld (.core 0) = false ∧
    (let s := onChunk { ev with dirty := [{ line := (dataLoc 0).line, core := 5, launch := 7 }] } fun c => { c with pregrant := .held, reads := [dataLoc 0] }
     AgentId.core 5 ∉ s.lost ∧ s.lossHeld (.core 5) = true) ∧
    (∀ m : Bool, let t := evTile (tileOf (.accz zA 0) 0 0) false true 0
     let s := { t with engines := t.engines.map fun (e : Engine) => { e with mismatched := m } }
     AgentId.engine eng0 ∉ s.lost ∧ s.lossHeld (.core eng0.core) = false ∧ (s.engine eng0).reset = true ∧ (s.engine eng0).mismatched = m) :=
  ⟨rfl, rfl, by decide +kernel, by decide +kernel, rfl, by decide +kernel, by decide +kernel, fun e h => AgentId.noConfusion h,
    sound0 (by decide +kernel), by decide +kernel⟩

/-- A chunk that has logged each item that a soft error can hit, or none of them; and a launch whose undo buffer both copies lose. -/
theorem witness_RecoveryEvents_items : (∀ r < 2, ∀ it ∈ [Item.v r, .s r, .p r, .h r, .flags, .gang, .spad r],
      ev.warp? W0 = some (wrp ev) ∧ it ∉ (wrp ev).chunk.logged ∧ (wrp ev).chunk.soft < 7 ∧
      let s := onChunk ev fun c => { c with logged := [it], soft := 6 }
      s.warp? W0 = some (wrp s) ∧ it ∈ (wrp s).chunk.logged ∧ (wrp s).chunk.soft < 7) ∧
    ev.launch? 0 = some (lau ev) ∧ ev.finds W0 (lau ev) (grp ev) (wrp ev) ∧ ev.sound (lau ev) :=
  ⟨by decide +kernel, rfl, finds0 (by decide +kernel), sound0 (by decide +kernel)⟩

/-! #### The outside world -/

/-- Ready, with one partition and one context; pages 2 and 3 open to the host and to peers. -/
def dev : State :=
  let e : RotEntry := { scrb := false, px := true, hx := true, ctx := 0, cls := 1, part := 0 }
  let s := (((withRot State.reset).setRot 2 e).setRot 3 e).mapPart 0 fun p => { p with exists_ := true, chans := BitVec.allOnes 768 }
  { s with devready := true, lwidth := 3, contexts := [stageContext] }

/-- A versioned region with its step open, its pages at pages 2 and 3. -/
def devStep : State := dev.mapPart 0 fun p => { p with regions := [(0, { versR true false with ext := true, fpa := 0x20000, pages := 2 })] }

/-- The host is there or not (a lost bridge, a link that is down), the device ready or not, the address in the decoder's range or
not, the page open or not, its bytes poisoned or not. -/
theorem witness_OutsideEvents : ({ dev with lost := [.hostBridge] } : State).hostThere = false ∧ State.reset.hostThere = false ∧
    (({ State.reset with lwidth := 3 } : State).hostThere = true ∧ State.reset.devready = false) ∧ dev.hostThere = true ∧ dev.devready = true ∧
    (0x4FFC0 < Config.dramBytes ∧ Config.dramBytes ≤ Config.dramBytes / 64 * 64) ∧ dev.admits true 0x4FFC0 = false ∧ dev.admits true 0x3FFC0 = true ∧ (∀ i, i < 64 → dev.isPoisoned (dev.devLoc (0x3FFC0 + i)) = false) ∧
    (let s : State := { dev with poison := [dev.devLoc 0x3FFC0] }
     s.admits true 0x3FFC0 = true ∧ ∃ i, i < 64 ∧ s.isPoisoned (s.devLoc (0x3FFC0 + i)) = true) ∧
    (1 ≠ 0 ∧ 1 ≤ 16 ∧ (dev.part (1 - 1)).exists_ = true ∧ 0xFFF8 < 0x10000) ∧ (2 ≠ 0 ∧ (dev.part (2 - 1)).exists_ = false) := by
  decide +kernel

/-- A peer's access that is served, that meets poison, that waits for the host or for its answer's ports, that is refused, before
DEVREADY too, and that is dropped. -/
theorem witness_OutsideEvents_peer : AgentId.peer 3 ∉ dev.lost ∧ dev.admitsAll false 0x3FFC0 64 = true ∧ dev.admitsAll false 0x3FFC0 65 = false ∧
    dev.hostHas 0x3FFC0 64 = false ∧ dev.answersStopped 3 = false ∧ (∀ i, i < 64 → dev.isPoisoned (dev.devLoc (0x3FFC0 + i)) = false) ∧
    (let s : State := { dev with halves := [(dev.devLoc 0x3FFC0, .owned)] }
     AgentId.peer 3 ∉ s.lost ∧ s.devready = true ∧ s.admitsAll false 0x3FFC0 64 = true ∧ s.hostHas 0x3FFC0 64 = true) ∧
    (let s : State := { dev with routes := dev.routes.set 3 1, xoff := [(0, 1)] }
     AgentId.peer 3 ∉ s.lost ∧ s.devready = true ∧ s.admitsAll false 0x3FFC0 64 = true ∧ s.answersStopped 3 = true) ∧
    (let s : State := { dev with poison := [dev.devLoc 0x3FFC0] }
     s.hostHas 0x3FFC0 64 = false ∧ s.answersStopped 3 = false ∧ ∃ i, i < 64 ∧ s.isPoisoned (s.devLoc (0x3FFC0 + i)) = true) ∧
    dev.admitsAll false 0x3FFC0 [(7 : Byte)].length = true ∧ devStep.stepOpenAt (0x3FFC0 / 65536) = true ∧ dev.admitsAll false 0x4FFC0 [(7 : Byte)].length = false ∧
    (AgentId.peer 3 ∉ State.reset.lost ∧ State.reset.answersStopped 3 = false ∧ State.reset.devready = false) ∧
    AgentId.peer 3 ∈ ({ dev with lost := [.peer 3] } : State).lost := by
  decide +kernel

/-- A write of the last byte of a half, by the host or a peer; one of a byte that an operation has yet to read; and one into a
step that is open. -/
theorem witness_OutsideEvents_write : ∃ u, let pa := 0x2003F
    let ws := [((7 : Byte), 0)].map fun p => (dev.devLoc (pa + p.2), p.1)
    (dev.hostThere = true ∧ dev.devready = true ∧ dev.admits true pa = true ∧ dev.admitsAll false pa 1 = true ∧ dev.hostHas pa 1 = false ∧
      dev.stepOpenAt (pa / 65536) = false ∧ dev.sourceHeld none (ws.map fun p => p.1) = false ∧
      ((([7] : List Byte)).take (64 - pa % 64)).zipIdx = [(7, 0)]) ∧ dev.singleton ws = .done u ∧
    ({ dev with ops := [{ cpOp none false with sources := [(dev.devLoc pa, 1)] }] } : State).sourceHeld none (ws.map fun p => p.1) = true ∧
    (devStep.hostThere = true ∧ devStep.devready = true ∧ pa < Config.dramBytes ∧ devStep.stepOpenAt (pa / 65536) = true) := by
  obtain ⟨u, hu⟩ := done_of (p := dev.singleton ([((7 : Byte), 0)].map fun p => (dev.devLoc (0x2003F + p.2), p.1))) (by decide +kernel)
  exact ⟨u, (by decide +kernel), hu, by decide +kernel, by decide +kernel⟩

/-- Both directions in each of the training states, so that the event's direction is in it, at the first and the last restart, with
all its lanes and with too few; and a direction that has 32, 16 or 8 lanes and no more. -/
theorem witness_OutsideEvents_link : (23 < 24 ∧ 3 < 4) ∧ ∀ st ∈ [LinkState.detect, .align, .equalise, .rate, .active, .down], ∀ n ∈ [0, 2],
    let d : LinkDir := { state := st, present := BitVec.allOnes 32, width := 32, slow := false, restarts := n }
    let s : State := { dev with linkIn := d, linkOut := d, bringStep := if n = 0 then 5 else 7 }
    5 ≤ s.bringStep ∧ State.reset.bringStep < 5 ∧ s.linkIn.state = st ∧ s.linkOut = d ∧ s.linkIn.restarts = n ∧ s.linkIn.slow = false ∧ s.linkIn.width = 32 ∧ (∀ k, k < 32 → s.linkIn.present.getLsbD k = true) ∧
    (∀ k, k < 32 → (BitVec.allOnes 32).getLsbD k = true) ∧ ¬(∀ k, k < 8 → (0x7F#32).getLsbD k = true) ∧
    ∀ n ∈ [32, 16, 8], let d : LinkDir := { state := .align, present := BitVec.ofNat 32 (2 ^ n - 1), width := 32, slow := false, restarts := 0 }
      n ≤ d.width ∧ (∀ k, k < n → d.present.getLsbD k = true) ∧ ∀ m ∈ [32, 16, 8], n < m → ¬∀ k, k < m → d.present.getLsbD k = true := by decide +kernel

def bring0 : BringUp :=
  { failStep := none, lwidth := 3, lrate := true, fports := 0, forbidden := [], digests := [], fwBase := 4, fwPages := 2, fwImage := [1, 2], fwRoot := 0x40000
    fwHeader := 0x1000 }

theorem witness_PowerEvents : (∀ k, k < 8 → 1 ≤ k → k ≤ 7 → bringFails bring0 k = false) ∧ bring0.fwBase + bring0.fwPages + Config.rotPages ≤ Config.dramPages ∧
    (∃ t, exec (.bringUp bring0) State.reset = .next t) ∧ State.reset.roll.length + 3 ≤ Config.rollEntries ∧
    State.reset.overPower = false ∧ ({ State.reset with hotTiers := 0x80 } : State).hotTiers = BitVec.ofNat 8 (2 ^ (7 : Fin 8).val) ∧
    State.reset.hotTiers = 0 ∧ State.reset.rollFree ≠ 0 ∧ State.reset.meas.length = 8 :=
  ⟨by decide +kernel, by decide +kernel, ⟨_, rfl⟩, by decide +kernel⟩

/-- Bring-up that fails at its first step, at its sixth, and at its link. -/
theorem witness_PowerEvents_fail : ∀ p ∈ [(({ bring0 with failStep := some 1 } : BringUp), 1), ({ bring0 with failStep := some 6 }, 6),
    ({ bring0 with lwidth := 0 }, 5)], (∃ t, exec (.bringUp p.1) State.reset = .next t) ∧ 1 ≤ p.2 ∧ p.2 ≤ 6 ∧ bringFails p.1 p.2 = true ∧
      ∀ j, j < p.2 → 1 ≤ j → bringFails p.1 j = false := by
  intro p hp
  refine ⟨⟨_, rfl⟩, ?_⟩
  revert p
  decide +kernel

theorem witness_PowerEvents_load : let s := (withRot State.reset).setRot 4 { RotEntry.reset with scrb := false, cls := 3 }
    s.rollFree ≠ 0 ∧ s.meas.length = 8 ∧ ∀ n, 4 ≤ n → n < (0x40000 + [(1 : Byte), 2].length + 65535) / 65536 → (s.rotOf n).cls = 3 := by
  refine ⟨by decide +kernel, by decide +kernel, fun n h1 h2 => ?_⟩
  have h2' : n < 5 := h2
  have : n = 4 := by omega
  subst this
  decide +kernel

def spdmOk : Spdm := { Spdm.reset with version := true, caps := true, algs := true, session := some 5 }
def spdmA (n : Option Nat) : SpdmArgs := { session := n, param := 5, payload := [1] }

theorem witness_AttestationEvents : let s := { dev with spdm := spdmOk }
    s.spdm.version = true ∧ s.spdm.caps = true ∧ s.spdm.algs = true ∧ s.rollFree ≠ 0 ∧ s.spdm.session = some 5 ∧ (spdmA (some 5)).session = some 5 ∧
    (spdmA (some 6)).session ≠ s.spdm.session := by decide +kernel

/-- The Roll is full. -/
theorem witness_AttestationEvents_full : ∀ e : RollEntry, let s : State := { dev with spdm := spdmOk, roll := List.replicate Config.rollEntries e }
    s.rollFree = 0 ∧ s.spdm.version = true ∧ s.spdm.caps = true ∧ s.spdm.algs = true := by
  have h (d : State) (e : RollEntry) : let s : State := { d with spdm := spdmOk, roll := List.replicate Config.rollEntries e }
      s.rollFree = 0 ∧ s.spdm.version = true ∧ s.spdm.caps = true ∧ s.spdm.algs = true := by
    refine ⟨?_, rfl, rfl, rfl⟩
    simp only [State.rollFree, List.length_replicate]
    omega
  exact h dev

/-! #### Requests and control space -/

def rq0 : Req := { admin := false, part := 0, tag := 9 }
def rqA : Req := { admin := true, part := 0, tag := 9 }

theorem takes0 {s : State} (h : 0 < s.parts.length ∧ s.hears rq0 = true ∧ s.serving rq0 = false) : s.takes rq0 := ⟨rfl, h.1, h.2.1, h.2.2⟩

theorem witness_ContextRequests : dev.takes rq0 ∧ 63 < 64 ∧ 0xFFFFFFFFFF000 % 4096 = 0 ∧ 0xFFFFFFFFFF000 < 2 ^ 52 ∧
    dev.context? { part := 0, ctx := 63, fw := false } = none ∧ dev.context? stageCtx = some stageContext ∧ dev.hasLaunch stageContext.key = false ∧
    stageContext.scrubbing = false ∧ dev.rollFree ≠ 0 ∧
    (let s := { dev with rotAt := none }; s.takes rq0 ∧ s.context? stageCtx = some stageContext ∧ s.ctxPages stageContext.key = []) ∧
    255 < 256 ∧ (0x1FFFFFFFFFFFE00#64).toNat % 512 = 0 ∧ canonical (0xFFFFFFFFFFFE00#64).toNat = true ∧ dev.queue? ⟨0, 255⟩ = none :=
  ⟨takes0 (by decide +kernel), by decide, by decide, by decide, rfl, rfl, by decide +kernel, rfl, by decide +kernel,
    ⟨takes0 (by decide +kernel), by decide +kernel⟩, by decide +kernel⟩

/-- A context and a queue in use. -/
theorem witness_ContextRequests_busy : let s := { dev with launches := [stageLaunch 0], queues := [q0 (some 3) 0] }
    s.takes rq0 ∧ s.context? stageCtx = some stageContext ∧ s.hasLaunch stageContext.key = true ∧ s.queue? ⟨0, 0⟩ = some (q0 (some 3) 0) ∧
    (q0 (some 3) 0).ctx = stageCtx ∧ ∃ l ∈ s.launches, l.queue = (q0 (some 3) 0).key :=
  ⟨takes0 (by decide +kernel), by decide +kernel⟩

theorem witness_ContextRequests_set : (850000 ≤ 850000000 ∧ 850000000 ≤ 850000000 ∧ 85000 ≤ 85000 ∧ 85000 ≤ 85000000) ∧
    (let s := onContext dev fun c => { c with phase := .halted }
     s.takes rq0 ∧ s.context? stageCtx = some { stageContext with phase := .halted } ∧ (1 ≤ 1 ∧ 2 = 2)) ∧
    (let s := withMem dev 0x20000 24 (0x10000 + 2 ^ 104 + 0x20000 * 2 ^ 128)
     s.takes rq0 ∧ s.context? stageCtx = some stageContext ∧ 0x20000#64 ≠ 0 ∧ 1 ≤ 65536 ∧ (0x20000#64).toNat % 16 = 0 ∧
     s.assigned 0 (0x20000#64).toNat ((0x20000#64).toNat + 16 * 1) = true ∧ schedOk 0 (s.schedTable (0x20000#64).toNat 1) = true ∧
     ∀ j, j < 2 * 1 → let x := s.devLoc ((0x20000#64).toNat + 8 * j); s.hostOwns x = false ∧ s.isPoisoned x = false) ∧
    (let s := dev.mapPart 0 fun p => { p with serving := some (8, []) }; rq0.admin = false ∧ s.hears rq0 = true ∧ s.serving rq0 = true) ∧ ((0xFF : Byte).toNat = 0 ∨ 13 < (0xFF : Byte).toNat) :=
  ⟨by decide, ⟨takes0 (by decide +kernel), by decide +kernel, by decide⟩,
    ⟨takes0 (by decide +kernel), by decide +kernel⟩, by decide +kernel, by decide⟩

/-- A region of four pages beside one that exists. -/
def rgA : RegionArgs := { w0 := 0x200000, w1 := 4, w2 := 0x11, w3 := 0, fpa := 0, voff := 0 }

theorem witness_MemoryRequests : ∃ r, let s := dev.mapPart 0 fun p => { p with regions := [(0, reg0)] }
    s.takes rq0 ∧ regionOf 0 rgA = some r ∧ (s.context? stageCtx).isSome = true ∧ (∀ x ∈ (s.part 0).regions, r.meets x.2 = false) ∧
    (s.part 0).freeRegion = some 1 ∧ r.vers = false ∧ r.ext = false ∧ r.fwin = none ∧ getKey 0 (s.part 0).regions = some reg0 ∧
    State.pinned (s.putRequest rq0 6) (State.regionPages (s.putRequest rq0 6) 0 reg0) = false ∧
    State.pinnedIn (s.putRequest rq0 6) rq0.part reg0 = false ∧ s.memOk = true ∧
    s.rotAt.isSome = true ∧ ∀ pg ∈ State.regionPages (s.putRequest rq0 6) 0 reg0, pg < Config.dramPages := by
  obtain ⟨r, hr, h⟩ := some_of (o := regionOf 0 rgA) (p := fun r => decide ((∀ x ∈ ((dev.mapPart 0 fun p => { p with regions := [(0, reg0)] }).part 0).regions,
    r.meets x.2 = false) ∧ r.vers = false ∧ r.ext = false ∧ r.fwin = none)) (by decide +kernel)
  obtain ⟨h1, h2, h3, h4⟩ := of_decide_eq_true h
  exact ⟨r, takes0 (by decide +kernel), hr, by decide +kernel, h1, by decide +kernel, h2, h3, h4, by decide +kernel⟩

theorem onChannels_all (s : State) (pg : Nat) (h : (s.part 0).chans = BitVec.allOnes 768) : s.onChannels 0 pg = true := by
  unfold State.onChannels
  rw [List.all_eq_true]
  intro k _
  rw [h, BitVec.getLsbD_allOnes, decide_eq_true_eq]
  have : Config.bankGroup (pg * 32 + k) % (8 * Config.stallsPerTier) < 8 * Config.stallsPerTier := Nat.mod_lt _ (by decide)
  have h2 : 8 * Config.stallsPerTier = 12288 := rfl
  omega

/-- The last page of DRAM, free. -/
theorem witness_MemoryRequests_grant : let pg := Config.dramBytes / 65536 - 1
    let s := dev.setRot pg { RotEntry.reset with scrb := false }
    s.takes rq0 ∧ 1 ≠ 0 ∧ rq0.part < 16 ∧ s.memOk = true ∧ 63 < 64 ∧ (s.context? stageCtx).isSome = true ∧ ∀ k, k < 1 → s.freePage (pg + k) = true ∧ s.onChannels 0 (pg + k) = true := by
  refine ⟨takes0 (by decide +kernel), by decide, by decide, by decide +kernel, by decide, rfl, fun k hk => ?_⟩
  have : k = 0 := by omega
  subst this
  exact ⟨by decide +kernel, onChannels_all _ _ (by decide +kernel)⟩

/-- Two pages, which an operation has pinned or not. -/
theorem witness_MemoryRequests_free : ∀ pin : Bool, let s := { dev with ops := if pin then [{ cpOp none false with pins := [dev.devLoc 0x30000] }] else [] }
    s.takes rq0 ∧ 2 ≠ 0 ∧ s.memOk = true ∧ (∀ k, k < 2 → let e := s.rotOf (2 + k); e.part = 0 ∧ (e.cls = 1 ∨ e.cls = 2) ∧ e.scrb = false) ∧
    (∀ k, k < 2 → State.backs (s.putRequest rq0 9) 0 (2 + k) = false) ∧ State.pinned (s.putRequest rq0 9) (pageRange 2 2) = pin := by
  intro pin
  cases pin <;> exact ⟨takes0 (by decide +kernel), by decide +kernel⟩

theorem witness_MemoryRequests_tlb : ∀ all : Bool, let s := { dev with tlb := [stageEntry] }
    s.takes rq0 ∧ (s.context? stageCtx).isSome = true ∧
    State.pinnedVa (s.putRequest rq0 10) stageCtx (fun k => all || (decide (1 ≤ k) && decide (k < 1 + 2))) = false := by
  intro all
  exact ⟨takes0 (by cases all <;> decide +kernel), by decide +kernel, by cases all <;> decide +kernel⟩

/-- One operation of the launch has pinned a page of the host. -/
def devPin : State :=
  (({ dev with launches := [stageLaunch 0], ops := [{ cpOp none false with pins := [{ space := .host, addr := 0x40000 }] }] } : State).mapPart 0
    fun p => { p with chans := 0, hosts := [(0x40000, 0x50000)] })

/-- A write that is taken, and one that is refused: a window's scale, and an offset that holds no register; nothing pinned, and a
pinned page of the host in the range that a write takes away. -/
theorem witness_ControlWrites : (∃ u, dev.writeWord none 0x20000 1 = .ok u) ∧ (∃ n, dev.writeWord none 0x4 0 = .error n) ∧
    dev.writeHeld 0x20000 1 = false ∧ dev.writeHeld 0x4 0 = false ∧ dev.pinnedLocs = [] ∧ devPin.pinnedLocs ≠ [] ∧
    devPin.writeHeld 0x10 1 = true ∧ devPin.writeHeld 0x103A0 0 = true := by
  obtain ⟨u, hu, -⟩ := ok_of (e := dev.writeWord none 0x20000 1) (p := fun _ => true) (by decide +kernel)
  have h : okAnd (dev.writeWord none 0x4 0) (fun _ => true) = false := by decide +kernel
  refine ⟨⟨u, hu⟩, ?_, by decide +kernel⟩
  cases he : dev.writeWord none 0x4 0 with
  | ok u => rw [he] at h; simp [okAnd] at h
  | error n => exact ⟨n, rfl⟩

theorem witness_ControlWrites_roles : dev.roleChange = none ∧ dev.rolesOk (BitVec.ofNat 8 (0xB5#64).toNat) = true ∧
    dev.rolesOk (BitVec.ofNat 8 (0x03#64).toNat) = false ∧ dev.rollFree ≠ 0 ∧
    (let s := { dev with roleChange := some 0xB5 }; s.roleChange = some 0xB5 ∧ s.drained (s.roles ^^^ 0xB5) = true ∧
      (∀ x ∈ s.flushedLines (s.roles ^^^ 0xB5), s.recallHolders (x, 128) = []) ∧ s.groupsOf 0 = []) ∧
    (let s := { ev with roleChange := some 0 }; s.drained (s.roles ^^^ 0) = true ∧ s.groupsOf 0 ≠ []) := by decide +kernel

theorem witness_ControlWrites_blocks : dev.fwins[(15 : Fin 16).val]? = some FWin.reset ∧ FWin.reset.en = false ∧ (0x200#64).toNat / 2 % 4 ≠ 3 ∧
    (0x200#64).toNat % 2 = 0 ∧ 0x418 % 8 = 0 ∧ 0x418 ≤ 0x418 ∧ (15 : Fin 16).val < dev.parts.length ∧
    dev.ownCause 15 ((dev.part 15).setBlock 0x418 (0x0100#64).toNat) = 0 ∧ dev.writeHeld (0x10000 + 0x800 * 15 + 0x418) (0x0100#64).toNat = false ∧
    dev.groupsOf 15 = [] ∧
    (let s := ev.mapPart 0 fun p => { p with quads := 1 }
     let b := (s.part 0).setBlock 0 (3#64).toNat
     s.ownCause 0 b = 0 ∧ s.writeHeld 0x10000 (3#64).toNat = false ∧ b.quads ≠ (s.part 0).quads ∧ s.groupsOf 0 ≠ [] ∧
       ∀ x ∈ s.groupsOf 0, (s.context? x.1.ctx).isSome = true) ∧
    (let s := dev.mapPart 1 fun p => { p with quads := 1 }; s.ownCause 15 ((s.part 15).setBlock 0 (1#64).toNat) = 4 ∧ 4 ≠ 0) := by decide +kernel

def img0 : PartImage :=
  { quads := 1, slices := 1, chans := 1, meng := 0, ceng := 0, stalls := 0, fwins := 0, hosts := [] }

theorem witness_ControlWrites_requests : dev.takesAdmin rqA ∧ 15 < 16 ∧ dev.parts.length = 16 ∧
    (let s := dev.mapPart 0 fun p => { p with chans := 0 }
     s.takesAdmin rqA ∧ s.parts.length = 16 ∧ (s.part 15).exists_ = false ∧ s.rollFree ≠ 0 ∧
       (let b := PartImage.partition img0; s.ownCause 15 { b with numbered := b.owned s.roles } = 0)) ∧
    dev.ownCause 15 ((dev.part 15).setBlock 0x418 (0x0100#64).toNat) = 0 ∧
    (let s := { dev with contexts := [] }; s.takesAdmin rqA ∧ (s.part 0).exists_ = true ∧ (∀ c ∈ s.contexts, c.key.part ≠ 0) ∧ (∀ l ∈ s.launches, l.ctx.part ≠ 0) ∧ s.rollFree ≠ 0) ∧
    dev.roleChange = none ∧ 63 < 64 ∧ (List.replicate 64 (0 : BitVec 24)).length = 64 := by
  unfold State.takesAdmin
  decide +kernel

/-! #### Encodings and the step -/


/-- A half with code 0x0E, and an empty half whose other fields are not zero. -/
theorem witness_UnassignedPairCodes :
    (let w := 0x4000_0000_0E00_0000; bits w 62 2 = 1 ∧ 0x0E ≤ bits (bits w 0 31) 24 7 ∧ bits (bits w 0 31) 24 7 ≤ 0x1F) ∧
    (let w := 0x4080_8100_0000_0001; bits w 62 2 = 1 ∧ bits (bits w 0 31) 24 7 = 0 ∧ bits (bits w 0 31) 0 31 % 2 ^ 24 ≠ 0) ∧
    ((base32.issueOf { g := { p := 7, neg := false } }).any fun b => b.l.fault.isNone && !b.l.saveInvalid && b.w.fault.isNone) = true := by
  decide +kernel

def decodesTo (bs : List Byte) (n : Nat) : Bool := okAnd (decodeBytes bs) fun p => p.2 == n

/-- A warp's turn: the words of IADD (one word) and of MOVW (two), in its page. -/
theorem witness_StepRunsDecoded : ∀ p ∈ [(64, 0x0010_1020_3007_0000, 8), (128, 0xC000_0000_0123_4567_826E_4007_89AB_CDEF, 16)],
    let s := State.reset.withFetchWord p.1 p.2.1
    let u : State := { s with agenda := [] }
    s.powered = true ∧ s.bringing = none ∧ s.agenda = .issue W0 :: [] ∧ u.canIssue W0 = true ∧
    ∃ l g w pc lanes x y, s.finds W0 l g w ∧ w.arch.pick = some (pc, lanes) ∧ pc % 8 = 0 ∧ u.wordHeld l.ctx g.core pc = false ∧
      u.xlate l.ctx g.core pc .exec = .ok x ∧
      let u1 := x.s.fillLines [x.loc]
      (u1.isPoisoned x.loc = false ∧ u1.refuses x.loc = false ∧ u1.wordHeld l.ctx g.core (nextWord pc) = false) ∧
      u1.xlate l.ctx g.core (nextWord pc) .exec = .ok y ∧
      let u2 := y.s.fillLines [y.loc]
      u2.isPoisoned y.loc = false ∧ u2.refuses y.loc = false ∧ decodesTo (u1.bytesAt x.loc 8) 8 = (p.2.2 == 8) ∧
        decodesTo (u1.bytesAt x.loc 8 ++ u2.bytesAt y.loc 8) p.2.2 = true := by
  intro p hp s u
  have h : (decide (s.powered = true ∧ s.bringing = none ∧ s.agenda = [.issue W0] ∧ u.canIssue W0 = true) && (s.launch? 0).any fun l =>
      (s.group? 0 0).any fun g => (s.warp? W0).any fun w => w.arch.pick.any fun q =>
        decide (q.1 % 8 = 0 ∧ u.wordHeld l.ctx g.core q.1 = false) && okAnd (u.xlate l.ctx g.core q.1 .exec) fun x =>
          let u1 := x.s.fillLines [x.loc]
          decide (u1.isPoisoned x.loc = false ∧ u1.refuses x.loc = false ∧ u1.wordHeld l.ctx g.core (nextWord q.1) = false) &&
            okAnd (u1.xlate l.ctx g.core (nextWord q.1) .exec) fun y =>
              let u2 := y.s.fillLines [y.loc]
              decide (u2.isPoisoned y.loc = false ∧ u2.refuses y.loc = false ∧ decodesTo (u1.bytesAt x.loc 8) 8 = (p.2.2 == 8) ∧
                decodesTo (u1.bytesAt x.loc 8 ++ u2.bytesAt y.loc 8) p.2.2 = true)) = true := by
    simp only [List.mem_cons, List.not_mem_nil, or_false] at hp
    rcases hp with rfl | rfl <;> decide +kernel
  obtain ⟨⟨on, settled, turn, can⟩, h⟩ := dec_and h
  have ⟨l, hl, h⟩ := some_of h
  have ⟨g, hg, h⟩ := some_of h
  have ⟨w, hw, h⟩ := some_of h
  have ⟨⟨pc, lanes⟩, hq, h⟩ := some_of h
  have place := dec_and h
  have ⟨x, hx, h⟩ := ok_of place.2
  have first := dec_and h
  have ⟨y, hy, h⟩ := ok_of first.2
  exact ⟨on, settled, turn, can, l, g, w, pc, lanes, x, y, ⟨hl, hg, hw⟩, hq, place.1.1, place.1.2, hx, first.1, hy, of_decide_eq_true h⟩

/-- A warp's turn, while the host holds the half that its word lies in. -/
theorem witness_StepRunsDecoded_held : let s := State.reset.withFetchWord 64 0x0010_1020_3007_0000
    let t : State := { s with halves := [({ space := .dev, addr := 65536 }, .owned)] }
    ((t.launch? 0).any fun l => (t.group? 0 0).any fun g => (t.warp? W0).any fun w => w.arch.pick.any fun q =>
      q.1 % 8 == 0 && State.wordHeld { t with agenda := [] } l.ctx g.core q.1 && State.canIssue { t with agenda := [] } W0) = true := by decide +kernel

/-- A stall's turn, at a microinstruction; and another agent's event. -/
theorem witness_StepRunsDecoded_others :
    (let s := State.reset.withFetchWord 32 0x14A6_0000
     let u : State := { s with agenda := [], focus := some (0, 0) }
     s.powered = true ∧ s.bringing = none ∧ s.agenda = .stall 0 0 :: [] ∧ (u.focused.any fun p => u.runLive p.1 && p.2.upc == 0) = true ∧ AgentId.stall 0 ∉ s.lost ∧
     ((((s.nbStore.getD 0 []).getD 0 (0, false)).1.toNat == 0x14A6_0000)) = true ∧ okAnd (decodeNb 0x14A6_0000) (fun i => i == .nadd 1 2 3) = true) ∧
    (let s : State := { dev with agenda := [.event .heartbeatTick] }
     s.powered = true ∧ s.agenda = .event .heartbeatTick :: []) ∧
    (dev.agenda = [] ∧ dev.actions.isEmpty = false) := by
  decide +kernel

theorem next_of {o : Host.Outcome State Fault Refusal} (h : (match o with | .next _ => true | _ => false) = true) : ∃ t, o = .next t := by
  split at h
  · exact ⟨_, rfl⟩
  · exact absurd h Bool.false_ne_true

/-- The hypotheses of the whole-machine statements, and a step from a state that meets them. -/
theorem witness_StepKeepsMemory : ∃ s t : State, s.memOk = true ∧ RolesLegal s.roles ∧ (∀ r, s.roleChange = some r → RolesLegal r) ∧ step s = .next t := by
  obtain ⟨t, ht⟩ := next_of (o := step (State.reset.withFetchWord 64 0x0010_1020_3007_0000)) (by decide +kernel)
  have h : (State.reset.withFetchWord 64 0x0010_1020_3007_0000).roleChange = none := by decide +kernel
  exact ⟨_, t, by decide +kernel, by unfold RolesLegal; decide +kernel, (by rw [h]; intro r hr; cases hr), ht⟩

/-- A well-formed instruction of each shape. -/
theorem witness_EncodingsRoundTrip :
    (Instr.iadd (lane 4 8 12 0 .u32 0)).wellFormed = true ∧ (encode (.iadd (lane 4 8 12 0 .u32 0)) matches .one _) = true ∧
    (Instr.movw { g := gN, d := .s 4, imm := 5 }).wellFormed = true ∧ (encode (.movw { g := gN, d := .s 4, imm := 5 }) matches .two _ _) = true ∧
    (Instr.nadd 1 2 3).wellFormed = true ∧ (encode (.nadd 1 2 3) matches .nb _) = true := by decide +kernel

end Sys2Proof.Tests
end

section
/-! What a fault of an issue does (R77, R80, R342, R344), and the obligations O28 and O54, which both fail in their clauses on an
illegal encoding: these do not ask that the warp is outside a transaction, and inside one a fault is taken in its place of the
issue sequence (R232; log 16), which the other lanes' issues still decide. Their other clauses, and these outside a transaction,
stand as theorems of their own: `decodeCore_pair_refused`, `illegalEncodingIssue_takesFault`, `trap_takesFault`, `brk_takesFault`,
`ctlrd_scrub_protection`, `brk_halts`. -/

namespace Sys2Proof.Machine

/-! ### Launches and committed bytes -/

theorem State.launch?_mapLaunch_any (s : State) (n m : Nat) (f : Launch → Launch) (hf : ∀ l, (f l).num = l.num) :
    (s.mapLaunch n f).launch? m = (s.launch? m).map fun l => if l.num = n then f l else l := by
  have hp : ((fun l : Launch => l.num == m) ∘ fun l => if l.num = n then f l else l) = fun l => l.num == m := by
    funext l
    by_cases h : l.num = n <;> simp [h, hf]
  simp only [State.launch?, State.mapLaunch, List.find?_map, hp]

theorem Launch.group?_mapGroup_any (l : Launch) (n m : Nat) (f : Group → Group) (hf : ∀ g, (f g).index = g.index) :
    (l.mapGroup n f).group? m = (l.group? m).map fun g => if g.index = n then f g else g := by
  have hp : ((fun g : Group => g.index == m) ∘ fun g => if g.index = n then f g else g) = fun g => g.index == m := by
    funext g
    by_cases h : g.index = n <;> simp [h, hf]
  simp only [Launch.group?, Launch.mapGroup, List.find?_map, hp]

/-- A change of a launch that keeps its number and every group's scratchpad keeps every committed byte. -/
theorem State.sameBytes_mapLaunch (s : State) (n : Nat) (f : Launch → Launch) (hf : ∀ l, (f l).num = l.num)
    (hg : ∀ l g, ((f l).group? g).map Group.spad = (l.group? g).map Group.spad) : SameBytes s (s.mapLaunch n f) := by
  have hspad (m g : Nat) : ((s.mapLaunch n f).group? m g).map Group.spad = (s.group? m g).map Group.spad := by
    simp only [State.group?, State.launch?_mapLaunch_any s n m f hf]
    cases s.launch? m with
    | none => rfl
    | some l =>
      simp only [Option.map_some, Option.bind_some]
      split
      · exact hg l g
      · rfl
  intro x
  obtain ⟨space, addr⟩ := x
  cases space with
  | spad m g =>
    have h := hspad m g
    simp only [State.byteAt]
    cases h1 : (s.mapLaunch n f).group? m g <;> cases h2 : s.group? m g <;> simp_all
  | _ => rfl

/-- A change of a warp keeps every committed byte. -/
theorem State.sameBytes_mapWarp (s : State) (w : WarpId) (f : Warp → Warp) : SameBytes s (s.mapWarp w f) := by
  refine s.sameBytes_mapLaunch _ _ (fun _ => rfl) fun l g => ?_
  rw [Launch.group?_mapGroup_any _ _ _ _ (by intro x; rfl)]
  cases l.group? g with
  | none => rfl
  | some x => simp only [Option.map_some]; split <;> rfl

/-- A change of a warp keeps the fault of its launch. -/
theorem State.mapWarp_launch? {s : State} {w : WarpId} {l : Launch} (f : Warp → Warp) (h : s.launch? w.launch = some l) :
    ∃ l', (s.mapWarp w f).launch? w.launch = some l' ∧ l'.fault = l.fault := by
  unfold State.mapWarp State.mapGroup
  rw [State.launch?_mapLaunch _ _ _ (by intro x; rfl), h]
  exact ⟨_, rfl, rfl⟩

/-- A latched fault leaves every warp as it was. -/
theorem State.warp?_latchFault (s : State) (n : Nat) (f : FaultInfo) (w : WarpId) : (s.latchFault n f).warp? w = s.warp? w := by
  have hg (l : Launch) : (if l.fault.isNone && !l.saveInvalid then { l with fault := some f } else l).num = l.num := by
    split <;> rfl
  simp only [State.warp?, State.group?, State.latchFault, State.launch?_mapLaunch_any _ _ _ _ hg]
  cases s.launch? w.launch with
  | none => rfl
  | some l =>
    simp only [Option.map_some, Option.bind_some]
    congr 1
    repeat' split
    all_goals rfl

theorem State.sameBytes_latchFault (s : State) (n : Nat) (f : FaultInfo) : SameBytes s (s.latchFault n f) := by
  refine s.sameBytes_mapLaunch _ _ (fun l => ?_) fun l g => ?_ <;> split <;> rfl

/-! ### Faults of an issue -/

/-- An issue's launch and warp, in the machine that it starts from. -/
theorem State.issueOf_finds {s : State} {k : Kind} {b : Iss} (h : s.issueOf k = some b) :
    b.s = s.unissued ∧ b.irrev = false ∧ s.unissued.launch? b.wid.launch = some b.l ∧ s.unissued.warp? b.wid = some b.w := by
  obtain ⟨hs, hi, hw⟩ := State.issueOf_eq h
  refine ⟨hs, hi, ?_, hw⟩
  simp only [State.issueOf, Option.bind_eq_some_iff, Option.map_eq_some_iff] at h
  obtain ⟨x, -, l, hl, g, -, w, -, rfl⟩ := h
  exact hl

/-- The machine `t` has taken the fault `f` of the issue `b` (R342, R344): its launch has latched it, or in reproducible mode its
warp keeps it for its turn; no register and no committed byte has changed. -/
def FaultTaken (s : State) (b : Iss) (f : FaultInfo) (t : State) : Prop :=
  ∃ x l, t.warp? b.wid = some x ∧ t.launch? b.wid.launch = some l ∧ SameBytes s t ∧ x.arch = b.w.arch ∧
    (if b.repro then x.fault = some f ∧ x.chunk.ended = true else l.fault = some f)

/-- A warp that keeps a fault for its turn (R344). -/
def Warp.keepFault (f : FaultInfo) (x : Warp) : Warp :=
  { x with fault := some (x.fault.getD f), chunk := { x.chunk with ended := true } }

/-- Taking a fault, by the mode of the launch's context (R342, R344). -/
theorem State.takeFault_eq {s : State} {w : WarpId} {l : Launch} (f : FaultInfo) (h : s.launch? w.launch = some l) :
    s.takeFault w f = if s.reproOf l.ctx then s.mapWarp w (Warp.keepFault f) else s.latchFault w.launch f := by
  unfold State.takeFault
  rw [h]
  rfl

/-- R344: in reproducible mode the warp keeps the fault, and its chunk has ended. -/
theorem State.takeFault_repro {s : State} {k : Kind} {b : Iss} (f : FaultInfo) (hb : s.issueOf k = some b) (hr : b.repro = true)
    (hw : b.w.fault = none) : FaultTaken s b f (b.s.takeFault b.wid f) := by
  obtain ⟨hs, -, hlaunch, hwarp⟩ := State.issueOf_finds hb
  obtain ⟨l, hl, -⟩ := State.mapWarp_launch? (Warp.keepFault f) hlaunch
  have hmode : s.unissued.reproOf b.l.ctx = true := hs ▸ hr
  rw [hs, State.takeFault_eq f hlaunch, if_pos hmode]
  exact ⟨b.w.keepFault f, l, by rw [State.warp?_mapWarp, hwarp]; rfl, hl, s.unissued.sameBytes_mapWarp b.wid _, rfl,
    by simp [hr, hw, Warp.keepFault]⟩

/-- R342: in free mode the launch latches the fault. -/
theorem State.takeFault_free {s : State} {k : Kind} {b : Iss} (f : FaultInfo) (hb : s.issueOf k = some b) (hr : b.repro = false)
    (hl : b.l.fault = none) (hv : b.l.saveInvalid = false) : FaultTaken s b f (b.s.takeFault b.wid f) := by
  obtain ⟨hs, -, hlaunch, hwarp⟩ := State.issueOf_finds hb
  have hmode : s.unissued.reproOf b.l.ctx = false := hs ▸ hr
  rw [hs, State.takeFault_eq f hlaunch, hmode]
  refine ⟨b.w, { b.l with fault := some f }, by rw [← hwarp]; exact State.warp?_latchFault .., ?_,
    s.unissued.sameBytes_latchFault _ f, rfl, by simp [hr]⟩
  simp only [State.latchFault, Bool.false_eq_true, if_false]
  rw [State.launch?_mapLaunch _ _ _ (by intro l; split <;> rfl), hlaunch]
  simp [hl, hv]

theorem State.takeFault_taken {s : State} {k : Kind} {b : Iss} (f : FaultInfo) (hb : s.issueOf k = some b)
    (hl : b.l.fault = none) (hv : b.l.saveInvalid = false) (hw : b.repro = true → b.w.fault = none) :
    FaultTaken s b f (b.s.takeFault b.wid f) := by
  cases hr : b.repro with
  | true => exact State.takeFault_repro f hb hr (hw hr)
  | false => exact State.takeFault_free f hb hr hl hv

/-- Outside a transaction, a fault before any effect is taken at the issue. -/
theorem Iss.resolve_fault {b : Iss} {k : Kind} {own : Nat → Option TxStop} {f : FaultInfo} (h : b.w.arch.tx = none) :
    b.resolve k own (.error (.fault f b.s)) = b.s.takeFault b.wid f := by
  simp only [Iss.resolve, Iss.stopFault, h, Option.isSome_none, Bool.false_eq_true, if_false]
  rfl

/-- In a transaction that goes on, a fault stops the issue's lanes and nothing else: its place in the sequence is not known yet
(R232; log 16). -/
theorem Iss.resolve_fault_deferred {b : Iss} {k : Kind} {own : Nat → Option TxStop} {f : FaultInfo}
    (h : b.w.arch.tx.isSome = true) (hf : b.txFate (b.stopped (.fault f) own) = .going) :
    b.resolve k own (.error (.fault f b.s)) = b.s.mapWarp b.wid fun _ => b.stopped (.fault f) own := by
  simp only [Iss.resolve, Iss.stopFault]
  rw [if_pos h]
  show Iss.stopTx b _ own = _
  simp only [Iss.stopTx, hf]
  rfl

/-- An issue outside a transaction whose attempt stops at a fault takes it. -/
theorem issue_takesFault {s : State} {k : Kind} {eff : Iss → Eff Iss} {b : Iss} {f : FaultInfo} (hb : s.issueOf k = some b)
    (htx : b.w.arch.tx = none) (ha : b.attempt k eff = .error (.fault f b.s)) (hl : b.l.fault = none)
    (hv : b.l.saveInvalid = false) (hw : b.repro = true → b.w.fault = none) :
    ∃ t, issue k eff s = .next t ∧ FaultTaken s b f t := by
  refine ⟨b.s.takeFault b.wid f, ?_, State.takeFault_taken f hb hl hv hw⟩
  simp [issue, hb, ha, Iss.resolve_fault htx]

/-! ### Illegal encodings -/

/-- How a word that is no instruction issues: in every lane, whatever its guard (R77). -/
def illegalKind : Kind := { g := { p := 7, neg := false } }

theorem exec_illegalEncodingIssue {s : State} {b : Iss} (why : IllegalReason) (hb : s.issueOf illegalKind = some b) :
    exec (.illegalEncodingIssue why) s =
      .next (b.resolve illegalKind (fun _ => none) (.error (.fault (b.faultInfo .illegalInstr 0 0) b.s))) := by
  have hi : b.irrev = false := (State.issueOf_eq hb).2.1
  show execIllegalEncodingIssue why s = _
  unfold illegalKind at hb
  simp [execIllegalEncodingIssue, hb, Iss.fault, hi, illegalKind]

/-- Outside a transaction an illegal encoding raises ILLEGAL_INSTR with a zero lane. -/
theorem illegalEncodingIssue_takesFault {s : State} {b : Iss} (why : IllegalReason) (hb : s.issueOf illegalKind = some b)
    (htx : b.w.arch.tx = none) (hl : b.l.fault = none) (hv : b.l.saveInvalid = false)
    (hw : b.repro = true → b.w.fault = none) :
    ∃ t, exec (.illegalEncodingIssue why) s = .next t ∧ FaultTaken s b (b.faultInfo .illegalInstr 0 0) t := by
  rw [exec_illegalEncodingIssue why hb, Iss.resolve_fault htx]
  exact ⟨_, rfl, State.takeFault_taken _ hb hl hv hw⟩

/-- What stops the lanes of an illegal word in a transaction. -/
def Iss.illegalStop (b : Iss) : TxStop := .fault (b.faultInfo .illegalInstr 0 0)

/-- In a transaction that goes on, the launch of an illegal encoding has no fault that it had not before. -/
theorem illegalEncodingIssue_deferred {s t : State} {b : Iss} {l : Launch} {why : IllegalReason}
    (hb : s.issueOf illegalKind = some b) (htx : b.w.arch.tx.isSome = true)
    (hgo : b.txFate (b.stopped b.illegalStop fun _ => none) = .going) (ht : exec (.illegalEncodingIssue why) s = .next t)
    (hl : t.launch? b.wid.launch = some l) : l.fault = b.l.fault := by
  obtain ⟨hs, -, hlaunch, -⟩ := State.issueOf_finds hb
  rw [exec_illegalEncodingIssue why hb, Iss.resolve_fault_deferred htx hgo, hs] at ht
  obtain ⟨l', hl', hf⟩ := State.mapWarp_launch? (fun _ => b.stopped b.illegalStop fun _ => none) hlaunch
  cases ht
  rw [show l = l' from Option.some.inj (hl.symm.trans hl'), hf]

/-! ### Unassigned pair codes (R74) -/

/-- The pair codes that R74 leaves unassigned. -/
@[reducible] def pairCodeFree (c : Nat) : Prop :=
  (0x0E ≤ c ∧ c ≤ 0x1F) ∨ (0x28 ≤ c ∧ c ≤ 0x3F) ∨ (0x45 ≤ c ∧ c ≤ 0x47) ∨ (0x4C ≤ c ∧ c ≤ 0x5F) ∨ (0x65 ≤ c ∧ c ≤ 0x7F)

theorem pairOpOf_free {c : Nat} (h : pairCodeFree c) : pairOpOf c = none := by
  have small : ∀ c < 0x80, pairCodeFree c → pairOpOf c = none := by decide
  exact small c (by unfold pairCodeFree at h; omega) h

/-- A half that R74 refuses: a free code, or an empty opcode beside fields that are not all zero. -/
@[reducible] def pairHalfRefused (h : Nat) : Prop := pairCodeFree (bits h 24 7) ∨ (bits h 24 7 = 0 ∧ h % 2 ^ 24 ≠ 0)

theorem parseHalf_refused {h : Nat} (hr : pairHalfRefused h) : parseHalf h = none := by
  have nonzero : h ≠ 0 := by
    rintro rfl
    simp [pairHalfRefused, pairCodeFree, bits] at hr
  have noOp : pairOpOf (bits h 24 7) = none := by
    rcases hr with hfree | ⟨hzero, -⟩
    · exact pairOpOf_free hfree
    · rw [hzero]; rfl
  simp [parseHalf, nonzero, noOp]

theorem parsePair_refused {w : Nat} (h : pairHalfRefused (bits w 31 31) ∨ pairHalfRefused (bits w 0 31)) : parsePair w = none := by
  unfold parsePair
  rcases h with h | h <;> rw [parseHalf_refused h]
  cases parseHalf (bits w 31 31) with
  | none => rfl
  | some k => cases k <;> rfl

/-- R74: a pair word with a refused half decodes to no instruction. -/
theorem decodeCore_pair_refused {w : Nat} {w2 : Option Nat} (hf : bits w 62 2 = 1)
    (h : pairHalfRefused (bits w 31 31) ∨ pairHalfRefused (bits w 0 31)) :
    decoded (decodeCore w w2) = .illegalEncodingIssue .pairRule := by
  simp [decodeCore, hf, parsePair_refused h, accept, decoded]

/-! ### The firmware's instructions in another context -/

/-- R336: the check of the firmware's rights comes after the encoding and the operands, and before the guard. -/
theorem Iss.attempt_protection {b : Iss} {k : Kind} {eff : Iss → Eff Iss} (hregs : k.regsOk b.l = true)
    (hcheck : k.check b.l b.wid = true) (hk : k.firmware = true) (hfw : b.ctx.fw = false) (hi : b.irrev = false) :
    b.attempt k eff = .error (.fault (b.faultInfo .protection 0 0) b.s) := by
  simp [Iss.attempt, hregs, hcheck, hk, hfw, Iss.fault, hi]

/-- R336: an instruction of the firmware's raises PROTECTION in another context. -/
theorem issue_protection {s : State} {k : Kind} {eff : Iss → Eff Iss} {b : Iss} (hb : s.issueOf k = some b)
    (hregs : k.regsOk b.l = true) (hcheck : k.check b.l b.wid = true) (hk : k.firmware = true) (hfw : b.ctx.fw = false)
    (htx : b.w.arch.tx = none) (hl : b.l.fault = none) (hv : b.l.saveInvalid = false) (hw : b.repro = true → b.w.fault = none) :
    ∃ t, issue k eff s = .next t ∧ FaultTaken s b (b.faultInfo .protection 0 0) t :=
  issue_takesFault hb htx (Iss.attempt_protection hregs hcheck hk hfw (State.issueOf_eq hb).2.1) hl hv hw

/-- R70, R336: CTLRD and SCRUB outside the firmware context raise PROTECTION. -/
theorem ctlrd_scrub_protection {a : TwoRegArgs} {s : State} {b : Iss} {ctlrd : Bool}
    (hb : s.issueOf (sysKind a.g [(a.a, 1)] [(a.d, if ctlrd then 2 else 1)]) = some b)
    (hd : regWithin b.l.fields.regs a.d (if ctlrd then 2 else 1) = true) (ha : regWithin b.l.fields.regs a.a 1 = true)
    (hfw : b.ctx.fw = false) (htx : b.w.arch.tx = none) (hl : b.l.fault = none) (hv : b.l.saveInvalid = false)
    (hw : b.repro = true → b.w.fault = none) :
    ∃ t, exec (if ctlrd then .ctlrd a else .scrub a) s = .next t ∧ FaultTaken s b (b.faultInfo .protection 0 0) t := by
  have hregs : (sysKind a.g [(a.a, 1)] [(a.d, if ctlrd then 2 else 1)]).regsOk b.l = true := by
    simp [Kind.regsOk, sysKind, hd, ha]
  cases ctlrd <;> exact issue_protection hb hregs rfl rfl hfw htx hl hv hw

/-! ### TRAP, and BRK without debugging -/

/-- The fault of TRAP, and of BRK without debugging (R347, R348). -/
def Iss.trapFault (b : Iss) (code : Word) : FaultInfo :=
  { code := .userTrap, lane := b.lane, warp := b.wid.warp, group := b.wid.group, pc := b.pc, addr := 0, ucode := code }

/-- R347: TRAP raises USER_TRAP with its code. -/
theorem trap_takesFault (a : OffArgs) : TakesFault (.trap a) { g := a.g } (fun _ => True) fun b => b.trapFault a.imm := by
  intro s b hb hr _ hl hv hw
  have stops : b.attempt { g := a.g } (fun i => i.trap a.imm) = .error (.fault (b.trapFault a.imm) b.s) := Iss.attempt_runs hr
  obtain ⟨t, ht, x, l, taken⟩ := issue_takesFault hb (Iss.runs_tx hr) stops hl hv fun _ => hw
  exact ⟨t, x, l, ht, taken⟩

/-- The effect of BRK. -/
def brkEffect (a : OffArgs) (i : Iss) : Eff Iss :=
  if !i.l.debug then i.trap a.imm
  else if i.w.arch.tx.isSome then .error (.abort 5 0)
  else .ok ((i.wait i.lanes .brk).mapChunk fun c => { c with halt := some (i.pc, a.imm) })

theorem exec_brk (a : OffArgs) (s : State) : exec (.brk a) s = issue { g := a.g, endsAfter := true } (brkEffect a) s := rfl

/-- R348: without debugging BRK is a TRAP. -/
theorem brk_takesFault (a : OffArgs) :
    TakesFault (.brk a) { g := a.g, endsAfter := true } (fun b => b.l.debug = false) fun b => b.trapFault a.imm := by
  intro s b hb hr hd hl hv hw
  have stops : b.attempt { g := a.g, endsAfter := true } (brkEffect a) = .error (.fault (b.trapFault a.imm) b.s) := by
    have hd' : b.advance.l.debug = false := hd
    rw [Iss.attempt_runs hr, brkEffect, hd']
    rfl
  rw [exec_brk]
  obtain ⟨t, ht, x, l, taken⟩ := issue_takesFault hb (Iss.runs_tx hr) stops hl hv fun _ => hw
  exact ⟨t, x, l, ht, taken⟩

/-! ### BRK of a debugged launch -/

/-- The issue of a BRK that halts its context (R348). -/
def Iss.halted (b : Iss) (a : OffArgs) : Iss :=
  (b.advance.wait b.lanes .brk).mapChunk fun c => { c with halt := some (b.pc, a.imm) }

theorem brkEffect_debug {a : OffArgs} {b : Iss} (hd : b.l.debug = true) (htx : b.w.arch.tx = none) :
    brkEffect a b.advance = .ok (b.halted a) := by
  have hd' : b.advance.l.debug = true := hd
  have htx' : b.advance.w.arch.tx = none := htx
  rw [brkEffect, hd', htx']
  rfl

theorem Cost.undo_insertNew_lanes (xs : List Item) (rs ws rs' ws' : List Loc) :
    Cost.undo { items := insertNew .lanes xs, reads := rs, writes := ws } ≤
      Cost.undo { items := xs, reads := rs', writes := ws' } + 16 := by
  unfold Cost.undo insertNew
  dsimp only
  split
  · omega
  · simp [List.foldl_append, Item.cost]

/-- Counting an issue outside a transaction changes no more of its chunk than the log, the count and what the issue touched. -/
theorem Iss.retire_chunk {i b : Iss} {k : Kind} (h : b.w.arch.tx = none) :
    ∃ xs n, (i.retire b k).w.chunk = { i.w.chunk with logged := xs, count := n, touched := {} } ∧
      (xs = i.w.chunk.logged ∨ xs = insertNew .lanes i.w.chunk.logged) := by
  unfold Iss.retire
  simp only [h, Option.isNone_none, if_true]
  split
  · exact ⟨_, _, rfl, .inr rfl⟩
  · exact ⟨_, _, rfl, .inl rfl⟩

theorem Iss.retire_place {i b : Iss} {k : Kind} (h : b.w.arch.tx = none) :
    (i.retire b k).l = i.l ∧ (i.retire b k).g = i.g := by
  unfold Iss.retire
  simp only [h, Option.isNone_none, if_true]
  split <;> exact ⟨rfl, rfl⟩

/-- The warp of a counted issue, its chunk ended where R172 says so. -/
def Iss.closed (j b : Iss) (k : Kind) : Warp := { j.w with chunk := { j.w.chunk with ended := j.w.chunk.ended || j.ends b k } }

/-- An issue outside a transaction that is neither irrevocable nor waits between chunks is written back as it was counted. -/
theorem Iss.finish_plain {i b : Iss} {k : Kind} (h : b.w.arch.tx = none) (hi : i.w.arch.tx = none) (hirrev : i.irrev = false)
    (hk : k.endsBefore = false) (hf : i.fits b k = true) :
    i.finish b k = i.s.mapWarp i.wid fun _ => (i.retire b k).closed b k := by
  obtain ⟨ra, rs, rwid, -, -, -, rirrev⟩ := Iss.retire_spec (i := i) (k := k) h hi
  have rtx : (i.retire b k).w.arch.tx = none := by rw [ra]; exact hi
  have hrestart : (i.retire b k).restart b k = i.retire b k := by
    simp [Iss.restart, rirrev, hirrev, h, rtx, hk]
  have going (f : Chunk → Chunk) : ((i.retire b k).mapChunk f).txFate ((i.retire b k).mapChunk f).w = .going := by
    simp [Iss.txFate, Iss.mapChunk, rtx]
  simp only [Iss.finish, hf, hrestart, Bool.not_true, Bool.false_eq_true, if_false, going]
  simp only [State.meetFate, Iss.done, Iss.mapChunk, Iss.closed, rs, rwid]

/-- No budget cuts the first issue of BRK's kind. -/
theorem Iss.halted_fits {b : Iss} {a : OffArgs} {k : Kind} (h : b.w.arch.tx = none) (hfirst : b.first) :
    (b.halted a).fits b k = true := by
  have hi : (b.halted a).w.arch.tx = none := h
  obtain ⟨ra, rs, rwid, -, -, -, -⟩ := Iss.retire_spec (i := b.halted a) (k := k) h hi
  obtain ⟨rl, rg⟩ := Iss.retire_place (i := b.halted a) (k := k) h
  obtain ⟨xs, n, rc, hxs⟩ := Iss.retire_chunk (i := b.halted a) (k := k) h
  have hs : ((b.halted a).retire b k).s = b.s := rs
  have hrep : ((b.halted a).retire b k).repro = b.repro := by unfold Iss.repro; rw [hs, rl]; rfl
  have hcore : ((b.halted a).retire b k).core = b.core := by unfold Iss.core; rw [rg]; rfl
  have hwid : ((b.halted a).retire b k).wid = b.wid := rwid
  have hundo : ((b.halted a).retire b k).w.chunk.undo ≤ b.w.chunk.undo + 16 := by
    rw [rc]
    rcases hxs with rfl | rfl
    · exact Nat.le_add_right _ _
    · exact Cost.undo_insertNew_lanes ..
  refine Iss.fits_of_first hfirst (by rw [ra]; exact hi) hrep (by rw [hs, hrep, hcore, hwid]) (by omega) ?_ ?_ ?_ <;>
    rw [rc] <;> exact Nat.le_add_right _ _

/-- R348: BRK of a debugged launch puts its lanes into a wait, ends its chunk, and marks it to halt the context at its commit. -/
theorem brk_halts (a : OffArgs) : Does (.brk a) { g := a.g, endsAfter := true } (fun b => b.l.debug = true)
    fun b x => x.arch.follows (b.waits b.lanes .brk) ∧ x.chunk.ended = true ∧ x.chunk.halt = some (b.pc, a.imm) ∧ SameChunk b x := by
  intro s b hb hr hfirst hd
  have htx := Iss.runs_tx hr
  have hi : (b.halted a).w.arch.tx = none := htx
  obtain ⟨hs, hirrev, -, -⟩ := State.issueOf_finds hb
  obtain ⟨-, -, -, some_, -⟩ := Iss.runs_iff.mp hr
  generalize hk : ({ g := a.g, endsAfter := true } : Kind) = k at *
  have hafter : k.endsAfter = true := by rw [← hk]
  have hbefore : k.endsBefore = false := by rw [← hk]
  obtain ⟨ra, -, -, rws, rq, -, -⟩ := Iss.retire_spec (i := b.halted a) (k := k) htx hi
  obtain ⟨xs, n, rc, -⟩ := Iss.retire_chunk (i := b.halted a) (k := k) htx
  have rtx : ((b.halted a).retire b k).w.arch.tx = none := by rw [ra]; exact hi
  have completes : exec (.brk a) s = .next (s.unissued.mapWarp b.wid fun _ => ((b.halted a).retire b k).closed b k) := by
    have hplace : (b.halted a).s = s.unissued := hs
    have hwid : (b.halted a).wid = b.wid := rfl
    rw [exec_brk, hk, issue, hb]
    simp only [Iss.attempt_runs hr, brkEffect_debug hd htx, Iss.resolve]
    rw [Iss.finish_plain htx hi hirrev hbefore (Iss.halted_fits htx hfirst), hplace, hwid]
  have ends : ((b.halted a).retire b k).ends b k = true := by
    have active : (b.active != 0) = true := bne_iff_ne.mpr some_
    simp only [Iss.ends, rtx, hafter, active, Option.isSome_none, Bool.false_eq_true, if_false, Bool.and_self, Bool.true_or]
  refine ⟨((b.halted a).retire b k).closed b k, completes, s.unissued.sameBytes_mapWarp b.wid _, ra, ?_, ?_, rws, rq⟩
  · simp [Iss.closed, ends]
  · show ((b.halted a).retire b k).w.chunk.halt = _
    rw [rc]
    rfl

/-! ### A program that enters a transaction and comes to an illegal word -/

/-- TXBEGIN in every lane, and after it a pair word whose half H1 has the unassigned code 0x0E. -/
def txThenIllegalWords : Nat := 0x4000_0000_0E00_0000 * 2 ^ 64 + 0x2010_0007_0000_0000

/-- The machine after the step that runs the TXBEGIN. -/
def afterTxbegin : State :=
  match step (State.reset.withFetchWord 128 txThenIllegalWords) with
  | .next t => t
  | _ => State.reset

/-- The machine as its next step is about to run the pair word, in lane 0: lanes run a transaction one after another (R232). -/
def illegalInTx : State := afterTxbegin.ready.1

/-- The program reaches it: what the next step runs is the pair word, as no instruction. -/
theorem illegalInTx_next : afterTxbegin.ready.2 = some (.illegalEncodingIssue .pairRule) := by decide +kernel

/-- The other lanes have their issues still to make, so the fault of lane 0 waits. -/
theorem illegalInTx_issue : ∃ b, illegalInTx.issueOf illegalKind = some b ∧ b.l.fault = none ∧ b.l.saveInvalid = false ∧
    b.w.fault = none ∧ b.repro = false ∧ b.w.arch.tx.isSome = true ∧
    b.txFate (b.stopped b.illegalStop fun _ => none) = .going := by
  have key : ((illegalInTx.issueOf illegalKind).any fun b => decide (b.l.fault = none ∧ b.l.saveInvalid = false ∧
      b.w.fault = none ∧ b.repro = false ∧ b.w.arch.tx.isSome = true ∧
      b.txFate (b.stopped b.illegalStop fun _ => none) = .going)) = true := by decide +kernel
  obtain ⟨b, hb, h⟩ := (Option.any_eq_true ..).mp key
  exact ⟨b, hb, of_decide_eq_true h⟩

/-- Refutes O54: lane 0 of a transaction that 32 lanes have entered issues the pair word, and the launch has no fault after it,
since the issues of the other lanes decide the fault's place (R232; log 16). -/
theorem not_unassignedPairCodes : ¬ Obligations.UnassignedPairCodes := by
  rintro ⟨-, raises⟩
  obtain ⟨b, hb, hl, hv, hw, hr, htx, hgo⟩ := illegalInTx_issue
  obtain ⟨t, x, l, ht, -, ht', hf⟩ := raises illegalInTx b hb hl hv hw
  have none_yet : l.fault = b.l.fault := illegalEncodingIssue_deferred hb htx hgo ht ht'
  simp [hr, none_yet, hl] at hf

/-- Refutes O28, in its clause on illegal encodings, by the same issue. -/
theorem not_trapsAndIllegals : ¬ Obligations.TrapsAndIllegals := by
  rintro ⟨-, -, raises, -⟩
  obtain ⟨b, hb, hl, hv, -, hr, htx, hgo⟩ := illegalInTx_issue
  obtain ⟨t, l, ht, ht', -, hf⟩ := raises .pairRule illegalInTx b hb hl hv hr
  have none_yet : l.fault = b.l.fault := illegalEncodingIssue_deferred hb htx hgo ht ht'
  simp [none_yet, hl] at hf

end Sys2Proof.Machine
end

section
/-! The machine at power-on (O57): State.reset in the values that the manual gives. -/

namespace Sys2Proof.Machine

/-- R311: at power-on each of the sixteen partitions stands at its reset values. -/
theorem State.part_reset (p : Nat) : State.reset.part p = Partition.reset := by
  show (List.replicate 16 Partition.reset).getD p Partition.reset = Partition.reset
  rw [List.getD_eq_getElem?_getD, List.getElem?_replicate]
  split <;> rfl

/-- R110: so does each of the sixteen format windows. -/
theorem State.fwins_reset {w : FWin} (h : w ∈ State.reset.fwins) : w = FWin.reset := List.eq_of_mem_replicate h

/-- R324: before bring-up has placed the ownership table, every page has the reset value of its entry. -/
theorem State.rotOf_unplaced {s : State} (h : s.rotAt = none) (pg : Nat) : s.rotOf pg = RotEntry.reset := by
  simp [State.rotOf, h]

/-- R15: no compute tier is a legal assignment. -/
theorem rolesLegal_none : RolesLegal 0 := by
  refine ⟨by decide, fun t _ => ?_, by decide⟩
  simp

/-- Settles O57, value by value from the definition of `State.reset`. -/
theorem resetState : Obligations.ResetState := by
  unfold Obligations.ResetState
  have status : State.reset.status = 0 := by decide
  have roles : State.reset.control 0x20000 = 0 := by decide
  have parts (p : Nat) : (State.reset.part p).exists_ = false ∧ (State.reset.part p).quads = 0 := by
    rw [State.part_reset]
    exact ⟨rfl, rfl⟩
  exact ⟨status, rfl, rfl, roles, State.rotOf_unplaced rfl, rfl, fun p _ => parts p,
    fun w h => by rw [State.fwins_reset h]; rfl, fun _ => rfl, rfl, rfl, rfl, rfl, State.memOk_reset, rolesLegal_none⟩

end Sys2Proof.Machine
end

section
/-! Issues that change the issuing warp alone, and of its chunk the log alone: no budget cuts one, and it completes. HWAIT and HTEST
(O31) are such issues. -/

namespace Sys2Proof.Machine

/-! ### What a log costs (R193) -/

theorem Item.cost_insertNew (x : Item) (xs : List Item) :
    (insertNew x xs).foldl (fun n y => n + y.cost) 0 ≤ xs.foldl (fun n y => n + y.cost) 0 + x.cost := by
  unfold insertNew
  split
  · omega
  · simp [List.foldl_append]

theorem Item.cost_insertAll (ys xs : List Item) :
    (ys.foldl (fun l x => insertNew x l) xs).foldl (fun n y => n + y.cost) 0 ≤
      xs.foldl (fun n y => n + y.cost) 0 + (ys.map Item.cost).sum := by
  induction ys generalizing xs with
  | nil => exact Nat.le_refl _
  | cons y ys ih =>
    have first := Item.cost_insertNew y xs
    have rest := ih (insertNew y xs)
    simp only [List.foldl_cons, List.map_cons, List.sum_cons]
    omega

theorem Iss.undo_log (i : Iss) (xs : List Item) :
    (i.log xs).w.chunk.undo ≤ i.w.chunk.undo + (xs.map Item.cost).sum := Item.cost_insertAll xs i.w.chunk.logged

/-! ### Effects that log -/

/-- The issue `i` is `b` with other registers and at most `n` bytes more in its chunk's log; the rest of the chunk and the machine are
as before. -/
structure Iss.LogsWithin (b i : Iss) (n : Nat) : Prop where
  state : i.s = b.s
  launch : i.l = b.l
  group : i.g = b.g
  wid : i.wid = b.wid
  irrev : i.irrev = b.irrev
  tx : i.w.arch.tx = b.w.arch.tx
  chunk : ∃ xs c, i.w.chunk = { b.w.chunk with logged := xs, touched := c }
  undo : i.w.chunk.undo ≤ b.w.chunk.undo + n

theorem Iss.LogsWithin.advance (b : Iss) : b.LogsWithin b.advance 0 :=
  ⟨rfl, rfl, rfl, rfl, rfl, rfl, ⟨_, _, rfl⟩, Nat.le_refl _⟩

theorem Iss.LogsWithin.mapArch {b i : Iss} {n : Nat} (h : b.LogsWithin i n) {f : Arch → Arch}
    (hf : (f i.w.arch).tx = i.w.arch.tx) : b.LogsWithin (i.mapArch f) n :=
  ⟨h.state, h.launch, h.group, h.wid, h.irrev, hf.trans h.tx, h.chunk, h.undo⟩

theorem Iss.LogsWithin.log {b i : Iss} {n : Nat} (h : b.LogsWithin i n) (xs : List Item) :
    b.LogsWithin (i.log xs) (n + (xs.map Item.cost).sum) := by
  have grown := i.undo_log xs
  have before := h.undo
  obtain ⟨ys, c, hc⟩ := h.chunk
  exact ⟨h.state, h.launch, h.group, h.wid, h.irrev, h.tx, ⟨_, _, by simp only [Iss.log, Iss.mapChunk, hc]; rfl⟩, by omega⟩

theorem Iss.LogsWithin.wait {b i : Iss} {n : Nat} (h : b.LogsWithin i n) (m : LaneMask) (k : WaitKind) :
    b.LogsWithin (i.wait m k) n := h.mapArch rfl

theorem Iss.LogsWithin.writePred {b i : Iss} {n : Nat} (h : b.LogsWithin i n) (p : Nat) (f : Nat → Bool) :
    b.LogsWithin (i.writePred p f) (n + 8) := (h.log [.p p]).mapArch rfl

/-- The first issue of its chunk, or one with room left, has room for what such an effect logs (R193, R194, R414). -/
theorem Iss.LogsWithin.fits {b i : Iss} {n : Nat} {k : Kind} (h : b.LogsWithin i n) (hn : n ≤ 4080) (htx : b.w.arch.tx = none)
    (hfirst : b.first) : i.fits b k = true := by
  have hi : i.w.arch.tx = none := h.tx.trans htx
  obtain ⟨ra, rs, rwid, -, -, -, -⟩ := Iss.retire_spec (i := i) (k := k) htx hi
  obtain ⟨rl, rg⟩ := Iss.retire_place (i := i) (k := k) htx
  obtain ⟨xs, count, rc, hxs⟩ := Iss.retire_chunk (i := i) (k := k) htx
  obtain ⟨ys, c, hc⟩ := h.chunk
  have hs : (i.retire b k).s = b.s := rs.trans h.state
  have hrep : (i.retire b k).repro = b.repro := by unfold Iss.repro; rw [hs, rl, h.launch]
  have hcore : (i.retire b k).core = b.core := by unfold Iss.core; rw [rg, h.group]
  have hwid : (i.retire b k).wid = b.wid := rwid.trans h.wid
  have hundo : (i.retire b k).w.chunk.undo ≤ i.w.chunk.undo + 16 := by
    rw [rc]
    rcases hxs with rfl | rfl
    · exact Nat.le_add_right _ _
    · exact Item.cost_insertNew .lanes _
  have before := h.undo
  refine Iss.fits_of_first hfirst (by rw [ra]; exact hi) hrep (by rw [hs, hrep, hcore, hwid]) (by omega) ?_ ?_ ?_ <;>
    rw [rc, hc] <;> exact Nat.le_add_right _ _

/-- An issue with such an effect completes: nothing but its warp changes, whose registers follow the effect's, and whose chunk holds
the writes and releases that it held. -/
theorem issue_logs {s : State} {k : Kind} {eff : Iss → Eff Iss} {b i : Iss} {n : Nat} (hb : s.issueOf k = some b)
    (hr : b.runs k = true) (hfirst : b.first) (he : eff b.advance = .ok i) (h : b.LogsWithin i n) (hn : n ≤ 4080) :
    ∃ x, issue k eff s = .next (s.unissued.mapWarp b.wid fun _ => x) ∧ SameBytes s (s.unissued.mapWarp b.wid fun _ => x) ∧
      SameChunk b x ∧ x.arch.follows i.w.arch := by
  have htx := Iss.runs_tx hr
  obtain ⟨hs, -, -, hwarp⟩ := State.issueOf_finds hb
  have there : (i.s.warp? i.wid).isSome := by rw [h.state, h.wid, hs, hwarp]; rfl
  obtain ⟨t, ht, x, rfl, -, ra, rw', rq, -⟩ :=
    issue_completes hb hr he (h.tx.trans htx) there (h.fits hn htx hfirst)
  obtain ⟨ys, c, hc⟩ := h.chunk
  rw [h.state, h.wid, hs] at ht
  exact ⟨x, ht, s.unissued.sameBytes_mapWarp b.wid _, ⟨by rw [rw', hc], by rw [rq, hc]⟩, ra⟩

/-! ### HWAIT and HTEST (R101, R242) -/

/-- How HWAIT and HTEST issue. -/
def handleKind (g : Guard) (h : Nat) : Kind := { g := g, reads := [.h h], forbidden := true }

theorem exec_hwait (a : HwaitArgs) (s : State) : exec (.hwait a) s =
    issue (handleKind a.g a.h.val) (fun i => i.handleWait a.h.val (if a.pw then some a.pd.p.val else none) false) s := rfl

theorem exec_htest (a : HtestArgs) (s : State) : exec (.htest a) s =
    issue (handleKind a.g a.h.val) (fun i => i.handleWait a.h.val (some a.pd.val) true) s := rfl

theorem handleFails_iff (st : HState) (pd : Option Nat) (test : Bool) :
    handleFails st pd test = true ↔ st = .failed ∧ pd = none ∧ test = false := by
  simp [handleFails, and_assoc]

section
variable {i : Iss} {h : Nat} {r : HReg} {pd : Option Nat} {test : Bool}
variable (hr : i.w.arch.h.getD h none = some r) (hl : Item.h h ∉ i.w.chunk.logged)
include hr hl

/-- On an ended operation the instruction merges its flags and writes its predicate. -/
theorem Iss.handleWait_ended (hp : i.l.handleState r ≠ .pending)
    (hf : ¬(i.l.handleState r = .failed ∧ pd = none ∧ test = false)) :
    i.handleWait h pd test = .ok ((i.log (i.w.arch.handleItems r (i.l.handleState r) (i.l.recFlags i.wid r.num) pd)).mapArch fun a =>
      a.handleEnd r (i.l.handleState r) (i.l.recFlags i.wid r.num) i.active pd test) := by
  have passes : handleFails (i.l.handleState r) pd test = false := by
    rw [← Bool.not_eq_true, handleFails_iff]
    exact hf
  unfold Iss.handleWait
  rw [hr]
  simp [hl, hp, passes]

/-- On a pending one HWAIT waits, and so does HTEST in reproducible mode. -/
theorem Iss.handleWait_waits (hp : i.l.handleState r = .pending) (ht : test = false ∨ i.repro = true) :
    i.handleWait h pd test = .ok (i.wait i.lanes (.handle r h pd test)) := by
  unfold Iss.handleWait
  rw [hr]
  rcases ht with ht | ht <;> simp [hl, hp, ht]

/-- In free mode HTEST goes on with its predicate clear. -/
theorem Iss.handleWait_passes {p : Nat} (hp : i.l.handleState r = .pending) (ht : i.repro = false) :
    i.handleWait h (some p) true = .ok (i.writePred p fun _ => false) := by
  unfold Iss.handleWait
  rw [hr]
  simp [hl, hp, ht]

end

/-- What the end of a handle wait writes costs at most a flags register and a predicate. -/
theorem Arch.handleItems_cost (a : Arch) (r : HReg) (st : HState) (fl : Fl) (pd : Option Nat) :
    ((a.handleItems r st fl pd).map Item.cost).sum ≤ 16 := by
  unfold Arch.handleItems
  split <;> cases pd <;> simp [Item.cost]

/-- The registers after the end of a handle wait, written out: the flags merge at the first such instruction (R101). -/
theorem Arch.handleEnd_eq (a : Arch) (r : HReg) (st : HState) (fl : Fl) (m : LaneMask) (pd : Option Nat) (test : Bool) :
    a.handleEnd r st fl m pd test =
      let z : Arch := if (st = .done ∨ st = .failed) ∧ r.num ∉ a.merged then
        { a with flags := a.flags ||| fl.setWidth 32, merged := r.num :: a.merged } else a
      match pd with
      | some p => { z.setPred p m (fun _ => test || st == .done) with poison := clearPoison [.p p] m z.poison }
      | none => z := by
  have merges : ((st == .done || st == .failed) && !a.merged.contains r.num) = true ↔
      (st = .done ∨ st = .failed) ∧ r.num ∉ a.merged := by simp
  simp only [Arch.handleEnd, merges]
  rfl

@[simp] theorem Arch.handleEnd_tx (a : Arch) (r : HReg) (st : HState) (fl : Fl) (m : LaneMask) (pd : Option Nat) (test : Bool) :
    (a.handleEnd r st fl m pd test).tx = a.tx := by
  rw [Arch.handleEnd_eq]
  cases pd <;> dsimp only <;> split <;> rfl

theorem Iss.LogsWithin.handleEnd {b i : Iss} {n : Nat} (h : b.LogsWithin i n) (r : HReg) (st : HState) (fl : Fl) (pd : Option Nat)
    (test : Bool) :
    b.LogsWithin ((i.log (i.w.arch.handleItems r st fl pd)).mapArch fun a => a.handleEnd r st fl i.active pd test)
      (n + ((i.w.arch.handleItems r st fl pd).map Item.cost).sum) :=
  (h.log _).mapArch (Arch.handleEnd_tx ..)

/-- Settles O31: HWAIT and HTEST are one effect, and what it answers by the operation's state is written to the warp alone. -/
theorem handleWaits : Obligations.HandleWaits := by
  unfold Obligations.HandleWaits
  intro h g pd test ins r hins k held
  have effect (s : State) : exec ins s = issue k (fun i => i.handleWait h.val pd test) s := by
    rcases hins with ⟨a, rfl, rfl, rfl, rfl, rfl⟩ | ⟨a, rfl, rfl, rfl, rfl, rfl⟩
    · exact exec_hwait a s
    · exact exec_htest a s
  refine ⟨?ended, ?waits, ?passes⟩
  case ended =>
    rintro s b hb hr hfirst ⟨⟨hh, hl⟩, hp, hf⟩
    have logs := (Iss.LogsWithin.advance b).handleEnd r (b.l.handleState r) (b.l.recFlags b.wid r.num) pd test
    have cost := b.advance.w.arch.handleItems_cost r (b.l.handleState r) (b.l.recFlags b.wid r.num) pd
    have does := Iss.handleWait_ended (i := b.advance) (test := test) hh hl hp hf
    obtain ⟨x, hx, bytes, chunk, arch⟩ :=
      issue_logs (eff := fun i => i.handleWait h.val pd test) hb hr hfirst does logs (by omega)
    refine ⟨x, by rw [effect, hx], bytes, chunk, ?_⟩
    have ends : x.arch.follows (b.moved.handleEnd r (b.l.handleState r) (b.l.recFlags b.wid r.num) b.active pd test) := arch
    rw [Arch.handleEnd_eq] at ends
    exact ends
  case waits =>
    rintro s b hb hr hfirst ⟨⟨hh, hl⟩, hp, ht⟩
    have logs := (Iss.LogsWithin.advance b).wait b.lanes (.handle r h.val pd test)
    have does := Iss.handleWait_waits (i := b.advance) (pd := pd) hh hl hp ht
    obtain ⟨x, hx, bytes, post⟩ := issue_logs (eff := fun i => i.handleWait h.val pd test) hb hr hfirst does logs (by omega)
    exact ⟨x, by rw [effect, hx], bytes, post⟩
  case passes =>
    rintro s b hb hr hfirst ⟨⟨hh, hl⟩, hp, rfl, hm⟩
    obtain ⟨p, rfl⟩ : ∃ p, pd = some p := by
      rcases hins with ⟨a, h, -⟩ | ⟨a, -, -, -, -, rfl⟩
      · cases h
      · exact ⟨_, rfl⟩
    have logs := (Iss.LogsWithin.advance b).writePred p fun _ => false
    have does := Iss.handleWait_passes (i := b.advance) (p := p) hh hl hp hm
    obtain ⟨x, hx, bytes, chunk, arch⟩ :=
      issue_logs (eff := fun i => i.handleWait h.val (some p) true) hb hr hfirst does logs (by omega)
    refine ⟨x, by rw [effect, hx], bytes, chunk, fun q hq => ?_⟩
    cases hq
    exact arch

end Sys2Proof.Machine
end

section
/-! The end of waits (R254), and O25. Every clause of O25 holds of a warp that is there, and stands here as a theorem of its own: the
`waitEnds_` and `wakeWait_` theorems by kind of wait, `resumeBrk_lanesGo`, `wsyncRelease_lanesGo`, `txMerge_lanesGo`. But two
conclusions, on the barrier after an arrival and on the region after a STEPEND, do not ask that the warp is there: for a place of a
group that holds none, nothing wakes, and they fail. -/

namespace Sys2Proof.Machine

/-! ### Lane masks -/

theorem laneOn_lt {m : LaneMask} {l : Nat} (h : laneOn m l = true) : l < 32 :=
  Nat.lt_of_not_le fun hl => by simp [laneOn, BitVec.getLsbD_of_ge m l hl] at h

/-- A sum of the powers of some numbers below `n` has just their bits set. -/
theorem testBit_sum_pow (f : Nat → Bool) (n : Nat) :
    (upTo n).foldl (fun acc l => if f l then acc + 2 ^ l else acc) 0 < 2 ^ n ∧
      ∀ l, ((upTo n).foldl (fun acc l => if f l then acc + 2 ^ l else acc) 0).testBit l = (decide (l < n) && f l) := by
  induction n with
  | zero => simp [upTo]
  | succ n ih =>
    obtain ⟨small, bit⟩ := ih
    simp only [upTo, List.range_succ, List.foldl_append, List.foldl_cons, List.foldl_nil] at small bit ⊢
    generalize (List.range n).foldl (fun acc l => if f l then acc + 2 ^ l else acc) 0 = acc at small bit ⊢
    have double : 2 ^ (n + 1) = 2 * 2 ^ n := Nat.pow_succ'
    split
    case isTrue hf =>
      refine ⟨by omega, fun l => ?_⟩
      rw [Nat.add_comm]
      rcases Nat.lt_trichotomy l n with hl | rfl | hl
      · rw [Nat.testBit_two_pow_add_gt hl, bit]
        simp [hl, Nat.lt_succ_of_lt hl]
      · rw [Nat.testBit_two_pow_add_eq, bit]
        simp [hf]
      · rw [Nat.testBit_lt_two_pow (Nat.lt_of_lt_of_le (by omega) (Nat.pow_le_pow_right (by decide) hl))]
        simp [Nat.not_lt.mpr hl]
    case isFalse hf =>
      refine ⟨by omega, fun l => ?_⟩
      rw [bit]
      by_cases hl : l = n
      · simp [hl, hf]
      · have same : l < n + 1 ↔ l < n := by omega
        simp [same]

/-- The lanes of the mask of a test. -/
theorem laneOn_maskOf (f : Nat → Bool) (l : Nat) : laneOn (maskOf f) l = (decide (l < 32) && f l) := by
  obtain ⟨small, bit⟩ := testBit_sum_pow f 32
  simp only [laneOn, maskOf, BitVec.getLsbD_ofNat, bit]
  by_cases h : l < 32 <;> simp [h]

/-! ### Releasing lanes (R254) -/

/-- A list changed at the lanes of a mask. -/
theorem getD_zipIdx_lanes {α : Type} (xs : List α) (m : LaneMask) (x d : α) (l : Nat) (h : xs.length = 32) :
    (xs.zipIdx.map fun p => if laneOn m p.2 then x else p.1).getD l d = if laneOn m l then x else xs.getD l d := by
  simp only [List.getD_eq_getElem?_getD, List.getElem?_map, List.getElem?_zipIdx]
  by_cases hl : l < 32
  · rw [List.getElem?_eq_getElem (by omega)]
    simp
  · have off : laneOn m l = false := Bool.eq_false_iff.mpr fun on => hl (laneOn_lt on)
    simp [off, List.getElem?_eq_none (Nat.le_of_not_lt (h ▸ hl))]

theorem dropWaiters_apart {m : LaneMask} {ws : List Wait} {z : Wait} (h : z ∈ dropWaiters m ws) : z.lanes &&& m = 0 := by
  simp only [dropWaiters, List.mem_filter, List.mem_map] at h
  obtain ⟨⟨y, -, rfl⟩, -⟩ := h
  show y.lanes &&& ~~~m &&& m = 0
  rw [BitVec.and_assoc, BitVec.and_comm (~~~m), BitVec.and_not_self]
  exact BitVec.and_zero

/-- The released lanes stand Ready at the next word, the others as before, and no wait holds a released lane. -/
theorem Arch.release_lanesGo {a b : Arch} (w : Wait) (hpc : a.pc.length = 32) (hst : a.st.length = 32) (hp : b.pc = a.pc)
    (hs : b.st = a.st) : LanesGo a (b.release w.lanes w.next) w := by
  have st (l : Nat) : (b.release w.lanes w.next).stOf l = if laneOn w.lanes l then .ready else a.stOf l := by
    rw [← hs] at hst
    unfold Arch.stOf
    rw [← hs]
    exact getD_zipIdx_lanes b.st w.lanes .ready .exited l hst
  have pc (l : Nat) : (b.release w.lanes w.next).pcOf l = if laneOn w.lanes l then w.next else a.pcOf l := by
    rw [← hp] at hpc
    unfold Arch.pcOf
    rw [← hp]
    exact getD_zipIdx_lanes b.pc w.lanes w.next 0 l hpc
  exact ⟨fun l hl => by simp [st, pc, hl], fun l hl => by simp [st, pc, hl], fun z hz => dropWaiters_apart hz⟩

/-- Releasing the same lanes again changes nothing. -/
theorem Arch.release_release (a : Arch) (m : LaneMask) (n : Nat) : (a.release m n).release m n = a.release m n := by
  have idem {α : Type} (xs : List α) (x : α) :
      ((xs.zipIdx.map fun p => if laneOn m p.2 then x else p.1).zipIdx.map fun p => if laneOn m p.2 then x else p.1) =
        xs.zipIdx.map fun p => if laneOn m p.2 then x else p.1 := by
    refine List.ext_getElem? fun k => ?_
    simp only [List.getElem?_map, List.getElem?_zipIdx]
    cases xs[k]? with
    | none => rfl
    | some y => cases h : laneOn m k <;> simp [h]
  have dropped : dropWaiters m (dropWaiters m a.waits) = dropWaiters m a.waits := by
    have mask (x : LaneMask) : x &&& ~~~m &&& ~~~m = x &&& ~~~m := by rw [BitVec.and_assoc, BitVec.and_self]
    have fixed : ∀ z ∈ dropWaiters m a.waits, { z with lanes := z.lanes &&& ~~~m, active := z.active &&& ~~~m } = z := by
      intro z hz
      simp only [dropWaiters, List.mem_filter, List.mem_map] at hz
      obtain ⟨⟨y, -, rfl⟩, -⟩ := hz
      simp only [mask]
    rw [dropWaiters, List.map_congr_left fixed, List.map_id']
    simp only [dropWaiters, List.filter_filter, Bool.and_self]
  simp only [Arch.release, Arch.setPc, Arch.setSt, idem, dropped]

/-- Waits taken in turn, of which `w` alone does something: it releases its lanes. -/
theorem foldl_release {step : Arch → Wait → Arch} {w : Wait} (ws : List Wait) (a : Arch)
    (hw : ∀ b, step b w = b.release w.lanes w.next) (other : ∀ z ∈ ws, z ≠ w → ∀ b, step b z = b) :
    ws.foldl step a = if w ∈ ws then a.release w.lanes w.next else a := by
  induction ws generalizing a with
  | nil => rfl
  | cons z zs ih =>
    have rest := fun b => ih b fun y hy => other y (List.mem_cons_of_mem z hy)
    rw [List.foldl_cons, rest]
    by_cases hz : z = w
    · subst hz
      simp [hw, Arch.release_release]
    · rw [other z List.mem_cons_self hz]
      simp [Ne.symm hz]

/-! ### BRK, WSYNC and TXEND (R229, R264, R348) -/

/-- The lanes that wait at the BRK that halted their context go on at its resume. -/
theorem Warp.resumeBrk_lanesGo {x : Warp} {w : Wait} (hw : w ∈ x.arch.waits) (hk : w.kind = .brk) (hpc : x.arch.pc.length = 32)
    (hst : x.arch.st.length = 32) (other : ∀ z ∈ x.arch.waits, z ≠ w → z.kind ≠ .brk) :
    LanesGo x.arch x.resumeBrk.arch w ∧ x.resumeBrk.arch.v = x.arch.v ∧ x.resumeBrk.arch.s = x.arch.s := by
  have resumed : x.resumeBrk.arch = x.arch.release w.lanes w.next := by
    have folded := foldl_release (w := w) (step := fun a y => match y.kind with | .brk => a.release y.lanes y.next | _ => a)
      x.arch.waits x.arch (fun b => by simp [hk]) fun z hz hzw b => by
        split
        · exact absurd ‹_› (other z hz hzw)
        · rfl
    rw [if_pos hw] at folded
    exact folded
  rw [resumed]
  exact ⟨Arch.release_lanesGo w hpc hst rfl rfl, rfl, rfl⟩

/-- The entering lanes that have reached their TXEND go on at the commit, whatever the sequence counts. -/
theorem Arch.txMerge_lanesGo {a : Arch} {w : Wait} (start : Arch) (t : Tx) (hw : w ∈ a.waits) (hk : w.kind = .txend)
    (hpc : a.pc.length = 32) (hst : a.st.length = 32) (other : ∀ z ∈ a.waits, z ≠ w → z.kind ≠ .txend) :
    LanesGo a (a.txMerge start t) w ∧ (a.txMerge start t).v = a.v ∧ (a.txMerge start t).s = a.s ∧ (a.txMerge start t).tx = none := by
  obtain ⟨b, hb, pc, st, v, s, tx⟩ : ∃ b : Arch, a.txMerge start t = b.release w.lanes w.next ∧ b.pc = a.pc ∧ b.st = a.st ∧
      b.v = a.v ∧ b.s = a.s ∧ b.tx = none := by
    have folded (b : Arch) := foldl_release (w := w) (step := fun a y => match y.kind with | .txend => a.release y.lanes y.next | _ => a)
      a.waits b (fun b => by simp [hk]) fun z hz hzw b => by
        split
        · exact absurd ‹_› (other z hz hzw)
        · rfl
    simp only [if_pos hw] at folded
    exact ⟨_, folded _, rfl, rfl, rfl, rfl, rfl⟩
  rw [hb]
  exact ⟨Arch.release_lanesGo w hpc hst pc st, v, s, tx⟩

/-- A WSYNC is released once each lane that it names waits there or has exited. -/
theorem Arch.wsyncRelease_lanesGo {a : Arch} {w : Wait} {m : LaneMask} (hw : a.waits = [w]) (hk : w.kind = .wsync m)
    (some_ : w.lanes ≠ 0) (named : w.lanes &&& ~~~m = 0) (htx : a.tx = none) (hpc : a.pc.length = 32) (hst : a.st.length = 32)
    (met : ∀ l, laneOn m l = true → laneOn w.lanes l = true ∨ a.stOf l = .exited) : LanesGo a a.wsyncRelease w := by
  have at_ : a.wsyncAt w.pc = w.lanes := by simp [Arch.wsyncAt, hw, hk]
  have inside (l : Nat) (h : w.lanes.getLsbD l = true) : m.getLsbD l = true := by
    have bit := congrArg (fun x : LaneMask => x.getLsbD l) named
    have small := laneOn_lt h
    simpa [h, small] using bit
  have all : m &&& ~~~(a.wsyncAt w.pc ||| a.wsyncFree w) = 0 := by
    refine BitVec.eq_of_getLsbD_eq fun l hl => ?_
    have gone (h : a.stOf l = .exited) : a.live.getLsbD l = false := by
      have live : a.live.getLsbD l = (decide (l < 32) && a.stOf l != .exited) := laneOn_maskOf _ l
      rw [live, h, bne_self_eq_false, Bool.and_false]
    simp only [at_, Arch.wsyncFree, htx, BitVec.getLsbD_and, BitVec.getLsbD_not, BitVec.getLsbD_or]
    cases hm : m.getLsbD l
    · simp
    · rcases met l hm with h | h
      · rw [show w.lanes.getLsbD l = true from h]
        simp
      · rw [gone h]
        simp [hl]
  have go : a.wsyncGo w = w.lanes := by
    have both : w.lanes &&& m = w.lanes := by
      refine BitVec.eq_of_getLsbD_eq fun l _ => ?_
      rw [BitVec.getLsbD_and]
      cases h : w.lanes.getLsbD l with
      | false => rfl
      | true => rw [inside l h]; rfl
    simp only [Arch.wsyncGo, hk, all, beq_self_eq_true, if_true]
    rw [at_, both]
  have released : a.wsyncRelease = a.release w.lanes w.next := by
    rw [Arch.wsyncRelease, hw, List.foldl_cons, List.foldl_nil, go, if_neg some_]
  rw [released]
  exact Arch.release_lanesGo w hpc hst rfl rfl

/-! ### A wait that ends or changes -/

/-- Two warps' registers agree, as far as an instruction that has waited may still write them. -/
def Arch.SameRegs (a b : Arch) : Prop := a.v = b.v ∧ a.s = b.s ∧ a.p = b.p ∧ a.flags = b.flags

theorem State.warp?_endWait {s : State} {id : WarpId} {w : Wait} {x : Warp} (f : Arch → Arch) (items : List Item)
    (hx : s.warp? id = some x) (hw : w ∈ x.arch.waits) :
    ∃ y, (s.endWait id w f items).warp? id = some y ∧ y.arch = (f x.arch).release w.lanes w.next ∧ y.depArrived = x.depArrived := by
  refine ⟨_, (State.warp?_mapWarp s id _).trans (congrArg (Option.map _) hx), ?_, rfl⟩
  simp [hw]

theorem State.warp?_changeWait {s : State} {id : WarpId} {w : Wait} {x : Warp} (k : WaitKind) (hx : s.warp? id = some x)
    (hw : w ∈ x.arch.waits) :
    ∃ y, (s.changeWait id w k).warp? id = some y ∧ y.arch.st = x.arch.st ∧ { w with kind := k } ∈ y.arch.waits :=
  ⟨_, (State.warp?_mapWarp s id _).trans (congrArg (Option.map _) hx), rfl, List.mem_map.mpr ⟨w, hw, by simp⟩⟩

/-- Where waking the wait ends it in a machine in which the warp's registers are as before, the wait ends as O25 says. -/
theorem WaitEnds.of_endWait {s : State} {id : WarpId} {w : Wait} {f g : Arch → Arch}
    (woken : ∀ x, s.waitsAt id w x → ∃ (t : State) (z : Warp) (items : List Item),
      s.wakeWait id w = t.endWait id w f items ∧ t.warp? id = some z ∧ z.arch = x.arch)
    (hpc : ∀ a, (f a).pc = a.pc) (hst : ∀ a, (f a).st = a.st) (regs : ∀ a, (f a).SameRegs (g a)) : WaitEnds s id w g := by
  intro x hx
  obtain ⟨t, z, items, hwake, hz, harch⟩ := woken x hx
  obtain ⟨-, hw, lpc, lst⟩ := hx
  obtain ⟨y, hy, released, -⟩ := State.warp?_endWait f items hz (harch ▸ hw)
  rw [harch] at released
  refine ⟨y, by rw [hwake, hy], ?_⟩
  rw [released]
  exact ⟨Arch.release_lanesGo w lpc lst (hpc _) (hst _), regs x.arch⟩

/-- The same for a wait whose instruction writes nothing more. -/
theorem WaitEnds.of_plain {s : State} {id : WarpId} {w : Wait}
    (woken : ∀ x, s.waitsAt id w x → s.wakeWait id w = s.endWait id w (fun a => a) []) : WaitEnds s id w fun a => a :=
  WaitEnds.of_endWait (fun x hx => ⟨s, x, [], woken x hx, hx.1, rfl⟩) (fun _ => rfl) (fun _ => rfl) fun _ => ⟨rfl, rfl, rfl, rfl⟩

/-- Nothing wakes where no warp is. -/
theorem State.wakeWait_unmanned {s : State} {id : WarpId} (w : Wait) (h : s.warp? id = none) : s.wakeWait id w = s := by
  unfold State.wakeWait
  rw [h]
  cases s.launch? id.launch <;> rfl

theorem State.settled_iff {s : State} {l : Launch} {ops recs : List Nat} : s.settled l ops recs = true ↔
    (∀ o ∈ s.ops, o.num ∉ ops) ∧ ∀ n ∈ recs, ∀ r, l.rec? n = some r → r.state ≠ .pending := by
  simp only [State.settled, Bool.and_eq_true, List.all_eq_true, Bool.not_eq_true', List.contains_eq_mem, decide_eq_false_iff_not]
  refine and_congr_right fun _ => forall₂_congr fun n _ => ?_
  cases l.rec? n <;> simp

/-! ### Waits on operations, beats, words and handles (R190, R242, R245, R269, R302, R303) -/

section
variable {s : State} {id : WarpId} {l : Launch} {w : Wait} (hl : s.launch? id.launch = some l)
include hl

theorem waitEnds_settle {ops recs : List Nat} (hk : w.kind = .settle ops recs) (h : s.settled l ops recs = true) :
    WaitEnds s id w fun a => a :=
  .of_plain fun x hx => by simp [State.wakeWait, hl, hx.1, hk, h]

theorem waitEnds_beat {tick : Nat} (hk : w.kind = .beat tick) (h : tick < s.beatOf l.ctx) (hc : s.beatClear l.ctx tick = true) :
    WaitEnds s id w fun a => a :=
  .of_plain fun x hx => by simp [State.wakeWait, hl, hx.1, hk, h, hc]

theorem waitEnds_sleep {d : Nat} (hk : w.kind = .sleep d true) (h : d ≤ s.beatOf l.ctx) : WaitEnds s id w fun a => a :=
  .of_plain fun x hx => by simp [State.wakeWait, hl, hx.1, hk, h]

theorem waitEnds_word {a : Loc} {gen : Nat} (hk : w.kind = .word a gen) (hp : ∀ k, k < 8 → s.isPoisoned (a.plus k) = false)
    (h : leNat (s.bytesAt a 8) / 2 ^ 48 % 2 ^ 16 ≠ gen) : WaitEnds s id w fun a => a :=
  .of_plain fun x hx => by
    have clean : ((upTo 8).map a.plus).any s.isPoisoned = false := by
      simpa [upTo] using hp
    have moved : (bits (s.arrivalWord a) 48 16 != gen) = true := bne_iff_ne.mpr h
    simp only [State.wakeWait, hl, hx.1, hk, clean, moved, Bool.false_eq_true, if_false, if_true]

theorem waitEnds_depdone {ops recs : List Nat} (hk : w.kind = .depdone ops recs) (h : s.settled l ops recs = true)
    (hf : s.firm id w) : (WaitEnds s id w fun a => a) ∧
      ∀ x, s.waitsAt id w x → ∃ y, (s.wakeWait id w).warp? id = some y ∧ y.depArrived = true := by
  have woken (x : Warp) (hx : s.warp? id = some x) : s.wakeWait id w =
      (s.mapWarp id fun y => { y with depArrived := true }).endWait id w (fun a => a) [] := by
    simp [State.wakeWait, hl, hx, hk, h, hf x hx]
  have arrived (x : Warp) (hx : s.warp? id = some x) :
      (s.mapWarp id fun y => { y with depArrived := true }).warp? id = some { x with depArrived := true } := by
    rw [State.warp?_mapWarp, hx]; rfl
  refine ⟨.of_endWait (fun x hx => ⟨_, _, _, woken x hx.1, arrived x hx.1, rfl⟩) (fun _ => rfl) (fun _ => rfl)
    fun _ => ⟨rfl, rfl, rfl, rfl⟩, fun x hx => ?_⟩
  obtain ⟨y, hy, -, hd⟩ := State.warp?_endWait (fun a => a) [] (arrived x hx.1) hx.2.1
  exact ⟨y, by rw [woken x hx.1, hy], hd⟩

/-- A YDONE whose context does not yield goes on (log 74). -/
theorem waitEnds_ydone {ops recs : List Nat} (hk : w.kind = .ydone ops recs) (h : s.settled l ops recs = true)
    (hf : s.firm id w) (hp : s.phaseOf l.ctx ≠ .yielding) : WaitEnds s id w fun a => a :=
  .of_plain fun x hx => by simp [State.wakeWait, hl, hx.1, hk, h, hf x hx.1, hp]

/-- A YDONE whose context yields waits on, and the warp has completed its handler (R303). -/
theorem wakeWait_ydone_yielding {ops recs : List Nat} {x : Warp} (hk : w.kind = .ydone ops recs) (h : s.settled l ops recs = true)
    (hf : s.firm id w) (hp : s.phaseOf l.ctx = .yielding) (hx : s.warp? id = some x) :
    (s.wakeWait id w).warp? id = some { x with ydone := true } := by
  have woken : s.wakeWait id w = s.mapWarp id fun y => { y with ydone := true } := by
    simp [State.wakeWait, hl, hx, hk, h, hf x hx, hp]
  rw [woken, State.warp?_mapWarp, hx]
  rfl

/-- HWAIT and HTEST end with their operation, and write what they write on one that has ended (R242). -/
theorem waitEnds_handle {r : HReg} {h : Nat} {pd : Option Nat} {test : Bool} (hk : w.kind = .handle r h pd test)
    (hr : ∀ x, s.warp? id = some x → x.arch.h.getD h none = some r) (hp : l.handleState r ≠ .pending)
    (hf : ¬(l.handleState r = .failed ∧ pd = none ∧ test = false)) :
    WaitEnds s id w fun a => a.handleEnd r (l.handleState r) (l.recFlags id r.num) w.active pd test := by
  have passes : handleFails (l.handleState r) pd test = false := by
    rw [← Bool.not_eq_true, handleFails_iff]
    exact hf
  have shape (a : Arch) : (a.handleEnd r (l.handleState r) (l.recFlags id r.num) w.active pd test).pc = a.pc ∧
      (a.handleEnd r (l.handleState r) (l.recFlags id r.num) w.active pd test).st = a.st := by
    rw [Arch.handleEnd_eq]
    cases pd <;> dsimp only <;> split <;> exact ⟨rfl, rfl⟩
  refine .of_endWait (fun x hx => ⟨s, x, x.arch.handleItems r (l.handleState r) (l.recFlags id r.num) pd, ?_, hx.1, rfl⟩)
    (fun a => (shape a).1) (fun a => (shape a).2) fun _ => ⟨rfl, rfl, rfl, rfl⟩
  simp only [State.wakeWait, hl, hx.1, hk, State.wakeHandle]
  rw [hr x hx.1]
  simp [hp, passes]

/-- SCRUB answers 0 once its context is clean (R333). -/
theorem waitEnds_scrub {c : CtxKey} {d : Nat} (hk : w.kind = .scrub c d) (hf : s.firm id w)
    (hc : ∀ y, s.context? c = some y → y.scrubbing = false) : WaitEnds s id w fun a => a.setReg (.s (fin32 d)) 0 0 := by
  refine .of_endWait (f := fun a => { a.setReg (.s (fin32 d)) 0 0 with poison := clearPoison [.s d] w.active a.poison })
    (fun x hx => ⟨s, x, [], ?_, hx.1, rfl⟩) (fun _ => rfl) (fun _ => rfl) fun _ => ⟨rfl, rfl, rfl, rfl⟩
  cases h : s.context? c with
  | none => simp [State.wakeWait, hl, hx.1, hk, hf x hx.1, h]
  | some y => simp [State.wakeWait, hl, hx.1, hk, hf x hx.1, h, hc y h]

end

/-! ### Barriers (R266) -/

/-- A change of warps changes no barrier. -/
@[simp] theorem State.barrier_mapWarp (s : State) (id : WarpId) (f : Warp → Warp) (launch group : Nat) (lv : Level) (n : Nat) :
    (s.mapWarp id f).barrier launch group lv n = s.barrier launch group lv n := by
  unfold State.barrier State.mapWarp State.mapGroup
  rw [State.launch?_mapLaunch_any _ _ _ _ (by intro l; rfl)]
  cases s.launch? launch with
  | none => rfl
  | some l =>
    by_cases here : l.num = id.launch
    · simp only [Option.map_some, here, if_true]
      rw [Launch.group?_mapGroup_any _ _ _ _ (by intro g; rfl)]
      cases l.group? group with
      | none => rfl
      | some g =>
        by_cases there : g.index = id.group
        · simp only [Option.map_some, there, if_true]
          cases lv <;> rfl
        · simp only [Option.map_some, there, if_false]
          cases lv <;> rfl
    · simp only [Option.map_some, here, if_false]

theorem getKey_setKey {κ α : Type} [DecidableEq κ] (k : κ) (x : α) (xs : List (κ × α)) : getKey k (setKey k x xs) = some x := by
  unfold getKey setKey
  split
  case isTrue h =>
    induction xs with
    | nil => simp at h
    | cons y ys ih =>
      by_cases hy : y.1 = k
      · simp [hy]
      · simpa [hy] using ih (by simpa [hy] using h)
  case isFalse h =>
    have absent : xs.find? (fun e => e.1 = k) = none :=
      List.find?_eq_none.mpr fun e he hk => h (List.any_eq_true.mpr ⟨e, he, hk⟩)
    simp [List.find?_append, absent]

/-- The barrier that a group of a launch names. -/
def Launch.barrierOf (l : Launch) (g : Group) (lv : Level) (n : Nat) : Barrier :=
  match lv with
  | .core => g.bars.getD n Barrier.fresh
  | .quad => (getKey (g.index / 4, n) l.quadBars).getD Barrier.fresh
  | .tier => (getKey n l.tierBars).getD Barrier.fresh
  | .pkg => l.pkgBars.getD n Barrier.fresh

theorem State.barrier_eq {s : State} {launch group : Nat} {l : Launch} {g : Group} (hl : s.launch? launch = some l)
    (hg : l.group? group = some g) (lv : Level) (n : Nat) : s.barrier launch group lv n = l.barrierOf g lv n := by
  simp only [State.barrier, hl, hg]
  rfl

/-- A group whose core barrier has been set. -/
def Group.withBarrier (lv : Level) (n : Nat) (b : Barrier) (g : Group) : Group :=
  match lv with | .core => { g with bars := g.bars.set n b } | _ => g

/-- A launch for one of whose groups a barrier has been set. -/
def Launch.withBarrier (lv : Level) (n : Nat) (b : Barrier) (g : Group) (l : Launch) : Launch :=
  match lv with
  | .core => l.mapGroup g.index fun x => { x with bars := x.bars.set n b }
  | .quad => { l with quadBars := setKey (g.index / 4, n) b l.quadBars }
  | .tier => { l with tierBars := setKey n b l.tierBars }
  | .pkg => { l with pkgBars := l.pkgBars.set n b }

theorem Launch.group?_withBarrier {l : Launch} {g : Group} {group : Nat} (hg : l.group? group = some g) (lv : Level) (n : Nat)
    (b : Barrier) : (l.withBarrier lv n b g).group? group = some (g.withBarrier lv n b) := by
  have index : g.index = group := by simpa using List.find?_some hg
  cases lv with
  | core =>
    simp only [Launch.withBarrier, index]
    rw [Launch.group?_mapGroup _ _ _ (by intro x; rfl), hg]
    rfl
  | _ => exact hg

/-- The barrier reads as it was set, where its place exists. -/
theorem Launch.barrierOf_withBarrier {l : Launch} {g : Group} {lv : Level} {n : Nat} (b : Barrier)
    (hcore : lv = .core → n < g.bars.length) (hpkg : lv = .pkg → n < l.pkgBars.length) :
    (l.withBarrier lv n b g).barrierOf (g.withBarrier lv n b) lv n = b := by
  cases lv with
  | core => simp [Launch.barrierOf, Group.withBarrier, hcore rfl]
  | quad => simp [Launch.barrierOf, Launch.withBarrier, Group.withBarrier, getKey_setKey]
  | tier => simp [Launch.barrierOf, Launch.withBarrier, getKey_setKey]
  | pkg => simp [Launch.barrierOf, Launch.withBarrier, hpkg rfl]

section
variable {s : State} {id : WarpId} {l : Launch} {g : Group} (hl : s.launch? id.launch = some l) (hg : l.group? id.group = some g)
include hl hg

theorem State.launch?_setBarrier (lv : Level) (n : Nat) (b : Barrier) :
    (s.setBarrier id.launch id.group lv n b).launch? id.launch = some (l.withBarrier lv n b g) := by
  have index : g.index = id.group := by simpa using List.find?_some hg
  unfold State.setBarrier
  rw [State.launch?_mapLaunch, hl]
  · cases lv <;> simp only [Option.map_some, hg, Launch.withBarrier, index]
  · intro l
    cases l.group? id.group with
    | none => rfl
    | some g => cases lv <;> rfl

theorem State.barrier_setBarrier {lv : Level} {n : Nat} (b : Barrier) (hcore : lv = .core → n < g.bars.length)
    (hpkg : lv = .pkg → n < l.pkgBars.length) :
    (s.setBarrier id.launch id.group lv n b).barrier id.launch id.group lv n = b := by
  rw [State.barrier_eq (State.launch?_setBarrier hl hg lv n b) (Launch.group?_withBarrier hg lv n b)]
  exact Launch.barrierOf_withBarrier b hcore hpkg

/-- A change of a barrier changes no warp. -/
theorem State.warp?_setBarrier (lv : Level) (n : Nat) (b : Barrier) :
    (s.setBarrier id.launch id.group lv n b).warp? id = s.warp? id := by
  simp only [State.warp?, State.group?, State.launch?_setBarrier hl hg, hl, Option.bind_some, Launch.group?_withBarrier hg, hg]
  cases lv <;> rfl

end

/-- A wait for a barrier's phase ends once the phase is another. -/
theorem waitEnds_barWait {s : State} {id : WarpId} {l : Launch} {w : Wait} {lv : Level} {n phase : Nat}
    (hl : s.launch? id.launch = some l) (hk : w.kind = .barWait lv n phase)
    (hp : (s.barrier id.launch id.group lv n).phase ≠ phase) : WaitEnds s id w fun a => a :=
  .of_plain fun x hx => by simp [State.wakeWait, hl, hx.1, hk, State.wakeBarrier, hp]

section
variable {s : State} {id : WarpId} {l : Launch} {w : Wait} {lv : Level} {n phase : Nat} {cnt : Option Nat} {again : Bool} {x : Warp}
variable (hl : s.launch? id.launch = some l) (hk : w.kind = .barArrive lv n cnt phase again) (hf : s.firm id w)
variable (hp : (s.barrier id.launch id.group lv n).phase ≠ phase)
include hl hk hf hp

/-- An arrival that met its own bit counts in the next phase; a BAR then waits for that one. -/
theorem State.wakeWait_barArrive (hx : s.warp? id = some x)
    (free : memberBit lv id ∉ (s.barrier id.launch id.group lv n).arrived) :
    s.wakeWait id w =
      let b := s.barrier id.launch id.group lv n
      let t := s.setBarrier id.launch id.group lv n (b.arrive (memberBit lv id) cnt)
      if again then t.changeWait id w (.barWait lv n b.phase) else t.endWait id w (fun a => a) [] := by
  simp [State.wakeWait, hl, hx, hk, hf x hx, State.wakeBarrier, hp, free]

/-- One that meets its bit there too waits for the phase after. -/
theorem State.wakeWait_barArrive_met (hx : s.waitsAt id w x)
    (met : memberBit lv id ∈ (s.barrier id.launch id.group lv n).arrived) :
    ∃ y, (s.wakeWait id w).warp? id = some y ∧ y.arch.st = x.arch.st ∧
      { w with kind := .barArrive lv n cnt (s.barrier id.launch id.group lv n).phase again } ∈ y.arch.waits := by
  have woken : s.wakeWait id w = s.changeWait id w (.barArrive lv n cnt (s.barrier id.launch id.group lv n).phase again) := by
    simp [State.wakeWait, hl, hx.1, hk, hf x hx.1, State.wakeBarrier, hp, met]
  rw [woken]
  exact State.warp?_changeWait _ hx.1 hx.2.1

variable {g : Group} (hg : l.group? id.group = some g)
variable (free : memberBit lv id ∉ (s.barrier id.launch id.group lv n).arrived)
include hg free

/-- The arrival of a warp that is there counts, where the barrier has its place. -/
theorem State.wakeWait_barArrive_counts (hx : s.warp? id = some x) (hcore : lv = .core → n < g.bars.length)
    (hpkg : lv = .pkg → n < l.pkgBars.length) :
    (s.wakeWait id w).barrier id.launch id.group lv n =
      (s.barrier id.launch id.group lv n).arrive (memberBit lv id) cnt := by
  rw [State.wakeWait_barArrive hl hk hf hp hx free]
  dsimp only
  split
  · rw [State.changeWait, State.barrier_mapWarp, State.barrier_setBarrier hl hg _ hcore hpkg]
  · rw [State.endWait, State.barrier_mapWarp, State.barrier_setBarrier hl hg _ hcore hpkg]

/-- A BARA then goes on. -/
theorem waitEnds_barArrive (ha : again = false) : WaitEnds s id w fun a => a := by
  refine .of_endWait (fun x hx => ?_) (fun _ => rfl) (fun _ => rfl) fun _ => ⟨rfl, rfl, rfl, rfl⟩
  have woken := State.wakeWait_barArrive hl hk hf hp hx.1 free
  rw [ha] at woken
  exact ⟨_, x, [], woken, (State.warp?_setBarrier hl hg lv n _).trans hx.1, rfl⟩

/-- A BAR then waits for the phase in which it has arrived. -/
theorem State.wakeWait_barArrive_waits (ha : again = true) (hx : s.waitsAt id w x) :
    ∃ y, (s.wakeWait id w).warp? id = some y ∧ y.arch.st = x.arch.st ∧
      { w with kind := .barWait lv n (s.barrier id.launch id.group lv n).phase } ∈ y.arch.waits := by
  rw [State.wakeWait_barArrive hl hk hf hp hx.1 free, ha]
  exact State.warp?_changeWait _ ((State.warp?_setBarrier hl hg _ _ _).trans hx.1) hx.2.1

end

/-! ### STEPEND (R382) -/

/-- Squashes for a cause other than a conflict, seen at one warp. -/
theorem State.warp?_squashWarps (s : State) (f : WarpId → Warp → Bool) (id : WarpId) :
    (s.squashWarps f).warp? id = (s.warp? id).map fun w => if f id w then w.squash else w := by
  unfold State.warp? State.group? State.launch? State.squashWarps Launch.group?
  dsimp only
  rw [List.find?_map]
  simp only [Function.comp_def]
  cases hl : s.launches.find? fun l => l.num == id.launch with
  | none => rfl
  | some l =>
    have num : l.num = id.launch := by simpa using List.find?_some hl
    simp only [Option.map_some, Option.bind_some, List.find?_map, Function.comp_def]
    cases hg : l.groups.find? fun g => g.index == id.group with
    | none => rfl
    | some g =>
      have index : g.index = id.group := by simpa using List.find?_some hg
      simp only [Option.map_some, Option.bind_some, List.getElem?_map, List.getElem?_zipIdx, num, index]
      cases g.warps[id.warp]? <;> simp

/-- A change of translation that an instruction makes leaves its own warp as it was (R326). -/
theorem State.warp?_translationChange (s : State) (id : WarpId) (cs : CtxKey → Bool) (ps : Nat → Bool) :
    (s.translationChange (some id) cs ps).warp? id = s.warp? id := by
  rw [State.translationChange, State.warp?_squashWarps]
  simp only [bne_self_eq_false, Bool.false_and, Bool.false_eq_true, if_false, Option.map_id']
  rfl

theorem State.copyBytes_keeps (s : State) (src dst n : Nat) :
    (s.copyBytes src dst n).launches = s.launches ∧ (s.copyBytes src dst n).parts = s.parts := ⟨rfl, rfl⟩

/-- Changes in turn that keep launches and partitions keep them together. -/
theorem State.foldl_keeps {α : Type} (f : State → α → State) (xs : List α) (s : State)
    (h : ∀ t x, (f t x).launches = t.launches ∧ (f t x).parts = t.parts) :
    (xs.foldl f s).launches = s.launches ∧ (xs.foldl f s).parts = s.parts :=
  List.foldlRecOn (motive := fun t : State => t.launches = s.launches ∧ t.parts = s.parts) xs f ⟨rfl, rfl⟩
    fun t ht x _ => ⟨(h t x).1.trans ht.1, (h t x).2.trans ht.2⟩

/-- Copying rows of a version changes device memory and its poison alone. -/
theorem State.copyRows_keeps (s : State) (c : CtxKey) (r : Region) (k : Nat) :
    (s.copyRows c r k).launches = s.launches ∧ (s.copyRows c r k).parts = s.parts := by
  unfold State.copyRows
  split
  · exact ⟨rfl, rfl⟩
  · exact State.foldl_keeps _ _ s fun t _ => t.copyBytes_keeps _ _ _

/-- A region of a partition after its own change. -/
theorem State.getKey_mapRegion {s : State} {p n : Nat} (f : Region → Region) (hp : p < s.parts.length) :
    getKey n ((s.mapRegion p n f).part p).regions = (getKey n (s.part p).regions).map f := by
  have part : ((s.mapRegion p n f).part p).regions = (s.part p).regions.map fun r => if r.1 = n then (r.1, f r.2) else r := by
    simp [State.part, State.mapRegion, State.mapPart, List.getD_eq_getElem?_getD, updAt_getElem?, hp]
  rw [part]
  induction (s.part p).regions with
  | nil => rfl
  | cons r rs ih =>
    unfold getKey at ih ⊢
    by_cases h : r.1 = n
    · simp [h]
    · simpa [h] using ih

/-- A region after its step has ended, with the versions exchanged or not. -/
def Region.stepEnded (r : Region) (keeps : Bool) : Region := { r with open_ := false, cur := if keeps then !r.cur else r.cur }

section
variable {s : State} {c : CtxKey} {n : Nat} {r : Region} {flag : Word} (hr : getKey n (s.part c.part).regions = some r)
include hr

theorem State.stepEnd_closed (id : WarpId) (ho : r.open_ = false) : s.stepEnd id c n flag = (s, false) := by
  unfold State.stepEnd
  rw [hr]
  simp [ho]

theorem State.stepEnd_dropped (id : WarpId) (ho : r.open_ = true) (hk : ((flag == 0) && !r.fail) = false) :
    s.stepEnd id c n flag = (s.mapRegion c.part n fun y => { y with open_ := false }, false) := by
  have dropped : ¬(decide (flag = 0) && !r.fail) = true := by simpa using hk
  unfold State.stepEnd
  rw [hr]
  dsimp only
  rw [if_neg (by simp [ho]), if_neg dropped]

theorem State.stepEnd_exchanged (id : WarpId) (ho : r.open_ = true) (hk : ((flag == 0) && !r.fail) = true) :
    ∃ t : State, s.stepEnd id c n flag = (t.translationChange (some id) (inPart c.part) r.holds, true) ∧ t.launches = s.launches ∧
      t.parts = (s.mapRegion c.part n fun y => { y with cur := !y.cur, open_ := false }).parts := by
  have exchanged : (decide (flag = 0) && !r.fail) = true := by simpa using hk
  obtain ⟨launches, parts⟩ := State.foldl_keeps (fun t k => t.copyRows c r k) (upTo r.pages) s fun t k => t.copyRows_keeps c r k
  unfold State.stepEnd
  rw [hr]
  dsimp only
  rw [if_neg (by simp [ho]), if_pos exchanged]
  exact ⟨_, rfl, launches, congrArg (fun ps => updAt _ ps c.part) parts⟩

/-- What STEPEND does once no run is over the region: it answers whether an open step keeps its version, exchanges the versions if
so, and leaves its own warp as it was. -/
theorem State.stepEnd_spec (id : WarpId) (flag : Word) (hp : c.part < s.parts.length) :
    (s.stepEnd id c n flag).2 = (r.open_ && ((flag == 0) && !r.fail)) ∧ (s.stepEnd id c n flag).1.warp? id = s.warp? id ∧
      getKey n ((s.stepEnd id c n flag).1.part c.part).regions =
        some (if r.open_ then r.stepEnded ((flag == 0) && !r.fail) else r) := by
  cases ho : r.open_ with
  | false =>
    rw [State.stepEnd_closed hr id ho]
    exact ⟨rfl, rfl, hr⟩
  | true =>
    cases hk : (flag == 0) && !r.fail with
    | false =>
      rw [State.stepEnd_dropped hr id ho hk]
      refine ⟨rfl, rfl, ?_⟩
      rw [State.getKey_mapRegion _ hp, hr]
      rfl
    | true =>
      obtain ⟨t, ht, launches, parts⟩ := State.stepEnd_exchanged hr id ho hk
      rw [ht]
      refine ⟨rfl, ?_, ?_⟩
      · rw [State.warp?_translationChange]
        simp only [State.warp?, State.group?, State.launch?, launches]
      · have changed := State.getKey_mapRegion (n := n) (fun y => { y with cur := !y.cur, open_ := false }) hp
        rw [hr] at changed
        show getKey n (t.part c.part).regions = _
        rw [State.part, parts]
        exact changed

end

section
variable {s : State} {id : WarpId} {l : Launch} {w : Wait} {n pd : Nat} {flag : Word} {r : Region} {x : Warp}
variable (hl : s.launch? id.launch = some l) (hk : w.kind = .stepend n flag pd) (hf : s.firm id w)
variable (hr : getKey n (s.part l.ctx.part).regions = some r) (hgo : s.stepWaits l.ctx r flag = false)
include hl hk hf hr hgo

theorem State.wakeWait_stepend (hx : s.warp? id = some x) : s.wakeWait id w =
    (s.stepEnd id l.ctx n flag).1.endWait id w (fun a => a.waitPred w pd (s.stepEnd id l.ctx n flag).2) [] := by
  simp [State.wakeWait, hl, hx, hk, hf x hx, hr, hgo]

variable (hp : l.ctx.part < s.parts.length)
include hp

/-- STEPEND goes on once no run is over its region, and writes whether the step keeps its version. -/
theorem waitEnds_stepend : WaitEnds s id w fun a => a.setPred pd w.active fun _ => r.open_ && ((flag == 0) && !r.fail) := by
  obtain ⟨answer, warp, -⟩ := State.stepEnd_spec hr id flag hp
  refine .of_endWait (f := fun a => a.waitPred w pd (s.stepEnd id l.ctx n flag).2) (fun x hx => ?_) (fun _ => rfl) (fun _ => rfl)
    fun a => ?_
  · exact ⟨_, x, [], State.wakeWait_stepend hl hk hf hr hgo hx.1, warp.trans hx.1, rfl⟩
  · rw [answer]
    exact ⟨rfl, rfl, rfl, rfl⟩

/-- Its region's step has then ended, where the warp is there. -/
theorem State.wakeWait_stepend_region (hx : s.warp? id = some x) :
    getKey n ((s.wakeWait id w).part l.ctx.part).regions =
      some (if r.open_ then r.stepEnded ((flag == 0) && !r.fail) else r) := by
  obtain ⟨-, -, region⟩ := State.stepEnd_spec hr id flag hp
  rw [State.wakeWait_stepend hl hk hf hr hgo hx]
  exact region

end

/-! ### A wait of a warp that is not there -/

/-- The staged launch has a group of one warp: place 1 of the group holds none. -/
def unmanned : WarpId := ⟨0, 0, 1⟩

/-- A BARA of that place, which would have met its bit in phase 9 of the group's core barrier 0. -/
def unmannedBara : Wait := { lanes := 1, active := 1, pc := 0, next := 8, kind := .barArrive .core 0 none 9 false }

theorem unmanned_warp : State.reset.stage.warp? unmanned = none := by decide +kernel

theorem unmanned_group : ∃ l g, State.reset.stage.launch? unmanned.launch = some l ∧ l.group? unmanned.group = some g ∧
    0 < g.bars.length := by
  have there : ((State.reset.stage.launch? unmanned.launch).any fun l => (l.group? unmanned.group).any fun g =>
      decide (0 < g.bars.length)) = true := by decide +kernel
  obtain ⟨l, hl, there⟩ := (Option.any_eq_true ..).mp there
  obtain ⟨g, hg, there⟩ := (Option.any_eq_true ..).mp there
  exact ⟨l, g, hl, hg, of_decide_eq_true there⟩

theorem unmanned_barrier : State.reset.stage.barrier unmanned.launch unmanned.group .core 0 = Barrier.fresh := by decide +kernel

/-- Refutes O25: its clause on a BARA that met its own bit concludes that the group's barrier has the arrival, and does not ask that
the warp is there. For place 1 of a group of one warp nothing wakes, and the barrier stays as it was. -/
theorem not_waitsEnd : ¬ Obligations.WaitsEnd := by
  rintro ⟨-, barriers, -⟩
  obtain ⟨l, g, hl, hg, place⟩ := unmanned_group
  have free : 1 ∉ (State.reset.stage.barrier unmanned.launch unmanned.group .core 0).arrived := by simp [unmanned_barrier, Barrier.fresh]
  have other : (State.reset.stage.barrier unmanned.launch unmanned.group .core 0).phase ≠ 9 := by simp [unmanned_barrier, Barrier.fresh]
  have firm : State.reset.stage.firm unmanned unmannedBara := fun x hx => by simp [unmanned_warp] at hx
  obtain ⟨-, arrives, -⟩ := barriers State.reset.stage unmanned l g unmannedBara .core 0 9 hl hg other
  obtain ⟨counts, -⟩ := arrives none false rfl firm free (fun _ => place) nofun
  rw [State.wakeWait_unmanned _ unmanned_warp, unmanned_barrier] at counts
  simp [Barrier.arrive, Barrier.fresh, insertNew] at counts

end Sys2Proof.Machine
end
